-- ==== Sys2Proof/Word.lean ====
section
/-!
DEFINITION. The word types of the Greub and their plainest arithmetic (00_scope.md, R6: little-endian bytes).
-/
namespace Sys2Proof

/-- A byte of memory, scratchpad or a slot. -/
abbrev Byte := BitVec 8
/-- One lane of a vector register, a mask register, an FP32 number (R33). -/
abbrev Word := BitVec 32
/-- A scalar register (R33). -/
abbrev DWord := BitVec 64
/-- A sparse table: keys rising, no entry that equals what an unlisted key reads as. -/
abbrev SMap (α : Type) := List (Nat × α)

end Sys2Proof
end

