-- ==== Sys2Proof/Config.lean ====
section
/-!
DEFINITION. What the spec leaves open: opaque constants with no body, so that no proof can rest on a value of them.
-/
namespace Sys2Proof.Config

/-- The n-th free value of a run, for results the spec does not state. -/
opaque freeValue : Nat → BitVec 64

/-- The DRAM access time in ns of the n-th access, before it is brought into the range of R281. -/
opaque dramTime : Nat → Nat

/-- The n-th of the 16 write windows of a die's control processor (R376), as first address and length. -/
opaque window : Nat → Nat → Nat × Nat

/-- The 256-bit boot nonce of the n-th module reset (R370 step 5). -/
opaque bootNonce : Nat → BitVec 256

/-- The time in clk that the n-th transit with no stated bound takes (outer-level arrivals, R132). -/
opaque transit : Nat → Nat

/-- The ns for which a die's clock stops at the n-th change of its point, before it is brought into the bound of R375. -/
opaque clockStop : Nat → Nat

/-- The ns that the n-th voltage ramp takes, before it is brought within the 50 µs of R92. -/
opaque rampTime : Nat → Nat

/-- The public key whose hash the boot ROM holds (R370 step 2), as a point of P-384. -/
opaque bootKey : Nat × Nat

/-- The control-processor firmware in the boot flash (R370 step 4). -/
opaque firmware : List (BitVec 8)

/-- Whether the DRAM stacks and enabled links train at the n-th module reset (R370 step 6). -/
opaque trains : Nat → Bool

end Sys2Proof.Config
end

