-- ==== Sys2Proof/Syntax.lean ====
section
/-!
DEFINITION. The instruction words of R58 to R62, the opcodes of R77, and one constructor of Instr per row of
spec/opcode_table.json (208 opcodes in base and extended rows, and the 111 other steps of the machine).
-/
namespace Sys2Proof

/-- The base word of R60, without OPC and LEN. -/
structure BaseWord where
  x : BitVec 6
  y : BitVec 6
  z : BitVec 6
  wsel : BitVec 3
  dist : BitVec 2
  deriving DecidableEq, Repr

/-- The extended word of R62 with MOD cut into the subfields of R66, without OPC and LEN; `lit` is the literal of a
word with LEN 0b11 (R58). -/
structure ExtWord where
  rm : BitVec 3
  ty : BitVec 5
  sat : Bool
  kc : BitVec 2
  kb : BitVec 2
  ka : BitVec 2
  opx : BitVec 9
  sc : BitVec 8
  sb : BitVec 8
  sa : BitVec 8
  d : BitVec 8
  trc : Bool
  trb : Bool
  tra : Bool
  wait : BitVec 12
  setf : BitVec 4
  pe : Bool
  pn : Bool
  pk : BitVec 3
  dist : BitVec 5
  lit : Option (BitVec 64)
  deriving DecidableEq, Repr

/-- The words of an opcode other than its base word: a base word with a literal (LEN 0b01) or an extended word. -/
inductive XWord where
  | lit (f : BaseWord) (l : BitVec 64)
  | ext (e : ExtWord)
  deriving DecidableEq, Repr

/-- An instruction word of any of the four lengths of R58. -/
inductive Word3 where
  | base (f : BaseWord)
  | lit (f : BaseWord) (l : BitVec 64)
  | ext (e : ExtWord)
  deriving DecidableEq, Repr

/-- An `XWord` as a word of any length. -/
def XWord.toWord3 : XWord → Word3
  | .lit f l => .lit f l
  | .ext e => .ext e

/-- The three roles of a group (R23). -/
inductive Role where
  | vector | matrix | copy
  deriving DecidableEq, Repr

/-- The read-modify-write operations of atomics and reductions (R170, R171). -/
inductive Rmw where
  | add | min | max | and | or | xor | xch | cas
  deriving DecidableEq, Repr

/-- An access that an agent outside the module's groups asks for: a load, plain stores, one atomic or reduction on a word
of `width` bytes with type code `ty`, or a query (R326, R327, R325). Addresses are module-local physical addresses. -/
inductive MemAct where
  | load (addr len : Nat)
  | store (bytes : List (Nat × Byte))
  | rmw (op : Rmw) (ty width addr : Nat) (c cmp : DWord) (ret : Bool)
  /-- a non-returning reduction of several words of one line, as one write (R172) -/
  | reduce (op : Rmw) (ty width : Nat) (words : List (Nat × DWord))
  /-- an `hdist` of an address homed here (R294) -/
  | hdist (addr : Nat)
  /-- a prefetch of the line of an address (R168) -/
  | prefetch (addr : Nat)
  /-- the line of an address takes a poison mark (R274) -/
  | mark (addr : Nat)
  /-- the line of an address is performed at memory (R169, R184) -/
  | flush (addr : Nat)
  deriving DecidableEq, Repr

/-- An access of a host-die core (R326): the core, the partition whose lease term applies, the policy, the access. -/
structure HostAcc where
  core : Nat
  part : Nat
  pol : Nat
  act : MemAct
  deriving DecidableEq, Repr

/-- What a link frame carries (R320, R324, R329, R371). -/
inductive FrameBody where
  /-- a peer's request to memory homed here; the reply names `token` -/
  | request (module token part ctx pol : Nat) (act : MemAct)
  /-- the reply to request `req` of this module: the line's bytes after the access, the old word of an atomic, the tag,
  the completion time, the lease granted and the home's arm number, and whether the line was poisoned -/
  | reply (req : Nat) (data : List (Nat × Byte)) (old : DWord) (tag ct : Nat) (lease : Option Nat) (arm : Nat)
      (poison : Bool)
  /-- request `req` of this module was performed nowhere: no route led on (`detail` 1), or the peer's partition has ended
  (`detail` 2) (R324, R336) -/
  | refused (req detail : Nat)
  /-- member `rank` of communicator `comm` of partition `part` has issued its `k`-th collective -/
  | collIssue (part comm k rank time opc ty op : Nat) (shape : DWord)
  /-- bytes of member `rank` in phase `phase` of its collective's exchange, from offset `off` of what it sends on (R335) -/
  | collData (part comm k rank phase off : Nat) (bytes : List Byte)
  /-- a member's partition ended or was reset (R336, detail 2) -/
  | peerGone (part comm : Nat)
  /-- a time sample of a module (R371) -/
  | sample (module time : Nat)
  /-- the receiver of a frame whose CRC failed asks for frame `seq` and those after it again (R324) -/
  | again (seq : Nat)
  deriving DecidableEq, Repr

/-- A line of payload as it crosses a link (R323): the encoding header and the payload bits. -/
structure WireLine where
  header : BitVec 16
  payload : Nat
  deriving DecidableEq, Repr

/-- A link frame (R324): its sequence number on the link, the module it is for (R321), the number of the next frame that its
sender accepts, whether its CRC holds, its body, the encoded lines that carry the body's bytes (R323), and the 256-byte block of a
transfer that it is part of (R322), 0 where it is of none. -/
structure LinkFrame where
  seq : Nat
  dest : Nat
  acc : Nat
  crcOk : Bool
  body : FrameBody
  wire : List WireLine
  block : Nat
  deriving DecidableEq, Repr

/-- System registers that have no row of their own (R341, R347, R377). -/
inductive SysReg where
  /-- a byte of the block ownership table (R347) -/
  | owner (block : Nat) (v : BitVec 8)
  /-- base of a front end's host queue (R341) -/
  | feBase (fe : Nat) (v : DWord)
  /-- size of a front end's host queue in entries (R341) -/
  | feSize (fe : Nat) (v : BitVec 32)
  /-- the point below which firmware lowers a die (R377) -/
  | dieLower (die point : Nat)
  deriving DecidableEq, Repr

/-- The 208 opcodes of the opcode map of R77, one constructor each, in the order of the map. -/
inductive Op where
  | nop
  | br
  | brZ
  | brNz
  | brLz
  | brGez
  | brx
  | call
  | callx
  | ret
  | exit
  | yield
  | split
  | barArrive
  | barWait
  | barSync
  | barDrop
  | qpush
  | qpop
  | sadd
  | ssub
  | smul
  | sand
  | sor
  | sxor
  | sshl
  | sshr
  | smin
  | smax
  | smov
  | ssel
  | vaddS32
  | vsubS32
  | vmulS32
  | vmad
  | vand
  | vor
  | vxor
  | vshl
  | vshr
  | vminS32
  | vmaxS32
  | vabsS32
  | vnegS32
  | vsel
  | vmov
  | vdot4
  | vaddF32
  | vsubF32
  | vmulF32
  | vfma
  | vfms
  | vfnma
  | vminF32
  | vmaxF32
  | vabsF32
  | vnegF32
  | vdiv
  | vsqrt
  | vrsqrt
  | vrcp
  | vexp2
  | vlog2
  | vexp
  | vlog
  | vsin
  | vcos
  | vtanh
  | vsigm
  | vrint
  | vscale
  | vpack
  | vunpack
  | vshfl
  | vbcast
  | vrot
  | vbfly
  | vred
  | vballot
  | vld
  | vst
  | vldw
  | vstw
  | vlds
  | vsts
  | vldsw
  | vstsw
  | vldb
  | fence
  | vaadd
  | vradd
  | vcmpS32
  | vcmpF32
  | vkop
  | sspr
  | scmp
  | slea
  | sbfe
  | sbfi
  | sclz
  | spopc
  | vclz
  | vpopc
  | vbfe
  | vbfi
  | vmulh
  | vadds
  | vsubs
  | callv
  | retv
  | brAny
  | brAll
  | migrate
  | launch
  | launchWait
  | sleep
  | smulh
  | sdiv
  | srem
  | barTest
  | barAdd
  | qpushn
  | qpopn
  | qlen
  | qpeek
  | vcvt
  | vquant
  | vdequant
  | vext
  | vins
  | scvt
  | vmant
  | vexpo
  | vscan
  | vldnf
  | vldk
  | vstk
  | vprf
  | vamin
  | vamax
  | vaand
  | vaor
  | vaxor
  | vaxch
  | vacas
  | vrmin
  | vrmax
  | vrbit
  | mmac
  | mgmac
  | mmaci
  | mcbload
  | msmx
  | msnorm
  | mclaim
  | mrel
  | mfeed
  | mfeeda
  | mst
  | mld
  | mzero
  | mpoly
  | miterG
  | miterS
  | mgang
  | mgleave
  | mcoef
  | mscale
  | mtrans
  | mstat
  | xcopy
  | xcopy2
  | xcopy3
  | xgath
  | xscat
  | xslot
  | xfill
  | xprf
  | xred
  | xstat
  | xcancel
  | xhand
  | hdist
  | hpin
  | hunpin
  | hpre
  | hdemote
  | hocc
  | pmake
  | pfill
  | peq
  | pwait
  | ppoll
  | pfind
  | lput
  | lget
  | lallred
  | lallgat
  | lredsc
  | lbcast
  | trap
  | rgn
  | brk
  | mark
  | evt
  | opt
  | prio
  | gstat
  deriving DecidableEq, Repr

/-- The steps of the machine that are no instruction of a program (95_what_each_step_holds.md), with what they act
on; the state keeps those that are due later, and those that agents outside supply, as terms of this type. -/
inductive Event where
  | splitPromote (g : Nat)
  | yieldEnd (g : Nat)
  | sleepDeadline (g : Nat)
  | callvEnqueue (g : Nat) (place : Nat)
  | calleeTake (g : Nat)
  | migrateMove (g : Nat)
  | arrivalCounted (op : Nat)
  | loadReply (req : Nat)
  | spadAccessComplete (op : Nat)
  | storeAck (req : Nat)
  | fenceComplete (op : Nat)
  | groupEnd (g : Nat)
  | teamPlace (launch : Nat)
  | teamEnd (team : Nat)
  | trapRecordAppend (g : Nat)
  | resumeContinue (g : Nat)
  | resumeRerun (g : Nat)
  | resumeEndGroup (g : Nat)
  | resumeEndLaunch (g : Nat)
  | resumeInvalid (g : Nat) (action : Nat)
  | preempt (ctx : Nat)
  | saveComplete (sv : Nat)
  | partialEviction (launch : Nat) (core : Nat)
  | contextRestore (vd : Nat)
  | slotClaimTake (core : Nat)
  | slotRelease (op : Nat)
  | arrayStart (core : Nat)
  | arrayComplete (core : Nat)
  | mfeedComplete (op : Nat)
  | mfeedaComplete (op : Nat)
  | iterationPhaseEnd (core : Nat)
  | gangRendezvous (core : Nat)
  | gangTimeout (core : Nat)
  | copyCommandStart (cmd : Nat)
  | copyBlock (eng : Nat)
  | copyLanding (core : Nat)
  | copyComplete (cmd : Nat)
  | xhandPush (cmd : Nat)
  | copyAbortFault (g : Nat)
  | frontAccept (req : Nat)
  | frontServe (arm : Nat)
  | waveFind (req : Nat)
  | tileLand (arm : Nat) (tile : Nat)
  | memoryReply (arm : Nat) (tile : Nat) (req : Nat)
  | tileLeaveComplete (arm : Nat) (tile : Nat)
  | sharerDropAck (arm : Nat) (line : Nat) (sector : Nat)
  | writeUpdateWords (upd : Nat)
  | copyTileReply (req : Nat)
  | leaseRenewal (req : Nat)
  | leaseExpiry (arm : Nat) (line : Nat)
  | departureWindowEnd (g : Nat)
  | homeChange (block : Nat) (toArm : Nat)
  | forwardEntryFree (arm : Nat) (block : Nat)
  | promiseVisit (op : Nat)
  | promiseCasParent (req : Nat)
  | promiseLockGrant (cell : Nat)
  | promiseWakeSend (cell : Nat)
  | promiseWakeArrive (wake : Nat)
  | linkFrameReceive (link : Nat) (frame : LinkFrame)
  | linkDown (link : Nat)
  | collectiveMatch (coll : Nat)
  | collectiveTimeout (coll : Nat)
  | collectiveComplete (coll : Nat)
  | lputSignal (op : Nat)
  | hostAccess (acc : HostAcc)
  | hostBarrier (core : Nat)
  | pcieWrite (requester : Nat) (addr : Nat) (bytes : List (BitVec 8))
  | pcieRead (requester : Nat) (addr : Nat) (len : Nat)
  | pcieMsi (requester : Nat) (addr : Nat) (bytes : List (BitVec 8))
  | timeSample (module : Nat) (time : Nat)
  | timeAgreementLoss
  | doorbell (fe : Nat) (tail : Nat)
  | cmdLaunch (fe : Nat) (cmd : BitVec 512)
  | cmdFence (fe : Nat) (cmd : BitVec 512)
  | cmdTranslationInvalidate (fe : Nat) (cmd : BitVec 512)
  | cmdInvalidKind (fe : Nat) (cmd : BitVec 512)
  | deviceLaunchAccept (fe : Nat)
  | launchHoldEnd (launch : Nat)
  | launchEnd (launch : Nat)
  | fenceEnd (launch : Nat)
  | invalidateEnd (launch : Nat)
  | bufferListProcessed (launch : Nat)
  | launchWaitDone (op : Nat)
  | schedulingPoint (part : Nat)
  | codeStoreLoad (cluster : Nat) (launch : Nat)
  | pageRequestEnter (fe : Nat)
  | pageRequestTake
  | pageRequestRetry (token : Nat)
  | pageRequestAbort (token : Nat)
  | vdDescriptorWrite (vd : Nat) (value : BitVec 256)
  | vdSuspend (vd : Nat)
  | vdUnsuspend (vd : Nat)
  | partitionWrite (part : Nat) (value : BitVec 512)
  | serviceBlockWrite (vd : Nat) (value : BitVec 512)
  | placeTableWrite (ctx : Nat) (index : Nat) (value : BitVec 16)
  | occupancyEntryWrite (arm : Nat) (entry : Nat) (value : BitVec 128)
  | routeTableWrite (table : List (BitVec 32))
  | communicatorWrite (part : Nat) (comm : Nat) (value : BitVec 128)
  | timeSet (time : Nat)
  | registerWrite (reg : SysReg)
  | partitionReset (part : Nat)
  | moduleReset (cold : Bool)
  | recoveryRecord (record : List (BitVec 8))
  | opptChange (die : Nat)
  | limiterWindow (watts : Nat)
  | firmwareWriteDropped (die : Nat) (addr : Nat)
  | patrolScrub
  | powerLoss
  | unassignedOpcode (word : BitVec 32)
  | pageTableWalkComplete (walk : Nat)
  | moduleFatalError
  deriving DecidableEq, Repr

/-- The rows of spec/opcode_table.json, one constructor each. A base row carries the fields of its base word, a row
named _EXT the other words of its opcode (base with literal or extended), a row without a base form the fields of its
extended word. The rows from SPLIT_PROMOTE on are the machine's other steps (95_what_each_step_holds.md); their
arguments name what the step acts on or carry what an agent outside the machine supplies. -/
inductive Instr where
  /-- R108 -/
  | nop (f : BaseWord)
  /-- R108 -/
  | nopExt (f : XWord)
  /-- R111 -/
  | br (f : BaseWord)
  /-- R111 -/
  | brExt (f : XWord)
  /-- R111 -/
  | brZ (f : BaseWord)
  /-- R111 -/
  | brZExt (f : XWord)
  /-- R111 -/
  | brNz (f : BaseWord)
  /-- R111 -/
  | brNzExt (f : XWord)
  /-- R111 -/
  | brLz (f : BaseWord)
  /-- R111 -/
  | brLzExt (f : XWord)
  /-- R111 -/
  | brGez (f : BaseWord)
  /-- R111 -/
  | brGezExt (f : XWord)
  /-- R114 -/
  | brx (f : BaseWord)
  /-- R114 -/
  | brxExt (f : XWord)
  /-- R115 -/
  | call (f : BaseWord)
  /-- R115 -/
  | callExt (f : XWord)
  /-- R115 -/
  | callx (f : BaseWord)
  /-- R115 -/
  | callxExt (f : XWord)
  /-- R115 -/
  | ret (f : BaseWord)
  /-- R115 -/
  | retExt (f : XWord)
  /-- R117 -/
  | exit (f : BaseWord)
  /-- R117 -/
  | exitExt (f : XWord)
  /-- R118 -/
  | yield (f : BaseWord)
  /-- R118 -/
  | yieldExt (f : XWord)
  /-- R116 -/
  | split (f : BaseWord)
  /-- R116 -/
  | splitExt (f : XWord)
  /-- R129 -/
  | barArrive (f : BaseWord)
  /-- R129 -/
  | barArriveExt (f : XWord)
  /-- R129 -/
  | barWait (f : BaseWord)
  /-- R129 -/
  | barWaitExt (f : XWord)
  /-- R129 -/
  | barSync (f : BaseWord)
  /-- R129 -/
  | barSyncExt (f : XWord)
  /-- R129 -/
  | barDrop (f : BaseWord)
  /-- R129 -/
  | barDropExt (f : XWord)
  /-- R134 -/
  | qpush (f : BaseWord)
  /-- R134 -/
  | qpushExt (f : XWord)
  /-- R134 -/
  | qpop (f : BaseWord)
  /-- R134 -/
  | qpopExt (f : XWord)
  /-- R123 -/
  | sadd (f : BaseWord)
  /-- R123 -/
  | saddExt (f : XWord)
  /-- R123 -/
  | ssub (f : BaseWord)
  /-- R123 -/
  | ssubExt (f : XWord)
  /-- R123 -/
  | smul (f : BaseWord)
  /-- R123 -/
  | smulExt (f : XWord)
  /-- R123 -/
  | sand (f : BaseWord)
  /-- R123 -/
  | sandExt (f : XWord)
  /-- R123 -/
  | sor (f : BaseWord)
  /-- R123 -/
  | sorExt (f : XWord)
  /-- R123 -/
  | sxor (f : BaseWord)
  /-- R123 -/
  | sxorExt (f : XWord)
  /-- R123 -/
  | sshl (f : BaseWord)
  /-- R123 -/
  | sshlExt (f : XWord)
  /-- R123 -/
  | sshr (f : BaseWord)
  /-- R123 -/
  | sshrExt (f : XWord)
  /-- R123 -/
  | smin (f : BaseWord)
  /-- R123 -/
  | sminExt (f : XWord)
  /-- R123 -/
  | smax (f : BaseWord)
  /-- R123 -/
  | smaxExt (f : XWord)
  /-- R123 -/
  | smov (f : BaseWord)
  /-- R123 -/
  | smovExt (f : XWord)
  /-- R124 -/
  | ssel (f : BaseWord)
  /-- R124 -/
  | sselExt (f : XWord)
  /-- R127 -/
  | sspr (f : ExtWord)
  /-- R124 -/
  | scmp (f : BaseWord)
  /-- R124 -/
  | scmpExt (f : XWord)
  /-- R125 -/
  | slea (f : BaseWord)
  /-- R125 -/
  | sleaExt (f : XWord)
  /-- R126 -/
  | sbfe (f : BaseWord)
  /-- R126 -/
  | sbfeExt (f : XWord)
  /-- R126 -/
  | sbfi (f : BaseWord)
  /-- R126 -/
  | sbfiExt (f : XWord)
  /-- R123 -/
  | sclz (f : BaseWord)
  /-- R123 -/
  | sclzExt (f : XWord)
  /-- R123 -/
  | spopc (f : BaseWord)
  /-- R123 -/
  | spopcExt (f : XWord)
  /-- R120 -/
  | callv (f : ExtWord)
  /-- R120 -/
  | retv (f : ExtWord)
  /-- R112 -/
  | brAny (f : ExtWord)
  /-- R112 -/
  | brAll (f : ExtWord)
  /-- R122 -/
  | migrate (f : ExtWord)
  /-- R137 -/
  | launch (f : ExtWord)
  /-- R138 -/
  | launchWait (f : ExtWord)
  /-- R119 -/
  | sleep (f : ExtWord)
  /-- R123 -/
  | smulh (f : ExtWord)
  /-- R123 -/
  | sdiv (f : ExtWord)
  /-- R123 -/
  | srem (f : ExtWord)
  /-- R133 -/
  | barTest (f : ExtWord)
  /-- R133 -/
  | barAdd (f : ExtWord)
  /-- R135 -/
  | qpushn (f : ExtWord)
  /-- R135 -/
  | qpopn (f : ExtWord)
  /-- R136 -/
  | qlen (f : ExtWord)
  /-- R136 -/
  | qpeek (f : ExtWord)
  /-- R139 -/
  | trap (f : ExtWord)
  /-- R140 -/
  | rgn (f : ExtWord)
  /-- R139 -/
  | brk (f : ExtWord)
  /-- R141 -/
  | mark (f : ExtWord)
  /-- R141 -/
  | evt (f : ExtWord)
  /-- R141 -/
  | opt (f : ExtWord)
  /-- R141 -/
  | prio (f : ExtWord)
  /-- R141 -/
  | gstat (f : ExtWord)
  /-- R145 -/
  | vaddS32 (f : BaseWord)
  /-- R145 -/
  | vaddS32Ext (f : XWord)
  /-- R145 -/
  | vsubS32 (f : BaseWord)
  /-- R145 -/
  | vsubS32Ext (f : XWord)
  /-- R145 -/
  | vmulS32 (f : BaseWord)
  /-- R145 -/
  | vmulS32Ext (f : XWord)
  /-- R145 -/
  | vmad (f : BaseWord)
  /-- R145 -/
  | vmadExt (f : XWord)
  /-- R145 -/
  | vand (f : BaseWord)
  /-- R145 -/
  | vandExt (f : XWord)
  /-- R145 -/
  | vor (f : BaseWord)
  /-- R145 -/
  | vorExt (f : XWord)
  /-- R145 -/
  | vxor (f : BaseWord)
  /-- R145 -/
  | vxorExt (f : XWord)
  /-- R145 -/
  | vshl (f : BaseWord)
  /-- R145 -/
  | vshlExt (f : XWord)
  /-- R145 -/
  | vshr (f : BaseWord)
  /-- R145 -/
  | vshrExt (f : XWord)
  /-- R145 -/
  | vminS32 (f : BaseWord)
  /-- R145 -/
  | vminS32Ext (f : XWord)
  /-- R145 -/
  | vmaxS32 (f : BaseWord)
  /-- R145 -/
  | vmaxS32Ext (f : XWord)
  /-- R145 -/
  | vabsS32 (f : BaseWord)
  /-- R145 -/
  | vabsS32Ext (f : XWord)
  /-- R145 -/
  | vnegS32 (f : BaseWord)
  /-- R145 -/
  | vnegS32Ext (f : XWord)
  /-- R145 -/
  | vsel (f : BaseWord)
  /-- R145 -/
  | vselExt (f : XWord)
  /-- R145 -/
  | vmov (f : BaseWord)
  /-- R145 -/
  | vmovExt (f : XWord)
  /-- R145 -/
  | vdot4 (f : BaseWord)
  /-- R145 -/
  | vdot4Ext (f : XWord)
  /-- R148 -/
  | vaddF32 (f : BaseWord)
  /-- R148 -/
  | vaddF32Ext (f : XWord)
  /-- R148 -/
  | vsubF32 (f : BaseWord)
  /-- R148 -/
  | vsubF32Ext (f : XWord)
  /-- R148 -/
  | vmulF32 (f : BaseWord)
  /-- R148 -/
  | vmulF32Ext (f : XWord)
  /-- R148 -/
  | vfma (f : BaseWord)
  /-- R148 -/
  | vfmaExt (f : XWord)
  /-- R148 -/
  | vfms (f : BaseWord)
  /-- R148 -/
  | vfmsExt (f : XWord)
  /-- R148 -/
  | vfnma (f : BaseWord)
  /-- R148 -/
  | vfnmaExt (f : XWord)
  /-- R148 -/
  | vminF32 (f : BaseWord)
  /-- R148 -/
  | vminF32Ext (f : XWord)
  /-- R148 -/
  | vmaxF32 (f : BaseWord)
  /-- R148 -/
  | vmaxF32Ext (f : XWord)
  /-- R148 -/
  | vabsF32 (f : BaseWord)
  /-- R148 -/
  | vabsF32Ext (f : XWord)
  /-- R148 -/
  | vnegF32 (f : BaseWord)
  /-- R148 -/
  | vnegF32Ext (f : XWord)
  /-- R148 -/
  | vdiv (f : BaseWord)
  /-- R148 -/
  | vdivExt (f : XWord)
  /-- R148 -/
  | vsqrt (f : BaseWord)
  /-- R148 -/
  | vsqrtExt (f : XWord)
  /-- R56 -/
  | vrsqrt (f : BaseWord)
  /-- R56 -/
  | vrsqrtExt (f : XWord)
  /-- R56 -/
  | vrcp (f : BaseWord)
  /-- R56 -/
  | vrcpExt (f : XWord)
  /-- R56 -/
  | vexp2 (f : BaseWord)
  /-- R56 -/
  | vexp2Ext (f : XWord)
  /-- R56 -/
  | vlog2 (f : BaseWord)
  /-- R56 -/
  | vlog2Ext (f : XWord)
  /-- R56 -/
  | vexp (f : BaseWord)
  /-- R56 -/
  | vexpExt (f : XWord)
  /-- R56 -/
  | vlog (f : BaseWord)
  /-- R56 -/
  | vlogExt (f : XWord)
  /-- R56 -/
  | vsin (f : BaseWord)
  /-- R56 -/
  | vsinExt (f : XWord)
  /-- R56 -/
  | vcos (f : BaseWord)
  /-- R56 -/
  | vcosExt (f : XWord)
  /-- R56 -/
  | vtanh (f : BaseWord)
  /-- R56 -/
  | vtanhExt (f : XWord)
  /-- R56 -/
  | vsigm (f : BaseWord)
  /-- R56 -/
  | vsigmExt (f : XWord)
  /-- R150 -/
  | vrint (f : BaseWord)
  /-- R150 -/
  | vrintExt (f : XWord)
  /-- R150 -/
  | vscale (f : BaseWord)
  /-- R150 -/
  | vscaleExt (f : XWord)
  /-- R153 -/
  | vpack (f : BaseWord)
  /-- R153 -/
  | vpackExt (f : XWord)
  /-- R153 -/
  | vunpack (f : BaseWord)
  /-- R153 -/
  | vunpackExt (f : XWord)
  /-- R154 -/
  | vshfl (f : BaseWord)
  /-- R154 -/
  | vshflExt (f : XWord)
  /-- R154 -/
  | vbcast (f : ExtWord)
  /-- R154 -/
  | vrot (f : ExtWord)
  /-- R154 -/
  | vbfly (f : ExtWord)
  /-- R155 -/
  | vred (f : BaseWord)
  /-- R155 -/
  | vredExt (f : XWord)
  /-- R157 -/
  | vballot (f : BaseWord)
  /-- R157 -/
  | vballotExt (f : XWord)
  /-- R163 -/
  | vld (f : BaseWord)
  /-- R163 -/
  | vldExt (f : XWord)
  /-- R163 -/
  | vst (f : BaseWord)
  /-- R163 -/
  | vstExt (f : XWord)
  /-- R163 -/
  | vldw (f : ExtWord)
  /-- R163 -/
  | vstw (f : ExtWord)
  /-- R160 -/
  | vlds (f : BaseWord)
  /-- R160 -/
  | vldsExt (f : XWord)
  /-- R160 -/
  | vsts (f : BaseWord)
  /-- R160 -/
  | vstsExt (f : XWord)
  /-- R160 -/
  | vldsw (f : ExtWord)
  /-- R160 -/
  | vstsw (f : ExtWord)
  /-- R163 -/
  | vldb (f : ExtWord)
  /-- R169 -/
  | fence (f : ExtWord)
  /-- R170 -/
  | vaadd (f : BaseWord)
  /-- R170 -/
  | vaaddExt (f : XWord)
  /-- R171 -/
  | vradd (f : BaseWord)
  /-- R171 -/
  | vraddExt (f : XWord)
  /-- R146 -/
  | vcmpS32 (f : BaseWord)
  /-- R146 -/
  | vcmpS32Ext (f : XWord)
  /-- R146 -/
  | vcmpF32 (f : BaseWord)
  /-- R146 -/
  | vcmpF32Ext (f : XWord)
  /-- R147 -/
  | vkop (f : BaseWord)
  /-- R147 -/
  | vkopExt (f : XWord)
  /-- R145 -/
  | vclz (f : BaseWord)
  /-- R145 -/
  | vclzExt (f : XWord)
  /-- R145 -/
  | vpopc (f : BaseWord)
  /-- R145 -/
  | vpopcExt (f : XWord)
  /-- R145 -/
  | vbfe (f : BaseWord)
  /-- R145 -/
  | vbfeExt (f : XWord)
  /-- R145 -/
  | vbfi (f : BaseWord)
  /-- R145 -/
  | vbfiExt (f : XWord)
  /-- R145 -/
  | vmulh (f : BaseWord)
  /-- R145 -/
  | vmulhExt (f : XWord)
  /-- R145 -/
  | vadds (f : BaseWord)
  /-- R145 -/
  | vaddsExt (f : XWord)
  /-- R145 -/
  | vsubs (f : BaseWord)
  /-- R145 -/
  | vsubsExt (f : XWord)
  /-- R151 -/
  | vcvt (f : ExtWord)
  /-- R152 -/
  | vquant (f : ExtWord)
  /-- R152 -/
  | vdequant (f : ExtWord)
  /-- R157 -/
  | vext (f : ExtWord)
  /-- R157 -/
  | vins (f : ExtWord)
  /-- R153 -/
  | scvt (f : ExtWord)
  /-- R150 -/
  | vmant (f : ExtWord)
  /-- R150 -/
  | vexpo (f : ExtWord)
  /-- R156 -/
  | vscan (f : ExtWord)
  /-- R167 -/
  | vldnf (f : ExtWord)
  /-- R160 -/
  | vldk (f : ExtWord)
  /-- R160 -/
  | vstk (f : ExtWord)
  /-- R168 -/
  | vprf (f : ExtWord)
  /-- R170 -/
  | vamin (f : ExtWord)
  /-- R170 -/
  | vamax (f : ExtWord)
  /-- R170 -/
  | vaand (f : ExtWord)
  /-- R170 -/
  | vaor (f : ExtWord)
  /-- R170 -/
  | vaxor (f : ExtWord)
  /-- R170 -/
  | vaxch (f : ExtWord)
  /-- R170 -/
  | vacas (f : ExtWord)
  /-- R171 -/
  | vrmin (f : ExtWord)
  /-- R171 -/
  | vrmax (f : ExtWord)
  /-- R171 -/
  | vrbit (f : ExtWord)
  /-- R242 -/
  | mmac (f : ExtWord)
  /-- R243 -/
  | mgmac (f : ExtWord)
  /-- R244 -/
  | mmaci (f : ExtWord)
  /-- R248 -/
  | mcbload (f : ExtWord)
  /-- R250 -/
  | msmx (f : ExtWord)
  /-- R250 -/
  | msnorm (f : ExtWord)
  /-- R245 -/
  | mclaim (f : ExtWord)
  /-- R245 -/
  | mrel (f : ExtWord)
  /-- R246 -/
  | mfeed (f : ExtWord)
  /-- R247 -/
  | mfeeda (f : ExtWord)
  /-- R248 -/
  | mst (f : ExtWord)
  /-- R248 -/
  | mld (f : ExtWord)
  /-- R249 -/
  | mzero (f : ExtWord)
  /-- R251 -/
  | mpoly (f : ExtWord)
  /-- R251 -/
  | miterG (f : ExtWord)
  /-- R251 -/
  | miterS (f : ExtWord)
  /-- R255 -/
  | mgang (f : ExtWord)
  /-- R255 -/
  | mgleave (f : ExtWord)
  /-- R249 -/
  | mcoef (f : ExtWord)
  /-- R249 -/
  | mscale (f : ExtWord)
  /-- R249 -/
  | mtrans (f : ExtWord)
  /-- R249 -/
  | mstat (f : ExtWord)
  /-- R263 -/
  | xcopy (f : ExtWord)
  /-- R265 -/
  | xcopy2 (f : ExtWord)
  /-- R265 -/
  | xcopy3 (f : ExtWord)
  /-- R265 -/
  | xgath (f : ExtWord)
  /-- R265 -/
  | xscat (f : ExtWord)
  /-- R266 -/
  | xslot (f : ExtWord)
  /-- R267 -/
  | xfill (f : ExtWord)
  /-- R267 -/
  | xprf (f : ExtWord)
  /-- R268 -/
  | xred (f : ExtWord)
  /-- R270 -/
  | xstat (f : ExtWord)
  /-- R270 -/
  | xcancel (f : ExtWord)
  /-- R269 -/
  | xhand (f : ExtWord)
  /-- R295 -/
  | hdist (f : ExtWord)
  /-- R296 -/
  | hpin (f : ExtWord)
  /-- R296 -/
  | hunpin (f : ExtWord)
  /-- R297 -/
  | hpre (f : ExtWord)
  /-- R298 -/
  | hdemote (f : ExtWord)
  /-- R299 -/
  | hocc (f : ExtWord)
  /-- R314 -/
  | pmake (f : ExtWord)
  /-- R309 -/
  | pfill (f : ExtWord)
  /-- R308 -/
  | peq (f : ExtWord)
  /-- R314 -/
  | pwait (f : ExtWord)
  /-- R314 -/
  | ppoll (f : ExtWord)
  /-- R314 -/
  | pfind (f : ExtWord)
  /-- R332 -/
  | lput (f : ExtWord)
  /-- R332 -/
  | lget (f : ExtWord)
  /-- R333 -/
  | lallred (f : ExtWord)
  /-- R333 -/
  | lallgat (f : ExtWord)
  /-- R333 -/
  | lredsc (f : ExtWord)
  /-- R333 -/
  | lbcast (f : ExtWord)
  /-- R97 -/
  | splitPromote (g : Nat)
  /-- R118 -/
  | yieldEnd (g : Nat)
  /-- R119 -/
  | sleepDeadline (g : Nat)
  /-- R99 -/
  | callvEnqueue (g : Nat) (place : Nat)
  /-- R100 -/
  | calleeTake (g : Nat)
  /-- R101 -/
  | migrateMove (g : Nat)
  /-- R131 -/
  | arrivalCounted (op : Nat)
  /-- R74 -/
  | loadReply (req : Nat)
  /-- R161 -/
  | spadAccessComplete (op : Nat)
  /-- R176 -/
  | storeAck (req : Nat)
  /-- R169 -/
  | fenceComplete (op : Nat)
  /-- R117 -/
  | groupEnd (g : Nat)
  /-- R90 -/
  | teamPlace (launch : Nat)
  /-- R107 -/
  | teamEnd (team : Nat)
  /-- R193 -/
  | trapRecordAppend (g : Nat)
  /-- R194 -/
  | resumeContinue (g : Nat)
  /-- R197 -/
  | resumeRerun (g : Nat)
  /-- R194 -/
  | resumeEndGroup (g : Nat)
  /-- R194 -/
  | resumeEndLaunch (g : Nat)
  /-- R194 -/
  | resumeInvalid (g : Nat) (action : Nat)
  /-- R199 -/
  | preempt (ctx : Nat)
  /-- R203 -/
  | saveComplete (sv : Nat)
  /-- R202 -/
  | partialEviction (launch : Nat) (core : Nat)
  /-- R207 -/
  | contextRestore (vd : Nat)
  /-- R215 -/
  | slotClaimTake (core : Nat)
  /-- R216 -/
  | slotRelease (op : Nat)
  /-- R238 -/
  | arrayStart (core : Nat)
  /-- R238 -/
  | arrayComplete (core : Nat)
  /-- R246 -/
  | mfeedComplete (op : Nat)
  /-- R247 -/
  | mfeedaComplete (op : Nat)
  /-- R251 -/
  | iterationPhaseEnd (core : Nat)
  /-- R230 -/
  | gangRendezvous (core : Nat)
  /-- R230 -/
  | gangTimeout (core : Nat)
  /-- R259 -/
  | copyCommandStart (cmd : Nat)
  /-- R259 -/
  | copyBlock (eng : Nat)
  /-- R272 -/
  | copyLanding (core : Nat)
  /-- R272 -/
  | copyComplete (cmd : Nat)
  /-- R269 -/
  | xhandPush (cmd : Nat)
  /-- R274 -/
  | copyAbortFault (g : Nat)
  /-- R282 -/
  | frontAccept (req : Nat)
  /-- R282 -/
  | frontServe (arm : Nat)
  /-- R284 -/
  | waveFind (req : Nat)
  /-- R285 -/
  | tileLand (arm : Nat) (tile : Nat)
  /-- R281 -/
  | memoryReply (arm : Nat) (tile : Nat) (req : Nat)
  /-- R287 -/
  | tileLeaveComplete (arm : Nat) (tile : Nat)
  /-- R289 -/
  | sharerDropAck (arm : Nat) (line : Nat) (sector : Nat)
  /-- R288 -/
  | writeUpdateWords (upd : Nat)
  /-- R288 -/
  | copyTileReply (req : Nat)
  /-- R178 -/
  | leaseRenewal (req : Nat)
  /-- R177 -/
  | leaseExpiry (arm : Nat) (line : Nat)
  /-- R179 -/
  | departureWindowEnd (g : Nat)
  /-- R188 -/
  | homeChange (block : Nat) (toArm : Nat)
  /-- R188 -/
  | forwardEntryFree (arm : Nat) (block : Nat)
  /-- R306 -/
  | promiseVisit (op : Nat)
  /-- R306 -/
  | promiseCasParent (req : Nat)
  /-- R307 -/
  | promiseLockGrant (cell : Nat)
  /-- R310 -/
  | promiseWakeSend (cell : Nat)
  /-- R311 -/
  | promiseWakeArrive (wake : Nat)
  /-- R324 -/
  | linkFrameReceive (link : Nat) (frame : LinkFrame)
  /-- R324 -/
  | linkDown (link : Nat)
  /-- R329 -/
  | collectiveMatch (coll : Nat)
  /-- R329 -/
  | collectiveTimeout (coll : Nat)
  /-- R334 -/
  | collectiveComplete (coll : Nat)
  /-- R332 -/
  | lputSignal (op : Nat)
  /-- R326 -/
  | hostAccess (acc : HostAcc)
  /-- R326 -/
  | hostBarrier (core : Nat)
  /-- R327 -/
  | pcieWrite (requester : Nat) (addr : Nat) (bytes : List (BitVec 8))
  /-- R327 -/
  | pcieRead (requester : Nat) (addr : Nat) (len : Nat)
  /-- R327 -/
  | pcieMsi (requester : Nat) (addr : Nat) (bytes : List (BitVec 8))
  /-- R371 -/
  | timeSample (module : Nat) (time : Nat)
  /-- R371 -/
  | timeAgreementLoss
  /-- R341 -/
  | doorbell (fe : Nat) (tail : Nat)
  /-- R342 -/
  | cmdLaunch (fe : Nat) (cmd : BitVec 512)
  /-- R343 -/
  | cmdFence (fe : Nat) (cmd : BitVec 512)
  /-- R354 -/
  | cmdTranslationInvalidate (fe : Nat) (cmd : BitVec 512)
  /-- R342 -/
  | cmdInvalidKind (fe : Nat) (cmd : BitVec 512)
  /-- R346 -/
  | deviceLaunchAccept (fe : Nat)
  /-- R92 -/
  | launchHoldEnd (launch : Nat)
  /-- R343 -/
  | launchEnd (launch : Nat)
  /-- R343 -/
  | fenceEnd (launch : Nat)
  /-- R354 -/
  | invalidateEnd (launch : Nat)
  /-- R345 -/
  | bufferListProcessed (launch : Nat)
  /-- R138 -/
  | launchWaitDone (op : Nat)
  /-- R349 -/
  | schedulingPoint (part : Nat)
  /-- R348 -/
  | codeStoreLoad (cluster : Nat) (launch : Nat)
  /-- R355 -/
  | pageRequestEnter (fe : Nat)
  /-- R355 -/
  | pageRequestTake
  /-- R274 -/
  | pageRequestRetry (token : Nat)
  /-- R274 -/
  | pageRequestAbort (token : Nat)
  /-- R338 -/
  | vdDescriptorWrite (vd : Nat) (value : BitVec 256)
  /-- R351 -/
  | vdSuspend (vd : Nat)
  /-- R351 -/
  | vdUnsuspend (vd : Nat)
  /-- R347 -/
  | partitionWrite (part : Nat) (value : BitVec 512)
  /-- R340 -/
  | serviceBlockWrite (vd : Nat) (value : BitVec 512)
  /-- R103 -/
  | placeTableWrite (ctx : Nat) (index : Nat) (value : BitVec 16)
  /-- R286 -/
  | occupancyEntryWrite (arm : Nat) (entry : Nat) (value : BitVec 128)
  /-- R321 -/
  | routeTableWrite (table : List (BitVec 32))
  /-- R328 -/
  | communicatorWrite (part : Nat) (comm : Nat) (value : BitVec 128)
  /-- R371 -/
  | timeSet (time : Nat)
  /-- R347 -/
  | registerWrite (reg : SysReg)
  /-- R357 -/
  | partitionReset (part : Nat)
  /-- R370 -/
  | moduleReset (cold : Bool)
  /-- R370 -/
  | recoveryRecord (record : List (BitVec 8))
  /-- R375 -/
  | opptChange (die : Nat)
  /-- R377 -/
  | limiterWindow (watts : Nat)
  /-- R376 -/
  | firmwareWriteDropped (die : Nat) (addr : Nat)
  /-- R379 -/
  | patrolScrub
  /-- R378 -/
  | powerLoss
  /-- R78 -/
  | unassignedOpcode (word : BitVec 32)
  /-- R353 -/
  | pageTableWalkComplete (walk : Nat)
  /-- R378 -/
  | moduleFatalError
  deriving DecidableEq, Repr

end Sys2Proof
end

