-- ==== Sys2Proof/Machine/Legal.lean ====
section
/-!
DEFINITION. What each opcode's fields mean and which words R79 refuses: the opcode numbers (R77), the operand table of
every opcode (R108, R143, R145 to R171, R234, R260, R261, R293, R314, R330), the meaning of a base word (R61) and the
decode checks of causes 8, 2, 3, 4 and 5 in their order. Cause 6 depends on the launch and is checked at the group.
-/
namespace Sys2Proof

/-- The opcode number of R77. -/
def opCode : Op → Nat
  | .nop => 0x001
  | .br => 0x002
  | .brZ => 0x003
  | .brNz => 0x004
  | .brLz => 0x005
  | .brGez => 0x006
  | .brx => 0x007
  | .call => 0x008
  | .callx => 0x009
  | .ret => 0x00A
  | .exit => 0x00B
  | .yield => 0x00C
  | .split => 0x00D
  | .barArrive => 0x00E
  | .barWait => 0x00F
  | .barSync => 0x010
  | .barDrop => 0x011
  | .qpush => 0x012
  | .qpop => 0x013
  | .sadd => 0x014
  | .ssub => 0x015
  | .smul => 0x016
  | .sand => 0x017
  | .sor => 0x018
  | .sxor => 0x019
  | .sshl => 0x01A
  | .sshr => 0x01B
  | .smin => 0x01C
  | .smax => 0x01D
  | .smov => 0x01E
  | .ssel => 0x01F
  | .vaddS32 => 0x020
  | .vsubS32 => 0x021
  | .vmulS32 => 0x022
  | .vmad => 0x023
  | .vand => 0x024
  | .vor => 0x025
  | .vxor => 0x026
  | .vshl => 0x027
  | .vshr => 0x028
  | .vminS32 => 0x029
  | .vmaxS32 => 0x02A
  | .vabsS32 => 0x02B
  | .vnegS32 => 0x02C
  | .vsel => 0x02D
  | .vmov => 0x02E
  | .vdot4 => 0x02F
  | .vaddF32 => 0x030
  | .vsubF32 => 0x031
  | .vmulF32 => 0x032
  | .vfma => 0x033
  | .vfms => 0x034
  | .vfnma => 0x035
  | .vminF32 => 0x036
  | .vmaxF32 => 0x037
  | .vabsF32 => 0x038
  | .vnegF32 => 0x039
  | .vdiv => 0x03A
  | .vsqrt => 0x03B
  | .vrsqrt => 0x03C
  | .vrcp => 0x03D
  | .vexp2 => 0x03E
  | .vlog2 => 0x03F
  | .vexp => 0x040
  | .vlog => 0x041
  | .vsin => 0x042
  | .vcos => 0x043
  | .vtanh => 0x044
  | .vsigm => 0x045
  | .vrint => 0x046
  | .vscale => 0x047
  | .vpack => 0x048
  | .vunpack => 0x049
  | .vshfl => 0x04A
  | .vbcast => 0x04B
  | .vrot => 0x04C
  | .vbfly => 0x04D
  | .vred => 0x04E
  | .vballot => 0x04F
  | .vld => 0x050
  | .vst => 0x051
  | .vldw => 0x052
  | .vstw => 0x053
  | .vlds => 0x054
  | .vsts => 0x055
  | .vldsw => 0x056
  | .vstsw => 0x057
  | .vldb => 0x058
  | .fence => 0x059
  | .vaadd => 0x05A
  | .vradd => 0x05B
  | .vcmpS32 => 0x05C
  | .vcmpF32 => 0x05D
  | .vkop => 0x05E
  | .sspr => 0x05F
  | .scmp => 0x060
  | .slea => 0x061
  | .sbfe => 0x062
  | .sbfi => 0x063
  | .sclz => 0x064
  | .spopc => 0x065
  | .vclz => 0x066
  | .vpopc => 0x067
  | .vbfe => 0x068
  | .vbfi => 0x069
  | .vmulh => 0x06A
  | .vadds => 0x06B
  | .vsubs => 0x06C
  | .callv => 0x080
  | .retv => 0x081
  | .brAny => 0x082
  | .brAll => 0x083
  | .migrate => 0x084
  | .launch => 0x085
  | .launchWait => 0x086
  | .sleep => 0x087
  | .smulh => 0x088
  | .sdiv => 0x089
  | .srem => 0x08A
  | .barTest => 0x08B
  | .barAdd => 0x08C
  | .qpushn => 0x08D
  | .qpopn => 0x08E
  | .qlen => 0x08F
  | .qpeek => 0x090
  | .vcvt => 0x091
  | .vquant => 0x092
  | .vdequant => 0x093
  | .vext => 0x094
  | .vins => 0x095
  | .scvt => 0x096
  | .vmant => 0x097
  | .vexpo => 0x098
  | .vscan => 0x099
  | .vldnf => 0x09A
  | .vldk => 0x09B
  | .vstk => 0x09C
  | .vprf => 0x09D
  | .vamin => 0x0A0
  | .vamax => 0x0A1
  | .vaand => 0x0A2
  | .vaor => 0x0A3
  | .vaxor => 0x0A4
  | .vaxch => 0x0A5
  | .vacas => 0x0A6
  | .vrmin => 0x0A7
  | .vrmax => 0x0A8
  | .vrbit => 0x0A9
  | .mmac => 0x0C0
  | .mgmac => 0x0C1
  | .mmaci => 0x0C2
  | .mcbload => 0x0C3
  | .msmx => 0x0C4
  | .msnorm => 0x0C5
  | .mclaim => 0x0C6
  | .mrel => 0x0C7
  | .mfeed => 0x0C8
  | .mfeeda => 0x0C9
  | .mst => 0x0CA
  | .mld => 0x0CB
  | .mzero => 0x0CC
  | .mpoly => 0x0CD
  | .miterG => 0x0CE
  | .miterS => 0x0CF
  | .mgang => 0x0D0
  | .mgleave => 0x0D1
  | .mcoef => 0x0D2
  | .mscale => 0x0D3
  | .mtrans => 0x0D4
  | .mstat => 0x0D5
  | .xcopy => 0x0E0
  | .xcopy2 => 0x0E1
  | .xcopy3 => 0x0E2
  | .xgath => 0x0E3
  | .xscat => 0x0E4
  | .xslot => 0x0E5
  | .xfill => 0x0E6
  | .xprf => 0x0E7
  | .xred => 0x0E8
  | .xstat => 0x0E9
  | .xcancel => 0x0EA
  | .xhand => 0x0EB
  | .hdist => 0x0F0
  | .hpin => 0x0F1
  | .hunpin => 0x0F2
  | .hpre => 0x0F3
  | .hdemote => 0x0F4
  | .hocc => 0x0F5
  | .pmake => 0x0F8
  | .pfill => 0x0F9
  | .peq => 0x0FA
  | .pwait => 0x0FB
  | .ppoll => 0x0FC
  | .pfind => 0x0FD
  | .lput => 0x100
  | .lget => 0x101
  | .lallred => 0x102
  | .lallgat => 0x103
  | .lredsc => 0x104
  | .lbcast => 0x105
  | .trap => 0x108
  | .rgn => 0x109
  | .brk => 0x10A
  | .mark => 0x10B
  | .evt => 0x10C
  | .opt => 0x10D
  | .prio => 0x10E
  | .gstat => 0x10F

/-- Part 1 of the assigned opcodes of R77, in ascending number. -/
def opList0 : List Op := [
  .nop, .br, .brZ, .brNz, .brLz, .brGez, .brx, .call,
  .callx, .ret, .exit, .yield, .split, .barArrive, .barWait, .barSync,
  .barDrop, .qpush, .qpop, .sadd, .ssub, .smul, .sand, .sor,
  .sxor, .sshl, .sshr, .smin, .smax, .smov, .ssel, .vaddS32,
  .vsubS32, .vmulS32, .vmad, .vand, .vor, .vxor, .vshl, .vshr,
  .vminS32, .vmaxS32, .vabsS32, .vnegS32, .vsel, .vmov, .vdot4, .vaddF32,
  .vsubF32, .vmulF32, .vfma, .vfms, .vfnma, .vminF32, .vmaxF32, .vabsF32,
  .vnegF32, .vdiv, .vsqrt, .vrsqrt, .vrcp, .vexp2, .vlog2, .vexp,
  .vlog, .vsin, .vcos, .vtanh, .vsigm, .vrint]

/-- Part 2 of the assigned opcodes of R77, in ascending number. -/
def opList1 : List Op := [
  .vscale, .vpack, .vunpack, .vshfl, .vbcast, .vrot, .vbfly, .vred,
  .vballot, .vld, .vst, .vldw, .vstw, .vlds, .vsts, .vldsw,
  .vstsw, .vldb, .fence, .vaadd, .vradd, .vcmpS32, .vcmpF32, .vkop,
  .sspr, .scmp, .slea, .sbfe, .sbfi, .sclz, .spopc, .vclz,
  .vpopc, .vbfe, .vbfi, .vmulh, .vadds, .vsubs, .callv, .retv,
  .brAny, .brAll, .migrate, .launch, .launchWait, .sleep, .smulh, .sdiv,
  .srem, .barTest, .barAdd, .qpushn, .qpopn, .qlen, .qpeek, .vcvt,
  .vquant, .vdequant, .vext, .vins, .scvt, .vmant, .vexpo, .vscan,
  .vldnf, .vldk, .vstk, .vprf, .vamin, .vamax]

/-- Part 3 of the assigned opcodes of R77, in ascending number. -/
def opList2 : List Op := [
  .vaand, .vaor, .vaxor, .vaxch, .vacas, .vrmin, .vrmax, .vrbit,
  .mmac, .mgmac, .mmaci, .mcbload, .msmx, .msnorm, .mclaim, .mrel,
  .mfeed, .mfeeda, .mst, .mld, .mzero, .mpoly, .miterG, .miterS,
  .mgang, .mgleave, .mcoef, .mscale, .mtrans, .mstat, .xcopy, .xcopy2,
  .xcopy3, .xgath, .xscat, .xslot, .xfill, .xprf, .xred, .xstat,
  .xcancel, .xhand, .hdist, .hpin, .hunpin, .hpre, .hdemote, .hocc,
  .pmake, .pfill, .peq, .pwait, .ppoll, .pfind, .lput, .lget,
  .lallred, .lallgat, .lredsc, .lbcast, .trap, .rgn, .brk, .mark,
  .evt, .opt, .prio, .gstat]

/-- Every assigned opcode of R77, in ascending number. -/
def opList : List Op := opList0 ++ opList1 ++ opList2

/-- The opcode with number n; none where R78 leaves it unassigned. -/
def opOfCode (n : Nat) : Option Op := opList.find? (fun o => opCode o == n)

/-- The register classes of R70. -/
inductive RegClass where
  | v | s | k | o | a | c | q | b
  deriving DecidableEq, Repr

/-- The highest number of a class (R70). -/
def classMax : RegClass → Nat
  | .v => 255
  | .s => 63
  | .k => 7
  | .o => 15
  | .a => 3
  | .c => 15
  | .q => 15
  | .b => 15

/-- How an opcode uses one of its four operand fields. -/
inductive Slot where
  /-- the field and its kind must be 0 -/
  | zero
  /-- part of a branch displacement (R109) -/
  | tgt
  /-- a register read or an operand of one of the listed kinds; kind 0 names the class (R67) -/
  | src (c : RegClass) (kinds : List Nat)
  /-- a register that is written and not read -/
  | dst (c : RegClass)
  /-- a register that is read and written, or only read through the D field (R108) -/
  | upd (c : RegClass)
  /-- a kind-1 code that `sspr` writes (R127) -/
  | spr
  deriving DecidableEq, Repr

/-- One opcode's line of the operand tables. -/
structure OpForm where
  d : Slot
  a : Slot
  b : Slot
  c : Slot
  types : List Nat
  rounds : Bool := false
  sats : Bool := false
  deriving Repr

/-- A word under the meaning R61 gives a base word: an extended word, with the wait-mask index of a base word. -/
structure Fields where
  e : ExtWord
  wsel : Option (BitVec 3)
  deriving DecidableEq, Repr

/-- Type codes of R68 by name. -/
def tyNone : Nat := 0
def tyS4 : Nat := 1
def tyS8 : Nat := 2
def tyS16 : Nat := 3
def tyS32 : Nat := 4
def tyS64 : Nat := 5
def tyN4 : Nat := 6
def tyN8 : Nat := 7
def tyN16 : Nat := 8
def tyN32 : Nat := 9
def tyN64 : Nat := 10
def tyF32 : Nat := 11
def tyF16 : Nat := 12
def tyBf16 : Nat := 13
def tyE4m3 : Nat := 14
def tyE5m2 : Nat := 15
def tyE2m1 : Nat := 16
def tyCb2 : Nat := 17

/-- Bits of one element of a type (R68); `.cb2` is read through its 16-bit index; 0 for the other codes. -/
def tyWidth (t : Nat) : Nat :=
  match t with
  | 1 | 6 | 16 => 4
  | 2 | 7 | 14 | 15 => 8
  | 3 | 8 | 12 | 13 | 17 => 16
  | 4 | 9 | 11 => 32
  | 5 | 10 => 64
  | _ => 0

/-- The signed integer types. -/
def tySigned (t : Nat) : Bool := 1 ≤ t && t ≤ 5
/-- The integer types. -/
def tyInt (t : Nat) : Bool := 1 ≤ t && t ≤ 10
/-- The floating-point types. -/
def tyFloat (t : Nat) : Bool := 11 ≤ t && t ≤ 16

def intAll : List Nat := [2, 3, 4, 5, 7, 8, 9, 10]
def int8to32 : List Nat := [2, 3, 4, 7, 8, 9]
def int32or64 : List Nat := [4, 5, 9, 10]
def fltVec : List Nat := [11, 12, 13]
def memTypes : List Nat := [2, 7, 3, 8, 12, 13, 4, 9, 11, 5, 10]
def rmwTypes : List Nat := [4, 9, 5, 10, 11]

def k0 : List Nat := [0]
def k2 : List Nat := [2]
def k01 : List Nat := [0, 1]
def k12 : List Nat := [1, 2]
def k02 : List Nat := [0, 1, 2]
def k03 : List Nat := [0, 1, 3]
def kAll : List Nat := [0, 1, 2, 3]
def k13 : List Nat := [1, 2, 3]

/-- The operand forms of R143 for vectors. -/
def formV1 (ts : List Nat) : OpForm := ⟨.dst .v, .src .v kAll, .zero, .zero, ts, false, false⟩
def formV2 (ts : List Nat) : OpForm := ⟨.dst .v, .src .v kAll, .src .v kAll, .zero, ts, false, false⟩
def formV3 (ts : List Nat) : OpForm := ⟨.dst .v, .src .v kAll, .src .v kAll, .src .v kAll, ts, false, false⟩
def formR1 (ts : List Nat) : OpForm := { formV1 ts with rounds := true }
def formR2 (ts : List Nat) : OpForm := { formV2 ts with rounds := true }
def formR3 (ts : List Nat) : OpForm := { formV3 ts with rounds := true }
def formLd (d c : Slot) (spad : Bool) (ts : List Nat) : OpForm :=
  ⟨d, .src .s (if spad then kAll else k03), .src .v k02, c, ts, false, false⟩
def formLdu (d : Slot) (spad : Bool) (ts : List Nat) : OpForm :=
  ⟨d, .src .s (if spad then kAll else k03), .src .s k12, .zero, ts, false, false⟩
/-- The scalar forms of R108. -/
def formS1 (ts : List Nat) : OpForm := ⟨.dst .s, .src .s kAll, .zero, .zero, ts, false, false⟩
def formS2 (ts : List Nat) : OpForm := ⟨.dst .s, .src .s kAll, .src .s kAll, .zero, ts, false, false⟩
def formNone : OpForm := ⟨.zero, .zero, .zero, .zero, [0], false, false⟩
def formBr (d : Slot) : OpForm := ⟨d, .tgt, .tgt, .tgt, [0], false, false⟩

/-- The barrier operand in SC where BAR (OPX bit 6) is 1 (R261, R330). -/
def slotBar (e : ExtWord) : Slot := if e.opx.getLsbD 6 then .src .b k0 else .zero

/-- The control, scalar, barrier, ring and system opcodes (R108). -/
def formControl (o : Op) : Option OpForm :=
  match o with
  | .nop | .exit | .yield | .split | .retv | .rgn | .brk => some formNone
  | .br => some (formBr .zero)
  | .brZ | .brNz | .brLz | .brGez => some (formBr (.upd .s))
  | .brAny | .brAll => some (formBr (.upd .k))
  | .brx => some ⟨.zero, .src .v k01, .zero, .zero, [0], false, false⟩
  | .call => some (formBr (.dst .v))
  | .callx => some ⟨.dst .v, .src .v k01, .zero, .zero, [0], false, false⟩
  | .ret => some ⟨.zero, .src .v k0, .zero, .zero, [0], false, false⟩
  | .barArrive | .barWait | .barSync | .barDrop => some ⟨.upd .b, .zero, .zero, .zero, [0], false, false⟩
  | .qpush => some ⟨.upd .q, .src .s kAll, .zero, .zero, [0], false, false⟩
  | .qpop | .qlen | .qpeek => some ⟨.dst .s, .src .q k0, .zero, .zero, [0], false, false⟩
  | .sadd | .ssub | .smul | .sand | .sor | .sxor | .sshl | .sshr | .smin | .smax | .smulh | .sdiv | .srem =>
      some (formS2 intAll)
  | .smov => some (formS1 intAll)
  | .ssel => some ⟨.dst .s, .src .s kAll, .src .s kAll, .src .s k0, intAll, false, false⟩
  | .sspr => some ⟨.spr, .src .s kAll, .zero, .zero, [0], false, false⟩
  | .scmp => some (formS2 intAll)
  | .slea => some ⟨.dst .s, .src .s k03, .src .s kAll, .zero, int32or64, false, false⟩
  | .sbfe => some (formS2 [5, 10])
  | .sbfi => some ⟨.upd .s, .src .s kAll, .src .s kAll, .src .s k0, [10], false, false⟩
  | .sclz | .spopc => some (formS1 [7, 8, 9, 10])
  | .callv => some ⟨.zero, .src .v k0, .zero, .zero, [0], false, false⟩
  | .migrate => some ⟨.zero, .src .s k03, .zero, .zero, [0], false, false⟩
  | .launch => some ⟨.dst .s, .src .s k03, .zero, .zero, [0], false, false⟩
  | .launchWait => some ⟨.dst .s, .src .s k01, .zero, .zero, [0], false, false⟩
  | .sleep | .trap | .mark => some ⟨.zero, .src .s kAll, .zero, .zero, [0], false, false⟩
  | .barTest => some ⟨.dst .s, .src .b k0, .zero, .zero, [0], false, false⟩
  | .barAdd => some ⟨.upd .b, .src .s kAll, .zero, .zero, [0], false, false⟩
  | .qpushn => some ⟨.upd .q, .src .s k0, .src .s k2, .zero, [0], false, false⟩
  | .qpopn => some ⟨.dst .s, .src .q k0, .src .s k2, .zero, [0], false, false⟩
  | .evt => some ⟨.zero, .src .s k2, .src .s kAll, .zero, [0], false, false⟩
  | .opt | .prio => some ⟨.zero, .src .s k2, .zero, .zero, [0], false, false⟩
  | .gstat => some ⟨.dst .s, .src .s k2, .zero, .zero, [0], false, false⟩
  | _ => none

/-- The types between which `vcvt` converts (R151). -/
def cvtTypes : List Nat := [1, 2, 3, 4, 5, 6, 7, 8, 9, 10, 11, 12, 13, 14, 15, 16]

/-- Whether `vcvt` reads its D (R151: T narrower than U). -/
def cvtReadsD (e : ExtWord) : Bool := tyWidth e.ty.toNat < tyWidth (e.opx.toNat % 32)

/-- The vector, lane, load, store and atomic opcodes (R143 to R171). -/
def formVector (o : Op) (e : ExtWord) : Option OpForm :=
  match o with
  | .vaddS32 | .vsubS32 => some (formV2 intAll)
  | .vmulS32 | .vminS32 | .vmaxS32 | .vmulh | .vadds | .vsubs => some (formV2 int8to32)
  | .vand | .vor | .vxor | .vshl | .vshr => some (formV2 intAll)
  | .vmad => some (formV3 int8to32)
  | .vabsS32 | .vnegS32 => some (formV1 [2, 3, 4])
  | .vsel => some ⟨.dst .v, .src .v kAll, .src .v kAll, .src .k k0, int32or64, false, false⟩
  | .vmov => some (formV1 int32or64)
  | .vdot4 => some (formV3 [2, 7])
  | .vclz | .vpopc => some (formV1 [7, 8, 9])
  | .vbfe => some (formV2 [4, 9])
  | .vbfi => some (formV3 [9])
  | .vaddF32 | .vsubF32 | .vmulF32 => some (formR2 fltVec)
  | .vfma | .vfms | .vfnma => some (formR3 fltVec)
  | .vminF32 | .vmaxF32 => some (formV2 fltVec)
  | .vabsF32 | .vnegF32 => some (formV1 fltVec)
  | .vdiv | .vscale => some (formR2 [11])
  | .vsqrt | .vrint => some (formR1 [11])
  | .vrsqrt | .vrcp | .vexp2 | .vlog2 | .vexp | .vlog | .vsin | .vcos | .vtanh | .vsigm | .vmant | .vexpo =>
      some (formV1 [11])
  | .vcmpS32 => some ⟨.dst .k, .src .v kAll, .src .v kAll, .zero, [4, 9], false, false⟩
  | .vcmpF32 => some ⟨.dst .k, .src .v kAll, .src .v kAll, .zero, [11], false, false⟩
  | .vkop =>
      let m := e.opx.toNat % 8
      some ⟨.dst .k, if m = 7 then .zero else .src .k k02, if m < 5 then .src .k k02 else .zero, .zero, [0],
        false, false⟩
  | .vcvt => some { formR1 cvtTypes with d := if cvtReadsD e then .upd .v else .dst .v, sats := true }
  | .vquant => some { formR2 [14, 15, 16, 2] with d := .upd .v, sats := true }
  | .vdequant => some (formR2 [14, 15, 16, 2, 7, 1, 6])
  | .vpack => some { formR2 [13, 12] with sats := true }
  | .vunpack => some (formV1 [13, 12])
  | .scvt => some { formS1 (intAll ++ fltVec) with rounds := true, sats := true }
  | .vshfl => some ⟨.dst .v, .src .v k0, .src .v k01, .zero, [9], false, false⟩
  | .vbcast | .vrot | .vbfly => some ⟨.dst .v, .src .v k0, .src .v k12, .zero, [9], false, false⟩
  | .vred => some ⟨.dst .s, .src .v k0, .zero, .zero, [11, 12, 13, 4, 9], true, false⟩
  | .vscan => some (formR1 [11, 4, 9])
  | .vballot => some ⟨.dst .s, .src .v k0, .zero, .zero, [0], false, false⟩
  | .vext => some ⟨.dst .s, .src .v k0, .src .s k12, .zero, [4, 9], false, false⟩
  | .vins => some ⟨.dst .v, .src .s kAll, .src .s k12, .zero, [9], false, false⟩
  | .vld => some (formLd (.dst .v) .zero false memTypes)
  | .vst => some (formLd (.upd .v) .zero false memTypes)
  | .vldw => some (formLd (.dst .v) (.src .s k2) false [9])
  | .vstw => some (formLd (.upd .v) (.src .s k2) false [9])
  | .vlds => some (formLd (.dst .v) .zero true memTypes)
  | .vsts => some (formLd (.upd .v) .zero true memTypes)
  | .vldsw => some (formLd (.dst .v) (.src .s k2) true [9])
  | .vstsw => some (formLd (.upd .v) (.src .s k2) true [9])
  | .vldb => some (formLdu (.dst .v) false memTypes)
  | .vldk => some (formLdu (.dst .k) true [9])
  | .vstk => some (formLdu (.upd .k) true [9])
  | .vldnf => some (formLd (.dst .v) (.dst .k) false memTypes)
  | .vprf => some (formLd .zero .zero false [0])
  | .fence => some formNone
  | .vaadd | .vamin | .vamax => some (formLd (.dst .v) (.src .v k0) false rmwTypes)
  | .vaand | .vaor | .vaxor | .vaxch => some (formLd (.dst .v) (.src .v k0) false [9, 10])
  | .vacas => some (formLd (.upd .v) (.src .v k0) false [9, 10])
  | .vradd | .vrmin | .vrmax => some (formLd (.upd .v) .zero false rmwTypes)
  | .vrbit => some (formLd (.upd .v) (.src .s k2) false [9, 10])
  | _ => none

/-- The matrix opcodes (R234). -/
def formMatrix (o : Op) : Option OpForm :=
  match o with
  | .mmac | .mgmac =>
      some ⟨.upd .a, .src .o k0, .src .o k0, .src .s k03, [11, 12, 13, 14, 15, 16, 17, 2, 7, 6], false, false⟩
  | .mmaci => some ⟨.upd .a, .src .a k0, .src .a k0, .zero, [11], false, false⟩
  | .mcbload => some ⟨.zero, .src .s kAll, .zero, .zero, [0], false, false⟩
  | .msmx => some ⟨.upd .a, .src .a k0, .src .c k0, .zero, [11], false, false⟩
  | .msnorm => some ⟨.upd .a, .zero, .zero, .zero, [11], false, false⟩
  | .mclaim | .mrel => some ⟨.zero, .src .s k13, .zero, .zero, [0], false, false⟩
  | .mfeed => some ⟨.upd .o, .src .s kAll, .src .s k13, .zero, [0], false, false⟩
  | .mfeeda => some ⟨.upd .o, .src .a k0, .zero, .zero, [13, 12, 14, 15], false, true⟩
  | .mst => some ⟨.zero, .src .s kAll, .src .a k0, .zero, [11, 13, 12, 14, 15], false, true⟩
  | .mld => some ⟨.upd .a, .src .s kAll, .zero, .zero, [11, 13, 12], false, false⟩
  | .mzero => some ⟨.upd .a, .zero, .zero, .zero, [0], false, false⟩
  | .mpoly => some ⟨.upd .a, .src .a k0, .src .s k2, .zero, [11], false, false⟩
  | .miterG | .miterS => some ⟨.upd .a, .zero, .zero, .zero, [11], false, false⟩
  | .mgang => some ⟨.zero, .src .s k03, .zero, .zero, [0], false, false⟩
  | .mgleave => some formNone
  | .mcoef => some ⟨.upd .c, .src .s kAll, .zero, .zero, [11], false, false⟩
  | .mscale => some ⟨.upd .a, .src .c k0, .zero, .zero, [11], false, false⟩
  | .mtrans => some ⟨.upd .a, .src .a k0, .zero, .zero, [11], false, false⟩
  | .mstat => some ⟨.dst .s, .src .s k2, .zero, .zero, [0], false, false⟩
  | _ => none

/-- The copy opcodes (R260). -/
def formCopy (o : Op) (e : ExtWord) : Option OpForm :=
  match o with
  | .xcopy | .xcopy2 | .xcopy3 | .xgath | .xscat =>
      some ⟨.upd .s, .src .s k03, .src .s kAll, slotBar e, [0], false, false⟩
  | .xslot => some ⟨.upd .o, .src .s k03, .src .s kAll, slotBar e, [0], false, false⟩
  | .xfill => some ⟨.upd .s, .src .s kAll, .src .s kAll, slotBar e, [9], false, false⟩
  | .xprf => some ⟨.zero, .src .s k03, .src .s kAll, .zero, [0], false, false⟩
  | .xred => some ⟨.upd .s, .src .s kAll, .src .s kAll, slotBar e, [11, 4, 9], false, false⟩
  | .xstat => some ⟨.dst .s, .src .s k2, .zero, .zero, [0], false, false⟩
  | .xcancel => some formNone
  | .xhand => some ⟨.upd .q, .src .s kAll, .zero, .zero, [0], false, false⟩
  | _ => none

/-- The spiral, promise and link opcodes (R293, R314, R330). -/
def formFabric (o : Op) (e : ExtWord) : Option OpForm :=
  match o with
  | .hdist | .hocc => some ⟨.dst .s, .src .s k03, .zero, .zero, [0], false, false⟩
  | .hpin => some ⟨.dst .s, .src .s k03, .src .s kAll, .zero, [0], false, false⟩
  | .hunpin | .hdemote => some ⟨.zero, .src .s k03, .src .s kAll, .zero, [0], false, false⟩
  | .hpre => some ⟨.zero, .src .s k03, .src .s kAll, .src .s kAll, [0], false, false⟩
  | .pmake => some ⟨.zero, .src .s k03, .zero, .zero, [0], false, false⟩
  | .pfill => some ⟨.zero, .src .s k03, .src .s kAll, .zero, [0], false, false⟩
  | .peq => some ⟨.zero, .src .s k03, .src .s k03, .zero, [0], false, false⟩
  | .pwait | .pfind => some ⟨.dst .s, .src .s k03, .zero, .zero, [0], false, false⟩
  | .ppoll => some ⟨.dst .s, .src .s k03, .zero, .dst .s, [0], false, false⟩
  | .lput => some ⟨.upd .s, .src .s k03, .src .s kAll, if e.opx.getLsbD 6 then .src .s k0 else .zero, [0],
      false, false⟩
  | .lget | .lallgat | .lbcast => some ⟨.upd .s, .src .s k03, .src .s kAll, slotBar e, [0], false, false⟩
  | .lallred | .lredsc => some ⟨.upd .s, .src .s k03, .src .s kAll, slotBar e, [11, 13, 4, 9], false, false⟩
  | _ => none

/-- The operand table of an opcode; it depends on the word where BAR, SIG, the operation of `vkop` or the types of a
conversion decide what a field is. -/
def opForm (o : Op) (e : ExtWord) : OpForm :=
  match formControl o with
  | some f => f
  | none =>
    match formVector o e with
    | some f => f
    | none =>
      match formMatrix o with
      | some f => f
      | none =>
        match formCopy o e with
        | some f => f
        | none => (formFabric o e).getD formNone

/-- The base type of an opcode (R61, R77: the suffix in rows 0x000 to 0x078). -/
def baseType (o : Op) : Nat :=
  match o with
  | .sadd | .ssub | .sand | .sor | .sxor | .sshl | .sshr | .smov | .ssel | .slea | .sbfe | .sbfi | .sclz | .spopc => 10
  | .smul | .smin | .smax | .scmp => 5
  | .vaddS32 | .vsubS32 | .vmulS32 | .vmad | .vminS32 | .vmaxS32 | .vabsS32 | .vnegS32 | .vmulh | .vadds | .vsubs
  | .vcmpS32 | .vld | .vst | .vlds | .vsts | .vldb | .vaadd => 4
  | .vand | .vor | .vxor | .vshl | .vshr | .vsel | .vmov | .vshfl | .vbcast | .vrot | .vbfly | .vldw | .vstw | .vldsw
  | .vstsw | .vclz | .vpopc | .vbfe | .vbfi => 9
  | .vdot4 => 2
  | .vaddF32 | .vsubF32 | .vmulF32 | .vfma | .vfms | .vfnma | .vminF32 | .vmaxF32 | .vabsF32 | .vnegF32 | .vdiv
  | .vsqrt | .vrsqrt | .vrcp | .vexp2 | .vlog2 | .vexp | .vlog | .vsin | .vcos | .vtanh | .vsigm | .vrint | .vscale
  | .vred | .vradd | .vcmpF32 => 11
  | .vpack | .vunpack => 13
  | _ => 0

/-- The opcodes whose base form ties SC to D (R61, R143). -/
def tiesC (o : Op) : Bool :=
  match o with
  | .ssel | .sbfi | .vmad | .vdot4 | .vbfi | .vfma | .vfms | .vfnma | .vaadd => true
  | _ => false

/-- What a base word means as an extended word (R61). -/
def baseAsExt (o : Op) (f : BaseWord) : ExtWord where
  rm := 0
  ty := BitVec.ofNat 5 (baseType o)
  sat := false
  kc := 0
  kb := 0
  ka := 0
  opx := 0
  sc := if tiesC o then f.x.setWidth 8 else 0
  sb := f.z.setWidth 8
  sa := f.y.setWidth 8
  d := f.x.setWidth 8
  trc := false
  trb := false
  tra := false
  wait := 0
  setf := 0
  pe := false
  pn := false
  pk := 0
  dist := f.dist.setWidth 5
  lit := none

/-- The fields of a word of any length (R61). -/
def fieldsOf (o : Op) : Word3 → Fields
  | .base f => ⟨baseAsExt o f, some f.wsel⟩
  | .lit f l => ⟨{ baseAsExt o f with kb := 3, sb := 0, lit := some l }, some f.wsel⟩
  | .ext e => ⟨e, none⟩

/-- The signed value of a kind-2 immediate (R67). -/
def imm8 (f : BitVec 8) : Int := f.toInt

/-- The memory OPX that R164 permits, by class: 0 load, 1 store, 2 returning atomic, 3 reduction, 4 prefetch, 5 fence,
6 scratchpad. -/
def memOpxBad (cls : Nat) (x : BitVec 9) : Bool :=
  let scope := (x.toNat / 32) % 8
  let ord := (x.toNat / 4) % 8
  let pol := x.toNat % 4
  x.getLsbD 8 ||
  match cls with
  | 0 => !(ord == 1 || (ord == 0 && scope == 0))
  | 1 => !(ord == 0 || ord == 2)
  | 2 => !(ord ≤ 3 && pol ≤ 2)
  | 3 => !((ord == 0 || ord == 2) && pol ≤ 2)
  | 4 => !(ord == 0 && scope == 0 && pol ≤ 2)
  | 5 => !((1 ≤ ord && ord ≤ 3) && (pol == 0 || pol == 3))
  | _ => x.toNat != 0

/-- The copy OPX of R261 that an opcode forbids. -/
def copyOpxBad (o : Op) (x : BitVec 9) : Bool :=
  let n := x.toNat
  let dir := n / 128
  let bar := n / 64 % 2
  let enx := n / 32 % 2
  let eng := n / 8 % 4
  let gs := n / 4 % 2
  let pol := n % 4
  let okBits (dirOk barOk gsOk polOk : Bool) : Bool :=
    dirOk && (bar == 0 || barOk) && (gs == 0 || gsOk) && (pol == 0 || polOk) && (eng == 0 || enx == 1)
  match o with
  | .xcopy | .xcopy2 | .xcopy3 | .xgath | .xscat => !(okBits (dir != 3) true (dir == 1 || dir == 2) true)
  | .xslot => !(okBits (dir == 0) true false true)
  | .xfill => !(okBits (dir == 0 || dir == 2) true (dir == 2) (dir == 2))
  | .xprf => !(okBits (dir == 0) false false true)
  | .xred => !(okBits (dir != 3) true true (pol != 3))
  | _ => !(okBits (dir == 0) false false false)

/-- The link OPX of R330 that an opcode forbids. -/
def linkOpxBad (o : Op) (x : BitVec 9) : Bool :=
  let n := x.toNat
  let op := n / 128
  let comm := n / 4 % 16
  let pol := n % 4
  match o with
  | .lput | .lget => !(op == 0 && comm == 0 && pol ≤ 2)
  | .lallred | .lredsc => !(op ≤ 2 && pol == 0)
  | _ => !(op == 0 && pol == 0)

/-- Elements per lane of a type (R142, R151). -/
def tyElems (t : Nat) : Nat := if tyWidth t = 64 then 1 else if tyWidth t = 0 then 1 else 32 / tyWidth t

/-- The slices S of a `vcvt` (R151). -/
def cvtSlices (t u : Nat) : Nat :=
  let wide := if tyWidth t < tyWidth u then u else t
  let narrow := if tyWidth t < tyWidth u then t else u
  tyElems narrow / tyElems wide

/-- OPX bits that an opcode leaves undefined, or reserved OPX values (R66, R69 and the entries): cause 2. A `vquant` or
`vdequant` of a 64-bit type has no legal POS, so it fails here before its type does (DESIGN CHOICE, log 79). -/
def opxBad (o : Op) (e : ExtWord) : Bool :=
  let n := e.opx.toNat
  let t := e.ty.toNat
  match o with
  | .barArrive | .barWait | .barSync | .barDrop => n > 6
  | .scmp | .slea | .vcmpS32 | .vcmpF32 | .vkop => n > 7
  | .sleep => n > 1
  | .vred => n > 5
  | .vscan => n > 15 || n % 8 > 5
  | .vcvt =>
      let u := n % 32
      n > 255 || u ≥ 0x12 || (cvtTypes.contains t && cvtTypes.contains u && n / 32 ≥ cvtSlices t u)
  | .scvt => n ≥ 0x12
  | .vquant | .vdequant => n % 32 != 0 || n > 255 || (tyWidth t != 0 && n / 32 ≥ 32 / tyWidth t)
  | .vunpack => n % 32 != 0 || n / 32 > 1
  | .vld | .vldw | .vldb | .vldnf => memOpxBad 0 e.opx
  | .vst | .vstw => memOpxBad 1 e.opx
  | .vaadd | .vamin | .vamax | .vaand | .vaor | .vaxor | .vaxch | .vacas => memOpxBad 2 e.opx
  | .vradd | .vrmin | .vrmax | .vrbit => memOpxBad 3 e.opx
  | .vprf => memOpxBad 4 e.opx
  | .fence => memOpxBad 5 e.opx
  | .vlds | .vsts | .vldsw | .vstsw | .vldk | .vstk => memOpxBad 6 e.opx
  | .mmac | .mgmac => n / 64 > 4 || n / 8 % 8 > 4
  | .mmaci => n / 64 % 2 != 0
  | .msmx | .mst | .mld => n > 127
  | .mfeeda => n > 1
  | .mzero => n > 2 || (n == 2 && e.d != 0)
  | .mpoly | .miterG | .miterS => n > 255
  | .xcopy | .xcopy2 | .xcopy3 | .xgath | .xscat | .xslot | .xfill | .xprf | .xred | .xstat | .xcancel | .xhand =>
      copyOpxBad o e.opx
  | .hdist | .hdemote => n > 1
  | .pmake | .pfill | .peq | .pwait | .ppoll => n % 32 != 0 || n > 255
  | .lput | .lget | .lallred | .lallgat | .lredsc | .lbcast => linkOpxBad o e.opx
  | _ => n != 0

/-- A kind-2 selector, count or number outside the range its entry states (R108): cause 2. -/
def selectorBad (o : Op) (e : ExtWord) : Bool :=
  let rng (k : BitVec 2) (f : BitVec 8) (lo hi : Int) : Bool := k == 2 && (imm8 f < lo || hi < imm8 f)
  let wide := e.kc == 2 && !(imm8 e.sc == 2 || imm8 e.sc == 4 || imm8 e.sc == 8)
  match o with
  | .qpushn | .qpopn => rng e.kb e.sb 1 8
  | .evt | .opt | .prio => rng e.ka e.sa 0 7
  | .gstat => rng e.ka e.sa 0 4
  | .mstat | .xstat => rng e.ka e.sa 0 3
  | .vldw | .vstw | .vldsw | .vstsw => wide
  | .vrbit => rng e.kc e.sc 0 2
  | .sspr => !(e.d == 0x46 || e.d == 0x47 || e.d == 0x49)
  | _ => false

/-- Whether the opcode accepts a rounding mode under this type (R108, R148, R151, R155, R156). -/
def rmAllowed (o : Op) (e : ExtWord) : Bool :=
  let t := e.ty.toNat
  let n := e.opx.toNat
  match o with
  | .vred | .vscan => tyFloat t && n % 8 == 0
  | .vcvt | .scvt => !(tyInt t && tyInt (n % 32))
  | _ => (opForm o e).rounds

/-- Whether one operand field breaks a rule of cause 2: a field marked 0 that is not, the upper bits of a target, a
reserved kind-1 code, a trap bit on something that is no register source. -/
def slotBad2 (s : Slot) (target : Bool) (k : BitVec 2) (f : BitVec 8) (tr : Bool) : Bool :=
  match s with
  | .zero => f != 0 || tr || (k == 1 && f.toNat ≥ 0x4A)
  | .tgt => tr || (target && f.toNat ≥ 64)
  | .src _ _ => (k == 1 && f.toNat ≥ 0x4A) || (tr && (k == 2 || k == 3))
  | .dst _ | .upd _ | .spr => tr || (k == 1 && f.toNat ≥ 0x4A)

/-- The D field of cause 2: a field marked 0 that is not. -/
def dBad2 (s : Slot) (f : BitVec 8) : Bool :=
  match s with
  | .zero => f != 0
  | _ => false

/-- Cause 2 of R79. -/
def cause2 (o : Op) (e : ExtWord) : Bool :=
  let m := opForm o e
  e.setf.toNat ≥ 13 || (!e.pe && (e.pn || e.pk != 0)) || e.rm.toNat ≥ 5 || (e.rm != 0 && !(rmAllowed o e)) ||
  e.ty.toNat ≥ 0x12 || opxBad o e || selectorBad o e || dBad2 m.d e.d || slotBad2 m.a true e.ka e.sa e.tra ||
  slotBad2 m.b true e.kb e.sb e.trb || slotBad2 m.c false e.kc e.sc e.trc

/-- Cause 3 of R79: a type, `.sat`, source type or comparison that the opcode does not accept. -/
def cause3 (o : Op) (e : ExtWord) : Bool :=
  let m := opForm o e
  let t := e.ty.toNat
  let n := e.opx.toNat
  !(m.types.contains t) || (e.sat && !(m.sats && !(tyInt t))) ||
  match o with
  | .scmp | .vcmpS32 => n ≥ 6
  | .vred | .vscan => tyFloat t && n % 8 > 2
  | .vcvt | .scvt => !(m.types.contains (n % 32)) || n % 32 == t
  | _ => false

/-- Whether the kind of one operand field is not permitted (R67). A kind that is not 0 on a branch target is one of these, cause
4, and no unused subfield (DESIGN CHOICE, log 79). -/
def slotBad4 (s : Slot) (k : BitVec 2) (f : BitVec 8) : Bool :=
  match s with
  | .src _ ks => !(ks.contains k.toNat) || (k == 3 && f != 0)
  | _ => k != 0

/-- Cause 4 of R79. -/
def cause4 (o : Op) (e : ExtWord) : Bool :=
  let m := opForm o e
  let lits := (if e.ka == 3 then 1 else 0) + (if e.kb == 3 then 1 else 0) + (if e.kc == 3 then 1 else 0)
  slotBad4 m.a e.ka e.sa || slotBad4 m.b e.kb e.sb || slotBad4 m.c e.kc e.sc ||
  decide (lits > 1) || ((lits == 1) != e.lit.isSome)

/-- The consecutive registers that operand `i` (0 D, 1 A, 2 B, 3 C) covers when it names a register (R33, R142, R160,
R135). -/
def regCount (o : Op) (e : ExtWord) (i : Nat) : Nat :=
  let t := e.ty.toNat
  let two (w : Nat) : Nat := if tyWidth w = 64 then 2 else 1
  match o with
  | .vaddS32 | .vsubS32 | .vand | .vor | .vxor | .vshl | .vshr | .vmov => two t
  | .vsel => if i = 3 then 1 else two t
  | .vcvt => if i = 0 then two t else two (e.opx.toNat % 32)
  | .vld | .vst | .vlds | .vsts | .vldb | .vldnf => if i = 0 then two t else 1
  | .vaadd | .vamin | .vamax | .vaand | .vaor | .vaxor | .vaxch | .vacas => if i = 0 || i = 3 then two t else 1
  | .vradd | .vrmin | .vrmax | .vrbit => if i = 0 then two t else 1
  | .vldw | .vstw | .vldsw | .vstsw => if i = 0 then (imm8 e.sc).toNat else 1
  | .qpushn => if i = 1 then (imm8 e.sb).toNat else 1
  | .qpopn => if i = 0 then (imm8 e.sb).toNat else 1
  | _ => 1

/-- Whether operand `i` is one of the wide forms, whose registers need not be even (R160). -/
def pairOperand (o : Op) (e : ExtWord) (i : Nat) : Bool :=
  match o with
  | .vldw | .vstw | .vldsw | .vstsw | .qpushn | .qpopn => false
  | _ => regCount o e i == 2

/-- The class of a field that names a register, if it does. -/
def slotClass (s : Slot) (k : BitVec 2) : Option RegClass :=
  match s with
  | .src c _ => if k == 0 then some c else none
  | .dst c | .upd c => some c
  | _ => none

/-- Whether one operand names a register outside its class (R70, R135, R142): also a vector range that passes v255, as for
scalars (DESIGN CHOICE, log 79). -/
def slotBad5 (o : Op) (e : ExtWord) (i : Nat) (s : Slot) (k : BitVec 2) (f : BitVec 8) : Bool :=
  match slotClass s k with
  | none => false
  | some c =>
    decide (f.toNat + max (regCount o e i) 1 - 1 > classMax c) ||
    (c == .v && pairOperand o e i && f.toNat % 2 == 1)

/-- Cause 5 of R79. -/
def cause5 (o : Op) (e : ExtWord) : Bool :=
  let m := opForm o e
  slotBad5 o e 0 m.d 0 e.d || slotBad5 o e 1 m.a e.ka e.sa || slotBad5 o e 2 m.b e.kb e.sb ||
  slotBad5 o e 3 m.c e.kc e.sc

/-- Cause 8 of R79: a base word with literal whose Z is not 0 or whose Z operand is no source (R61). -/
def cause8 (o : Op) (w : Word3) : Bool :=
  match w with
  | .lit f l =>
    f.z != 0 ||
    match (opForm o (fieldsOf o (.lit f l)).e).b with
    | .src _ _ => false
    | _ => true
  | _ => false

/-- The first failing check of R79 among causes 8, 2, 3, 4 and 5 (causes 7 and 1 come before decoding a word, cause 6
needs the launch). -/
def illegalCause (o : Op) (w : Word3) : Option Nat :=
  let e := (fieldsOf o w).e
  if cause8 o w then some 8
  else if cause2 o e then some 2
  else if cause3 o e then some 3
  else if cause4 o e then some 4
  else if cause5 o e then some 5
  else none

end Sys2Proof
end

