-- ==== Sys2Proof/Machine/State.lean ====
section
/-!
DEFINITION. The state of one YG-960 module as plain data, the reasons a step can stop, and the state right after a
module reset. INVENTORY.md lists every piece with the rule that names it.
-/
namespace Sys2Proof.Machine

/-- When something falls due: a clk of one die, or a value of %time in ns. -/
inductive When where
  | clk (die n : Nat)
  | ns (n : Nat)
  deriving DecidableEq, Repr

/-- An event that is due at a moment; events of one moment run in ascending rank, then in the order they were added. -/
structure Due where
  moment : When
  rank : Nat
  ev : Event
  deriving DecidableEq, Repr

/-- A vector, scalar or mask register of a group (R74). -/
structure Reg where
  c : RegClass
  n : Nat
  deriving DecidableEq, Repr

/-- A deferred arm of a split (R96): where it stands, its lanes, and the earliest clk of its next issue (R110). -/
structure DefArm where
  pc : Nat
  mask : Word
  earliest : Nat
  deriving DecidableEq, Repr

/-- A split in its place (R95): its running arm, its age stamp (R191), its deferred arms, whether `split` suspended the
exchange check (R116), the earliest clk of its next issue (R110), the `callv` whose lanes are out (R99). -/
structure Split where
  place : Nat
  pc : Nat
  mask : Word
  stamp : Nat
  arms : List DefArm
  susp : Bool
  earliest : Nat
  calling : Option Nat
  deriving DecidableEq, Repr

/-- A group's three bits for one barrier (R128, R132). -/
structure BarBits where
  arv : Bool
  aph : Bool
  drop : Bool
  deriving DecidableEq, Repr

/-- One entry of a trap record (R192), with the stamp of its split, its kind (0 precise, 1 region, 2 trap) and its
place in issue order (R191). -/
structure TrapEntry where
  addr : Nat
  lanes : Word
  detail : Nat
  pc : Nat
  split : Nat
  code : Nat
  stamp : Nat
  kind : Nat
  resume : Nat
  order : Nat
  deriving DecidableEq, Repr

/-- A stopped group's trap record (R191, R192) and its delivery: the clk of the stop, whether the record has been
appended to its queue (R193), and its token (R355). -/
structure TrapRec where
  clk : Nat
  time : Nat
  place : Word
  rgncnt : Nat
  rgnpc : Nat
  entries : List TrapEntry
  ovf : Bool
  nr : Bool
  saved : Bool
  delivered : Bool
  deriving DecidableEq, Repr

/-- How a group stood before the issue of an instruction that may still prove to have no effect (R189, R294): its splits and
their stamps, the last issue, the place served last, the count of issues and the pending `bar.sync` that it matched (R129). -/
structure Undo where
  splits : List Split
  stamps : Nat
  lastIssue : Nat
  lastPlace : Nat
  issued : Nat
  sync : Option Nat
  deriving DecidableEq, Repr

/-- One group (R93, R95, R98, R205). Registers are sparse: v is keyed 32 × register + lane, and an unlisted key reads 0.
`replays` names the work that a restore sends again before the group's first instruction (R200), `aborts` holds
copy aborts to be raised as (detail, pc, address, lanes) (R274), `ended` the commands ended per engine (R270). NR (R196) is `nr` or a non-repeatable operation that may still fault, listed in `nrMay`. -/
structure Group where
  uid : Nat
  team : Nat
  core : Nat
  slot : Nat
  role : Role
  num : Nat
  callee : Bool
  splits : List Split
  alive : Word
  stamps : Nat
  v : SMap Word
  s : SMap DWord
  k : SMap Word
  owners : List (Reg × Nat)
  flags : BitVec 12
  flagOwner : SMap Nat
  seed : DWord
  mcap : Nat
  mres : Word
  rgn : DWord
  nr : Bool
  nrMay : List Nat
  prio : Nat
  bars : SMap BarBits
  horizon : Nat
  depart : Option Nat
  lastIssue : Nat
  lastPlace : Nat
  issued : Nat
  placed : Nat
  resumed : Bool
  yieldUntil : Nat
  sleep : Option (Nat × Nat)
  sync : Option Nat
  busy : Option Nat
  acq : List Nat
  wrote : List Nat
  aborts : List (Nat × Nat × Nat × Word)
  ended : SMap Nat
  gen : BitVec 16
  stop : Option TrapRec
  items : List (Nat × Nat × Nat × Nat)
  halted : Bool
  moved : Bool
  undo : Option Undo
  replays : List Nat
  deriving DecidableEq, Repr

/-- Where a fixed-latency write goes (R73): vector elements as (lane, mask, value), a scalar register, bits of a mask
register, a special register by its kind-1 code, %rgn, the step of %seed that an `.rsr` rounding makes (R49), or a flag
with the operation that must still own it. -/
inductive WriteTo where
  | v (n : Nat) (lanes : List (Nat × Word × Word))
  | s (n : Nat) (x : DWord)
  | k (n : Nat) (mask value : Word)
  | sp (code : Nat) (x : DWord)
  | seedStep
  | flag (n op : Nat)
  deriving DecidableEq, Repr

/-- A fixed-latency write of group `uid`, applied at the end of clk `clk` of its die (R73). -/
structure PendWrite where
  clk : Nat
  uid : Nat
  dst : WriteTo
  deriving DecidableEq, Repr

/-- A team barrier (R128), and the changes of PEND in this clk, which are applied together at its end (R29). -/
structure TeamBar where
  phase : Bool
  exp : Nat
  count : Nat
  drops : Nat
  pend : Nat
  delta : Int
  deriving DecidableEq, Repr

/-- An outer-level barrier of one instance of one launch (R132); `key` is 16 × level + number. -/
structure OuterBar where
  launch : Nat
  inst : Nat
  key : Nat
  phase : Bool
  exp : Nat
  count : Nat
  drops : Nat
  deriving DecidableEq, Repr

/-- A ring (R25, R86): depth and roles, its header, its entries, and the clk's bookkeeping of R26: the entries that
waited at the start of the clk, the pushes and pops served since, and whether the service of the clk's group pushes or pops
has stopped at a request that did not fit (R134). -/
structure Ring where
  depth : Nat
  pushr : Role
  popr : Role
  popph : Bool
  popix : Nat
  pushph : Bool
  pushix : Nat
  ents : SMap Word
  start : Nat
  pushed : Nat
  popped : Nat
  pushShut : Bool
  popShut : Bool
  deriving DecidableEq, Repr

/-- A level in use (R84). -/
structure Level where
  extent : Nat
  cor : Bool
  scope : Nat
  domain : Nat
  deriving DecidableEq, Repr

/-- A declared range or buffer-list entry (R87, R341): base, length, KIND. -/
structure Range where
  base : Nat
  len : Nat
  kind : Nat
  deriving DecidableEq, Repr

/-- A launch record that passed R88 (R83 to R87). -/
structure LaunchRec where
  args : DWord
  code : Nat
  entc : Nat
  entm : Nat
  entv : Nat
  ncall : Nat
  ncopy : Nat
  nmat : Nat
  nvec : Nat
  spad : Nat
  vregs : Nat
  prio : Nat
  oppt : Nat
  levels : List Level
  rings : List (Nat × Nat × Nat)
  ranges : List Range
  deriving DecidableEq, Repr

/-- Where a command stands (R342 to R345). -/
inductive CmdPhase where
  | waiting | held | ready | running | listing | ended
  deriving DecidableEq, Repr

/-- An accepted command: a launch, a fence or a translation invalidate (R341 to R346, R354): its place in the order of
acceptance (`seq`), when it was accepted, teams placed, in all, and not yet ended, requests that must be acknowledged or
performed before it ends, and the unit in which an instance of a level runs, as (level, instance, unit) (R85). `drops` are
the drops of copies that a command still awaits once it has asked for them, and `settle` the %time from which they count
(R289, R345). -/
structure Launch where
  id : Nat
  kind : Nat
  fe : Nat
  vd : Nat
  part : Nat
  ctx : Nat
  record : LaunchRec
  done : Nat
  preds : List Nat
  list : List Range
  phase : CmdPhase
  seq : Nat
  accepted : Nat
  placed : Nat
  total : Nat
  live : Nat
  status : Nat
  outstanding : List Nat
  units : List (Nat × Nat × Nat)
  drops : Option (List Nat)
  settle : Nat
  deriving DecidableEq, Repr

/-- A placed team (R82 to R94): `held` are the slots of its groups that have ended, which it keeps with their registers until
it ends itself (R90, R107). -/
structure Team where
  id : Nat
  launch : Nat
  ctx : Nat
  part : Nat
  num : Nat
  core : Nat
  members : Nat
  vregs : Nat
  spadKiB : Nat
  storeKiB : Nat
  matrix : Bool
  callees : List Nat
  bars : SMap TeamBar
  rings : SMap Ring
  evts : SMap DWord
  spad : SMap Byte
  prio : Nat
  order : Nat
  left : Nat
  held : List Nat
  deriving DecidableEq, Repr

/-- One lane's access: lane and virtual address. -/
structure LaneAcc where
  lane : Nat
  va : Nat
  deriving DecidableEq, Repr

/-- The kind of work in flight. -/
inductive Work where
  /-- a global load; `nf` for the no-fault form -/
  | load (nf : Bool)
  | store
  | reduce
  | atomic
  | prefetch
  | fence
  /-- a barrier arrival not yet counted: 16 × level + number -/
  | arrive (key : Nat)
  /-- a scratchpad access -/
  | spad
  | sleep
  /-- `callv`: lanes not yet enqueued, lanes out -/
  | callv (place : Nat) (toSend out : Word)
  | migrate (va : Nat)
  | launch
  | launchWait (id : Nat)
  | claim (mask : Nat)
  | release (mask : Nat)
  /-- an array instruction (R238) -/
  | array
  | feed (addr count moved : Nat)
  | feeda
  /-- a copy command -/
  | copy
  | cancel (cmds : List Nat)
  | spiral
  /-- a promise operation and the step it stands at (R306 to R314) -/
  | promise
  | link
  | coll (id : Nat)
  deriving DecidableEq, Repr

/-- Where a promise operation stands (R306 to R310). -/
inductive PromStep where
  /-- visiting cell x, first of a find -/
  | visitX (x visits : Nat)
  /-- visiting parent p of x -/
  | visitP (x p visits : Nat)
  /-- waiting for the translation of the cell that a visit is to go to, from a sector: the first of a find, or parent p of x -/
  | walkX (x visits sector : Nat)
  | walkP (x p visits sector : Nat)
  /-- waiting for the lock of a root -/
  | lock (cell : Nat)
  /-- writing; the acknowledgements still awaited are the operation's requests -/
  | write
  /-- a waiter record is registered -/
  | waiting
  | done
  deriving DecidableEq, Repr

/-- Where a wait on a promise came from whose group has ended (R317): context, partition, core and group slot. -/
structure Origin where
  ctx : Nat
  part : Nat
  core : Nat
  slot : Nat
  deriving DecidableEq, Repr

/-- An instruction in flight: its place in issue order (`id`), its group and generation, its word, its selected lanes,
its flag and destination registers, its memory class, the accesses and requests it still has, and what has come back;
`origin` once its group has ended before it; `grants` the policy and the DL bit of the mapping under which it took each lock, as
(cell, DL, policy) (R307, R356). -/
structure Flight where
  id : Nat
  uid : Nat
  gen : BitVec 16
  op : Op
  f : ExtWord
  pc : Nat
  place : Nat
  stamp : Nat
  sel : Word
  setf : Nat
  dests : List Reg
  clk : Nat
  region : Nat
  work : Work
  lanes : List LaneAcc
  data : List (Nat × DWord)
  sent : Bool
  reqs : List Nat
  failT : List (Nat × Nat)
  failD : List Nat
  acc : Nat
  step : PromStep
  roots : List Nat
  locks : List Nat
  vals : List DWord
  mems : List (Nat × Byte)
  pas : List Nat
  at1 : Nat
  at2 : Nat
  origin : Option Origin
  grants : List (Nat × Bool × Nat)
  deriving DecidableEq, Repr

/-- Where a request comes from. -/
inductive Src where
  | core (op core : Nat)
  | engine (cmd eng : Nat)
  | host (core : Nat)
  | pcie (requester : Nat)
  | link (module token : Nat)
  | walker (walk : Nat)
  | prom (op core : Nat)
  /-- the dirty-bitmap OR of a logged write (R356) -/
  | dlog (req : Nat)
  /-- the die control processors and the front ends -/
  | cp
  deriving DecidableEq, Repr

/-- What a request asks of one line at its home front. Bytes are (offset in line, byte). -/
inductive Ask where
  /-- read pieces: (lane, register index, offset, length) -/
  | load (pieces : List (Nat × Nat × Nat × Nat))
  | store (bytes : List (Nat × Byte))
  /-- a poison mark for the line (R274) -/
  | poison
  /-- a reduction: operation, type, width, words (offset, value) -/
  | reduce (op : Rmw) (ty width : Nat) (words : List (Nat × DWord))
  /-- a returning atomic -/
  | atomic (op : Rmw) (ty width : Nat) (lane off : Nat) (c cmp : DWord)
  | prefetch
  | hdist (cp : Bool)
  | hpin
  | hunpin
  | hpre (slot : Nat)
  | hdemote (out : Bool)
  | hocc
  /-- the making of a cell, a promise visit, a halving write, a lock request and a cell write with unlock; cells by
  physical address -/
  | make (cell : Nat)
  | visit (cell : Nat)
  | casParent (cell p g : Nat)
  | lock (cell : Nat)
  | cellWrite (cell : Nat) (bytes : List (Nat × Byte))
  deriving DecidableEq, Repr

/-- Where a request stands. -/
inductive ReqPhase where
  | travel | queued | wave | parked | memory | forward | reply | done
  deriving DecidableEq, Repr

/-- A request to one line (R163, R185, R282): its source with the group and operation it serves, what it asks, its
policy, scope, context and partition, the global physical address of the line divided by 128, the arm it heads for or
stands at, its home arm, the requester's sector, when it left its post queue, its age stamp and port (R31), the clk of its
last phase and when it falls due, the line's bytes as performed, poison, tag and completion time, copies still to be
updated and whether the OR of a dirty bitmap is awaited, an atomic's old word, combined contributions (R172), the
renewed tag (R178), the lease granted, whether the reply makes a copy, whether the value has been delivered or the tile
set in motion, whether an old home has forwarded it (R188), whether no route leads to its home (R321, R324), the slot and generation of the
group that sent it (R201), the arm at which the copy it makes stands, whether it was served as `.stay` so that it makes none
after all (R283, R288), whether it waits for a motion-table entry (R294), its place in the order of service (R282, R303), and newer
words that have reached the sector before the reply that makes the copy, as (tag, bytes, poison) (R176, R179), and for a request of
another module the block that its frame belongs to (R322). A line of another
module has the home 1000 plus the arm number its reply names. -/
structure Req where
  id : Nat
  src : Src
  uid : Nat
  op : Nat
  ask : Ask
  pol : Nat
  scope : Nat
  ctx : Nat
  part : Nat
  line : Nat
  va : Nat
  arm : Nat
  home : Nat
  sector : Nat
  left : Nat
  stamp : Nat
  port : Nat
  since : Nat
  due : When
  phase : ReqPhase
  data : List (Nat × Byte)
  poison : Bool
  tag : Nat
  ct : Nat
  updates : Nat
  dl : Bool
  result : DWord
  combine : List (Nat × Nat × List (Nat × DWord))
  renew : Option Nat
  lease : Option Nat
  copy : Bool
  acked : Bool
  fwd : Bool
  lost : Bool
  slot : Nat
  gen : BitVec 16
  nest : Nat
  stay : Bool
  waits : Bool
  away : Bool
  via : Nat
  served : Nat
  words : Option (Nat × List (Nat × Byte) × Bool)
  block : Nat
  deriving DecidableEq, Repr

/-- A line of a tile: dirty, sharer mask (R279), and for a copy tile valid, expiry (none for a write-update copy), tag, words and
the poison mark that the home's reply brought (R175, R279, R288). -/
structure LineSt where
  dirty : Bool
  sharers : BitVec 2
  valid : Bool
  expiry : Option Nat
  tag : Nat
  data : SMap Byte
  poison : Bool
  deriving DecidableEq, Repr

/-- A tile in a slot of an arm (R279): `tile` is its global physical address divided by 1024, `was` the slot in which it
stood at the start of the clk (R284). A leaving tile whose slot an insertion has taken stands in no slot (slot 2,048). -/
structure Tile where
  tile : Nat
  slot : Nat
  was : Nat
  copy : Bool
  owner : Nat
  pin : Option Nat
  lines : SMap LineSt
  deriving DecidableEq, Repr

/-- A motion-table entry (R285). -/
inductive MotionKind where
  /-- travelling to insert at a slot, from the service of the request that moves it -/
  | travel (target : Nat)
  /-- being fetched, to insert at a slot -/
  | fetch (target owner : Nat) (copy : Bool)
  /-- leaving: whether dirty lines are written back, and one more than the tile whose insertion waits for the slot, 0 for none
  (R287) -/
  | leave (written : Bool) (heir : Nat)
  deriving DecidableEq, Repr

/-- A tile's entry: its kind, its place in the order of service (R303), and the request whose wave must still find the tile
(R302), 0 once it has. -/
structure Motion where
  tile : Nat
  kind : MotionKind
  order : Nat
  lead : Nat
  deriving DecidableEq, Repr

/-- An occupancy counter entry (R286); PINS and COUNT are read from the arm's tiles. -/
structure OccEntry where
  ctx : Nat
  valid : Bool
  pinlim : Nat
  limit : Nat
  deriving DecidableEq, Repr

/-- A waiter record (R310). -/
structure Waiter where
  next : Nat
  ctx : Nat
  gen : Nat
  dreg : Nat
  scope : Nat
  slot : Nat
  core : Nat
  deriving DecidableEq, Repr

/-- A forwarding entry (R188): the block, the new home, and the pins its tiles lost as (tile, context) (R291). -/
structure Forward where
  block : Nat
  toArm : Nat
  lost : List (Nat × Nat)
  deriving DecidableEq, Repr

/-- One spiral arm (R279, R282): tiles by slot, the front's queue, the tiles in motion, the landing registers in
parking order as (tile, request), forwarding entries, occupancy entries, the eviction horizon (R177), waiter records
(R310) with the cells that have lists of them, requests held for a home change as (block, request) (R188), tiles to pin again after a fetch as (tile, context) (R291), the
clk's counts, and the tiles whose landing has been deferred (R303). -/
structure ArmSt where
  tiles : List Tile
  queue : List Nat
  motion : List Motion
  parked : List (Nat × Nat)
  forwards : List Forward
  held : List (Nat × Nat)
  repins : List (Nat × Nat)
  occ : SMap OccEntry
  evict : Nat
  waiters : SMap Waiter
  heads : List Nat
  accepted : Nat
  served : Bool
  inserted : Bool
  removed : Bool
  late : List Nat
  deriving DecidableEq, Repr

/-- Loop state (R223) and what the array needs to run an iteration: the phase times are of the model. -/
structure LoopSt where
  res0 : Word
  res1 : Word
  res2 : Word
  thr : Word
  n : Nat
  cap : Nat
  step : Nat
  phase : Nat
  rise : Nat
  kind : Nat
  xq : Nat
  slot : Nat
  deriving DecidableEq, Repr

/-- Gang register (R229). -/
structure Gang where
  size : Nat
  grm1 : Nat
  gcm1 : Nat
  row : Nat
  col : Nat
  mask : Nat
  seq : Nat
  deriving DecidableEq, Repr

/-- A member's arrival at the rendezvous latch (R230): its group and split place, the clk from which it waits, its
instruction, its descriptor (`mgang`) or the address of its format-block pair (`mgmac`), one more than the clk in which
the latch let it issue, and the 32 bytes of the pair that the latch compared (R243). -/
structure Arrival where
  uid : Nat
  place : Nat
  since : Nat
  op : Op
  f : ExtWord
  desc : Nat
  granted : Nat
  blocks : List Byte
  deriving DecidableEq, Repr

/-- The matrix engine of a core (R213). Slots are keyed 32768 × slot + byte, the accumulator 256 × row + column; mx is keyed
by row and reads −Inf where unlisted. `marked` is one more than the clk in which an interlock count last changed, `rose` and
`fell` the counts that rose and fell in it: 2 × slot for FD, and one more for RD (R216). `withdrawn` is an arrival that a
save takes with it (R232). -/
structure MatrixSt where
  team : Option Nat
  slots : SMap Byte
  claims : SMap Nat
  fd : SMap Nat
  rd : SMap Nat
  marked : Nat
  rose : List Nat
  fell : List Nat
  acc : SMap Word
  cb : SMap Word
  mx : SMap Word
  lx : SMap Word
  coef : SMap Word
  loop : LoopSt
  resf : Word
  steps : Nat
  out : Nat
  gang : Gang
  member : Option Nat
  queue : List Nat
  startAt : Nat
  endAt : Nat
  running : Bool
  left : Nat
  arrival : Option Arrival
  withdrawn : Option Arrival
  deriving DecidableEq, Repr

/-- A guard entry of a core (R271): the command, whether it is a write entry, the team and the byte range. -/
structure Guard where
  cmd : Nat
  write : Bool
  team : Nat
  lo : Nat
  hi : Nat
  deriving DecidableEq, Repr

/-- An item of a callee queue (R99): caller, lane, operation, and v0 to v7. -/
structure Item where
  uid : Nat
  lane : Nat
  op : Nat
  regs : List Word
  deriving DecidableEq, Repr

/-- A bound callee queue (R99). -/
structure CalleeQueue where
  num : Nat
  team : Nat
  pc : Nat
  items : List Item
  deriving DecidableEq, Repr

/-- A block of copied bytes that has reached a core and waits for the scratchpad (R161): the command, its engine, the
bytes as (scratchpad or slot address, byte). -/
structure Landing where
  cmd : Nat
  eng : Nat
  bytes : List (Nat × Byte)
  deriving DecidableEq, Repr

/-- One core: its units' occupancy (R80, R144), guards, callee queues, landings, matrix engine, the generations of its slots,
and the clk in which its post queue sent last, with the requests it sent in it (R163). -/
structure CoreSt where
  sfuUntil : Nat
  laneUntil : Nat
  spadUntil : Nat
  globalUntil : Nat
  guards : List Guard
  queues : List CalleeQueue
  landings : List Landing
  lastMatrix : Bool
  lastEng : Nat
  xferClk : Nat
  mat : MatrixSt
  gens : SMap Nat
  postClk : Nat
  postN : Nat
  deriving DecidableEq, Repr

/-- A cached translation (R352, R353). -/
structure TlbEntry where
  part : Nat
  page : Nat
  size : Nat
  pa : Nat
  r : Bool
  w : Bool
  dl : Bool
  fpol : Nat
  deriving DecidableEq, Repr

/-- Where a copy command stands. -/
inductive CopyPhase where
  | waiting | started | parked
  /-- a link unit reads the source of a collective (R334) -/
  | reading
  /-- the signal of an `lput` has been sent (R332) -/
  | signalled
  deriving DecidableEq, Repr

/-- A copy command in its engine's entry (R259 to R275): the engine (4 × sector + number), the entry, its instruction as it
issued, destination, source, value and descriptor fields (W, N1, N2, IDX, SS1, DS1, SS2, DS2), bytes in all, taken by the
engine, landed or acknowledged, and subtracted from its barrier, the clk of issue, the barrier, the reads and writes
outstanding in order, the pages that failed translation with their causes, the bytes of a block that have come so far, the
places of bytes still to come as (position, address, bytes), and the translations by which its blocks go. -/
structure CopyCmd where
  id : Nat
  eng : Nat
  entry : Nat
  op : Op
  uid : Nat
  team : Nat
  core : Nat
  f : ExtWord
  pc : Nat
  sel : Word
  dest : Nat
  src : Nat
  value : Word
  desc : List Nat
  total : Nat
  sent : Nat
  landed : Nat
  issuedClk : Nat
  bar : Option Nat
  phase : CopyPhase
  reads : List Nat
  writes : List Nat
  fails : List (Nat × Nat)
  counted : Nat
  got : List (Nat × Byte)
  places : List (Nat × Nat × Nat)
  pages : List TlbEntry
  deriving DecidableEq, Repr

/-- A copy engine (R259): the command served last and the clk it is busy until. -/
structure EngineSt where
  lastEntry : Nat
  lastClk : Nat
  deriving DecidableEq, Repr

/-- A page-table walk (R353): the partition, the address, the level to read next and the table's address, and the
operations or commands that wait. -/
structure Walk where
  id : Nat
  part : Nat
  va : Nat
  level : Nat
  table : Nat
  req : Nat
  ops : List Nat
  cmds : List Nat
  deriving DecidableEq, Repr

/-- New words of a write on their way to a write-update copy (R288). -/
structure Update where
  id : Nat
  sector : Nat
  arm : Nat
  line : Nat
  tag : Nat
  bytes : List (Nat × Byte)
  req : Nat
  /-- a drop of the line instead of new words -/
  drop : Bool
  home : Nat
  /-- the line takes a poison mark with it (R274) -/
  poison : Bool
  deriving DecidableEq, Repr

/-- A wake to be sent or on its way (R310, R311): the root's physical address and home arm, the partition, the record and
its name, the value, and the completion time of the fill. -/
structure Wake where
  id : Nat
  cell : Nat
  arm : Nat
  part : Nat
  ref : Nat
  w : Waiter
  value : DWord
  ct : Nat
  sent : Bool
  deriving DecidableEq, Repr

/-- What a member brings to a collective (R329): its rank, opcode, TYPE, OP and shape word, and the time of its issue. -/
structure Brought where
  rank : Nat
  opc : Nat
  ty : Nat
  rop : Nat
  shape : DWord
  time : Nat
  deriving DecidableEq, Repr

/-- A collective (R329 to R336): its place in the communicator's order, the local operation and its destination, what each
rank brought, when its first member issued, whether its members agree, the phase of the exchange (2: its result is formed),
whether the local source has been read, the bytes that have come as (rank, phase, offset, bytes), whether the local
destination is written, its bytes, and a fault that waits for its group (code, detail). -/
structure Coll where
  id : Nat
  part : Nat
  comm : Nat
  k : Nat
  op : Option Nat
  dest : Nat
  brought : List Brought
  first : Nat
  matched : Bool
  phase : Nat
  read : Bool
  data : List (Nat × Nat × Nat × List Byte)
  written : Bool
  result : List Byte
  fault : Option (Nat × Nat)
  deriving DecidableEq, Repr

/-- A Lorwell link (R324): whether it is up, the next sequence number to accept and to send, its failed retries and those of
its peer, the flits that the time since the last frame left could carry, the frames queued to leave, those that have
left and are not known to be accepted, and whether it has asked for a frame again that has not come yet. -/
structure LinkSt where
  up : Bool
  rx : Nat
  tx : Nat
  retries : Nat
  resends : Nat
  flits : Nat
  out : List LinkFrame
  sent : List LinkFrame
  asked : Bool
  deriving DecidableEq, Repr

/-- A write of a PCIe device that has been received (R327): its requester, address and bytes, and whether it raises an
interrupt. -/
structure PcieOp where
  requester : Nat
  addr : Nat
  bytes : List Byte
  msi : Bool
  deriving DecidableEq, Repr

/-- A compute die (R374 to R377): its clk count, the fraction of a clk in fiftieths, the point in force, the highest
point that the limiter allows, the highest point that firmware allows, the %time until which its clock is stopped, the
%time at which a ramp to a higher point ends, transfer entries in use (R331), and whether its clk began with the current
tick. -/
structure DieSt where
  clk : Nat
  phase : Nat
  point : Nat
  limit : Nat
  ceiling : Nat
  stall : Nat
  pending : Option Nat
  xfers : Nat
  fresh : Bool
  deriving DecidableEq, Repr

/-- A black-box entry (R378). -/
structure BoxEntry where
  time : Nat
  seq : BitVec 32
  code : Nat
  src : Nat
  unit : Nat
  ctx : Nat
  data : Nat
  deriving DecidableEq, Repr

/-- The 64 bits under one check code of an on-die store (R379): a lane of a vector register, a scalar or a mask register of a group,
or eight bytes of a team's scratchpad, of the operand slots of a core, or of its accumulator, by their number. -/
inductive Store where
  | reg (uid : Nat) (r : Reg) (lane : Nat)
  | spad (team word : Nat)
  | slot (core word : Nat)
  | acc (core word : Nat)
  deriving DecidableEq, Repr

/-- An uncorrectable error in an on-die store (R379): it stands while the store holds the damaged bits (log 66). -/
structure SoftErr where
  place : Store
  bits : Nat
  deriving DecidableEq, Repr

/-- What goes wrong in the module's storage: an error that is corrected, in a unit of a die, one that is not, in an on-die store, or
one in a line of device memory. -/
inductive Upset where
  | corrected (die unit : Nat)
  | spoiled (p : Store)
  | line (l : Nat)
  deriving DecidableEq, Repr

/-- The configuration record in force (R372). -/
structure ConfigRec where
  serial : DWord
  pwrlim : Nat
  linken : Nat
  darm : List Nat
  dcl : List Nat
  cap : List Nat
  fwhash : List Byte
  kseed : List Byte
  sig : List Byte
  deriving DecidableEq, Repr

/-- Whether the module runs, waits in the recovery service (R370), or is without power (R378). -/
inductive BootSt where
  | released
  | recovery (step : Nat)
  | off
  deriving DecidableEq, Repr

/-- A partition descriptor (R347), with the promise pool's free list (R310) as record numbers in order. -/
structure PartSt where
  colour : List Nat
  pool : Nat
  pooln : Nat
  ptroot : Nat
  lt : Nat
  valid : Bool
  base : Nat
  limit : Nat
  free : List Nat
  placing : Option Nat
  chosenAt : Nat
  lastZero : Nat
  deriving DecidableEq, Repr

/-- A virtual-device descriptor with its service block and virtual time (R338, R340, R349), whether it
counted as eligible, whether its context is damaged (R208), and the operating point that its context's latest granted `opt`
requests (R141, R375). -/
structure VdSt where
  save : Nat
  dlog : Nat
  ctx : Nat
  quant : Nat
  weight : Nat
  femask : Nat
  part : Nat
  susp : Bool
  valid : Bool
  tqbase : Nat
  tqn : Nat
  tqhead : Nat
  tqtail : Nat
  trbase : Nat
  trn : Nat
  trcnt : Nat
  optok : Bool
  dbg : Bool
  vt : Nat
  eligible : Bool
  damaged : Bool
  opt : Nat
  deriving DecidableEq, Repr

/-- A device-side launch waiting in a front end (R346). -/
structure DevLaunch where
  op : Nat
  uid : Nat
  addr : Nat
  prio : Nat
  vd : Nat
  deriving DecidableEq, Repr

/-- A command front end (R341, R342, R346). -/
structure FrontEnd where
  base : Nat
  size : Nat
  head : Nat
  tail : Nat
  count : Nat
  devq : List DevLaunch
  deriving DecidableEq, Repr

/-- A page-request record (R355). -/
structure PageReq where
  va : Nat
  ctx : Nat
  token : Nat
  fe : Nat
  engine : Bool
  code : Nat
  detail : Nat
  reserved : Bool
  taken : Bool
  deriving DecidableEq, Repr

/-- A communicator entry (R328) and the number of collectives accepted on it (R329). -/
structure CommSt where
  list : Nat
  tmo : Nat
  rank : Nat
  nm1 : Nat
  valid : Bool
  k : Nat
  deriving DecidableEq, Repr

/-- A kernel image in a cluster's code store (R348, R71): its CODE address, its range and its wait-mask table. -/
structure Image where
  code : Nat
  load : Nat
  len : Nat
  waits : List (BitVec 16)
  deriving DecidableEq, Repr

/-- A cluster's code store (R58, R348): its bytes, the images it holds, and the load that stops issue: the clk in which it
ends and its image. -/
structure CodeStore where
  bytes : SMap Byte
  images : List Image
  loading : Option (Nat × Image)
  deriving DecidableEq, Repr

/-- A save of a context or of some of its teams (R198 to R205): the teams being saved, and, once the area is written (`done`;
`held` while its teams live nowhere else),
what a restore makes live again: the logical core (6 × logical cluster + core) of each physical core it stood on, matrix
engines, callee queues by core, and the footprint with its capability words. -/
structure SaveSt where
  id : Nat
  ctx : Nat
  vd : Nat
  part : Nat
  whole : Bool
  area : Nat
  count : Nat
  len : Nat
  depart : Nat
  done : Bool
  held : Bool
  ids : List Nat
  teams : List Team
  groups : List Group
  flights : List Flight
  copies : List CopyCmd
  mats : List (Nat × MatrixSt)
  queues : List (Nat × List CalleeQueue)
  cores : List (Nat × Nat)
  foot : List (Nat × Nat)
  deriving DecidableEq, Repr

/-- What came of the last issue attempt: an instruction issued, was held back for now, was held back only because an
earlier instruction holds its unit (R104), its group stopped, or a member arrived at the rendezvous latch. -/
inductive Turn where
  | none | issued | held | unitHeld | trapped | arrived
  deriving DecidableEq, Repr

/-- The machine. Times: `ns` and `frac`, in fifty-thousandths of a ns, make %time (R7); one tick of the model adds 0.4 ns,
corrected by `slew` parts per million (R371). `boxBoot` is the SEQ with which the boot's black-box entries begin (R378),
`busErrors` the writes outside their windows that the firmware has been told of, as (die, address) (R376), `soft` the
uncorrectable errors in on-die stores, `upsets` what still goes wrong, at which %time, and `corrected` the start of the hour and
the count of corrected errors of each unit, keyed 65536 × die + unit (R378, R379). `dramTags` are the tags of the lines' bytes
in memory (R184), `blockVia` the links of the latest 256-byte blocks as (module, block, link) (R322), and `peerSeen` the
requests of other modules that have been taken, as (module, token) (R324). A tick has six stages: what is due at its start, the
rendezvous latch, issue, the fronts accepting, the fronts serving, and the rest (log 5). -/
structure State where
  ns : Nat
  frac : Nat
  slew : Int
  timeSet : Bool
  dies : List DieSt
  module : Nat
  boot : BootSt
  config : ConfigRec
  flash : List Byte
  saveCount : DWord
  bootNo : Nat
  box : List BoxEntry
  boxSeq : BitVec 32
  boxBoot : BitVec 32
  boxFrozen : Bool
  cores : SMap CoreSt
  arms : SMap ArmSt
  engines : SMap EngineSt
  codes : SMap CodeStore
  mem : SMap Byte
  dram : SMap Byte
  dramTags : SMap Nat
  poison : List Nat
  latent : List Nat
  hostCopies : SMap LineSt
  tags : SMap Nat
  horizons : SMap Nat
  groups : List Group
  teams : List Team
  outer : List OuterBar
  flights : List Flight
  pend : List PendWrite
  reqs : List Req
  cmds : List CopyCmd
  updates : List Update
  wakes : List Wake
  walks : List Walk
  tlb : List TlbEntry
  lockq : List (Nat × Nat)
  colls : List Coll
  hostWaits : List Nat
  hostHors : SMap Nat
  pcieq : List PcieOp
  links : List LinkSt
  blockVia : List (Nat × Nat × Nat)
  peerSeen : List (Nat × Nat)
  routes : List (BitVec 32)
  comms : SMap CommSt
  parts : SMap PartSt
  vds : SMap VdSt
  fes : SMap FrontEnd
  places : SMap (BitVec 16)
  owners : SMap Nat
  homes : SMap Nat
  launches : List Launch
  pageReqs : List PageReq
  pageHeld : List PageReq
  pageLast : Nat
  takeReg : Option PageReq
  saves : List SaveSt
  cpStatus : Nat
  cpWaits : List Nat
  hvLog : List (Nat × Nat)
  errHeld : List (Nat × Nat × Nat)
  hostIrq : Nat
  windows : List (Nat × Nat × Nat)
  busErrors : List (Nat × Nat)
  soft : List SoftErr
  upsets : List (Nat × Upset)
  corrected : SMap (Nat × Nat)
  agenda : List Due
  stage : Nat
  issueQ : List (Nat × Nat)
  cur : Option (Nat × Nat)
  turn : Turn
  opCount : Nat
  uidCount : Nat
  freeCount : Nat
  deriving DecidableEq, Repr

/-- The reasons for which the model stops. -/
inductive Fault where
  /-- An instruction row was executed with no group chosen to issue it (`State.cur` is none). Raised by every
  instruction meaning; no step of a run raises it, since a step runs an instruction only for a chosen group. Safe. -/
  | noIssuingGroup
  deriving DecidableEq, Repr

/-- The reasons for which the model gives an instruction no meaning. -/
inductive Refusal where
  /-- The instruction has no meaning in this model yet. Raised by an arm of exec only. Safe. -/
  | notModelled (mnemonic : String)
  deriving DecidableEq, Repr

/-- An empty matrix engine (R213). -/
def MatrixSt.empty : MatrixSt where
  team := none
  slots := []
  claims := []
  fd := []
  rd := []
  marked := 0
  rose := []
  fell := []
  acc := []
  cb := []
  mx := []
  lx := []
  coef := []
  loop := ⟨0, 0, 0, 0, 0, 0, 0, 0, 0, 0, 0, 0⟩
  resf := 0
  steps := 0
  out := 0
  gang := ⟨0, 0, 0, 0, 0, 0, 0⟩
  member := none
  queue := []
  startAt := 0
  endAt := 0
  running := false
  left := 0
  arrival := none
  withdrawn := none

/-- A core on which nothing is placed. -/
def CoreSt.empty : CoreSt where
  sfuUntil := 0
  laneUntil := 0
  spadUntil := 0
  globalUntil := 0
  guards := []
  queues := []
  landings := []
  lastMatrix := false
  lastEng := 3
  xferClk := 0
  mat := MatrixSt.empty
  gens := []
  postClk := 0
  postN := 0

/-- An arm at reset: every slot empty (R279). -/
def ArmSt.empty : ArmSt where
  tiles := []
  queue := []
  motion := []
  parked := []
  forwards := []
  held := []
  repins := []
  occ := []
  evict := 0
  waiters := []
  heads := []
  accepted := 0
  served := false
  inserted := false
  removed := false
  late := []

/-- A die released at operating point 0 (R370 step 7). -/
def DieSt.reset : DieSt := ⟨0, 0, 0, 7, 7, 0, none, 0, true⟩

/-- A partition descriptor at reset (R347). -/
def PartSt.reset : PartSt := ⟨[0, 0, 0, 0], 0, 0, 0, 7, false, 0, 0, [], none, 0, 63⟩

/-- A virtual-device descriptor at reset (R338, R340). -/
def VdSt.reset : VdSt :=
  ⟨0, 0, 0, 0, 0, 0, 0, false, false, 0, 0, 0, 0, 0, 0, 0, false, false, 0, false, false, 0⟩

/-- A front end at reset (R342; base and size by log 9). -/
def FrontEnd.reset : FrontEnd := ⟨0, 0, 0, 0, 0, []⟩

/-- A code store into which nothing has been loaded. -/
def CodeStore.empty : CodeStore := ⟨[], [], none⟩

/-- An occupancy entry at reset (R286). -/
def OccEntry.reset : OccEntry := ⟨0, false, 256, 2048⟩

/-- The configuration record of the module as shipped: DESIGN CHOICE, log 8. -/
def ConfigRec.shipped : ConfigRec where
  serial := 1
  pwrlim := 2800
  linken := 0xFFFF
  darm := List.replicate 12 16
  dcl := List.replicate 12 8
  cap := (List.replicate 108 [1, 1, 0, 0, 0, 0]).flatten
  fwhash := List.replicate 48 0
  kseed := List.replicate 32 0
  sig := List.replicate 96 1

/-- The 896 bytes of a configuration record in boot flash (R372). -/
def ConfigRec.image (c : ConfigRec) : List Byte :=
  let le (n x : Nat) : List Byte := (List.range n).map (fun i => BitVec.ofNat 8 (x / 256 ^ i))
  le 4 0x59470960 ++ le 4 1 ++ le 8 c.serial.toNat ++ le 4 c.pwrlim ++ le 2 c.linken ++ le 2 0 ++
  ((List.range 12).map (fun i => le 4 (c.darm.getD i 0 * 256 + c.dcl.getD i 0))).flatten ++
  (c.cap.map (fun x => BitVec.ofNat 8 x)) ++ c.fwhash ++ c.kseed ++ c.sig

/-- The black-box entries of the seven boot steps (R370, R378). -/
def bootEntries : List BoxEntry := (List.range' 1 7).map (fun k => ⟨0, BitVec.ofNat 32 (k - 1), 0x01, 4, 0, 0, k⟩)

/-- The 16 write windows that the boot ROM gives each control processor (R376), as (die, first address, end). -/
def bootWindows : List (Nat × Nat × Nat) :=
  (List.range 64).map (fun i => let w := Config.window (i / 16) (i % 16); (i / 16, w.1, w.1 + w.2))

/-- The time between patrol scrubs: 24 h (R379). -/
def scrubPeriod : Nat := 86400 * 10 ^ 9

/-- The module right after a module reset: the boot steps done, the compute dies released at point 0, %time 0, all
device memory zero, no partition (R370, R371). -/
def State.reset : State where
  ns := 0
  frac := 0
  slew := 0
  timeSet := false
  dies := List.replicate 4 DieSt.reset
  module := 0
  boot := .released
  config := ConfigRec.shipped
  flash := ConfigRec.shipped.image
  saveCount := 1
  bootNo := 0
  box := bootEntries
  boxSeq := 7
  boxBoot := 0
  boxFrozen := false
  cores := []
  arms := []
  engines := []
  codes := []
  mem := []
  dram := []
  dramTags := []
  poison := []
  latent := []
  hostCopies := []
  tags := []
  horizons := []
  groups := []
  teams := []
  outer := []
  flights := []
  pend := []
  reqs := []
  cmds := []
  updates := []
  wakes := []
  walks := []
  tlb := []
  lockq := []
  colls := []
  hostWaits := []
  hostHors := []
  pcieq := []
  links := List.replicate 16 ⟨true, 0, 0, 0, 0, 0, [], [], false⟩
  blockVia := []
  peerSeen := []
  routes := List.replicate 256 0
  comms := []
  parts := []
  vds := []
  fes := []
  places := []
  owners := []
  homes := []
  launches := []
  pageReqs := []
  pageHeld := []
  pageLast := 15
  takeReg := none
  saves := []
  cpStatus := 0
  cpWaits := []
  hvLog := []
  errHeld := []
  hostIrq := 0
  windows := bootWindows
  busErrors := []
  soft := []
  upsets := []
  corrected := []
  agenda := [⟨.ns scrubPeriod, 3, .patrolScrub⟩]
  stage := 0
  issueQ := []
  cur := none
  turn := .none
  opCount := 0
  uidCount := 0
  freeCount := 0

end Sys2Proof.Machine
end

