-- ==== Sys2Proof/Machine/Ops.lean ====
section
/-!
DEFINITION. The shared operations over the state: sparse tables, time and clocks, the place of a core (R102, R373),
registers, full/empty bits and flags (R28, R73, R74), byte memory, events, and stopping a group for a fault or trap
(R189 to R193) with the resume beside it (R194, R197).
-/
namespace Sys2Proof.Machine

/-! ### Sparse tables -/

/-- The value at a key, `d` where the key is not listed. -/
def mget {α : Type} (d : α) (k : Nat) : SMap α → α
  | [] => d
  | (j, y) :: r => if j = k then y else mget d k r

/-- Every entry but those of one key. -/
def mclr {α : Type} (k : Nat) (m : SMap α) : SMap α := m.filter (fun p => p.1 != k)

/-- Write one key; a value equal to `d` removes the entry, so that equal tables are equal lists. -/
def mset {α : Type} [DecidableEq α] (d : α) (k : Nat) (x : α) : SMap α → SMap α
  | [] => if x = d then [] else [(k, x)]
  | (j, y) :: r =>
    if k < j then (if x = d then mclr k ((j, y) :: r) else (k, x) :: (j, y) :: r)
    else if k = j then (if x = d then mclr k r else (k, x) :: r)
    else (j, y) :: mset d k x r

/-- The entry of a key, if listed. -/
def mfind {α : Type} (k : Nat) : SMap α → Option α
  | [] => none
  | (j, y) :: r => if j = k then some y else mfind k r

/-- Set the entry of a key. -/
def mput {α : Type} (k : Nat) (x : α) : SMap α → SMap α
  | [] => [(k, x)]
  | (j, y) :: r =>
    if k < j then (k, x) :: (j, y) :: r
    else if k = j then (k, x) :: r
    else (j, y) :: mput k x r

/-- Remove the entry of a key. -/
def mdel {α : Type} (k : Nat) (m : SMap α) : SMap α := m.filter (fun p => p.1 != k)

/-- Keys rising strictly, every key above `lo`. -/
def keysRise {α : Type} : Option Nat → SMap α → Bool
  | _, [] => true
  | lo, (j, _) :: r => (match lo with | none => true | some l => decide (l < j)) && keysRise (some j) r

/-- The canonical form of byte memory: addresses rising strictly and no entry equal to 0, which an unlisted address
reads as (R370 step 6 zeroes device memory). -/
def Memory.wf (m : SMap Byte) : Bool := keysRise none m && m.all (fun p => p.2 != 0)

/-- Set many keys. -/
def msetAll {α : Type} [DecidableEq α] (d : α) (xs : List (Nat × α)) (m : SMap α) : SMap α :=
  xs.foldl (fun acc p => mset d p.1 p.2 acc) m

/-- One byte of memory. -/
def readByte (m : SMap Byte) (a : Nat) : Byte := mget 0 a m

/-- Write one byte of memory. -/
def writeByte (m : SMap Byte) (a : Nat) (x : Byte) : SMap Byte := mset 0 a x m

/-- Write bytes given with their addresses, in order. -/
def writeBytes (m : SMap Byte) (bs : List (Nat × Byte)) : SMap Byte := bs.foldl (fun acc p => writeByte acc p.1 p.2) m

/-- `n` bytes from address `a`. -/
def readBytes (m : SMap Byte) (a n : Nat) : List Byte := (List.range n).map (fun i => readByte m (a + i))

/-- A little-endian number from bytes (R6). -/
def leNat : List Byte → Nat
  | [] => 0
  | b :: r => b.toNat + 256 * leNat r

/-- The `n` little-endian bytes of a number (R6). -/
def leBytes : Nat → Nat → List Byte
  | 0, _ => []
  | n + 1, x => BitVec.ofNat 8 x :: leBytes n (x / 256)

/-- Bytes with their addresses from `a` on. -/
def bytesAt (a : Nat) (bs : List Byte) : List (Nat × Byte) := (List.range bs.length).zipWith (fun i b => (a + i, b)) bs

/-- A little-endian number of `n` bytes at `a`. -/
def readNat (m : SMap Byte) (a n : Nat) : Nat := leNat (readBytes m a n)

/-- Bits `hi` down to `lo` of a number. -/
def bits (x hi lo : Nat) : Nat := x / 2 ^ lo % 2 ^ (hi + 1 - lo)

/-- Replace the first element that satisfies `p`. -/
def listUpd {α : Type} (p : α → Bool) (f : α → α) : List α → List α
  | [] => []
  | a :: r => if p a then f a :: r else a :: listUpd p f r

/-- Insertion in an order. -/
def insertBy {α : Type} (le : α → α → Bool) (x : α) : List α → List α
  | [] => [x]
  | y :: r => if le x y then x :: y :: r else y :: insertBy le x r

/-- A list in an order, equal elements as they stood. -/
def sortBy {α : Type} (le : α → α → Bool) (l : List α) : List α := l.foldr (insertBy le) []

/-! ### Time and clocks -/

/-- %time in whole ns (R7, R371). -/
def timeNs (s : State) : Nat := s.ns

/-- Number of clk fiftieths that a die runs in 0.4 ns at an operating point (R374). -/
def pointRate (p : Nat) : Nat :=
  match p with
  | 0 => 20
  | 1 => 25
  | 2 => 30
  | 3 => 35
  | 4 => 40
  | 5 => 44
  | 6 => 47
  | _ => 50

def dieAt (s : State) (d : Nat) : DieSt := s.dies.getD d DieSt.reset

def setDie (s : State) (d : Nat) (x : DieSt) : State := { s with dies := s.dies.set d x }

/-- The clk count of a die (R282). -/
def dieClk (s : State) (d : Nat) : Nat := (dieAt s d).clk

/-- The die of a physical core, numbered 54 × (3 × die + sector) + 6 × cluster + core (R372). -/
def coreDie (core : Nat) : Nat := core / 162

/-- The sector (3 × die + sector) of a physical core. -/
def coreSector (core : Nat) : Nat := core / 54

/-- The physical cluster of a core, numbered 9 × sector + cluster. -/
def coreCluster (core : Nat) : Nat := core / 6

/-- The sector of a physical arm, numbered 17 × sector + arm. -/
def armSector (arm : Nat) : Nat := arm / 17

/-- The die of a physical arm. -/
def armDie (arm : Nat) : Nat := arm / 51

/-- The current clk of a core. -/
def coreClk (s : State) (core : Nat) : Nat := dieClk s (coreDie core)

/-- The current clk of an arm. -/
def armClk (s : State) (arm : Nat) : Nat := dieClk s (armDie arm)

/-- Whether a moment has come. -/
def whenDue (s : State) : When → Bool
  | .clk d n => decide (n ≤ dieClk s d)
  | .ns n => decide (n ≤ timeNs s)

/-- Add an event to the agenda. -/
def addDue (s : State) (m : When) (rank : Nat) (e : Event) : State := { s with agenda := s.agenda ++ [⟨m, rank, e⟩] }

/-- An event `n` clk after the current clk of a core's die. -/
def afterClk (s : State) (die n : Nat) (rank : Nat) (e : Event) : State := addDue s (.clk die (dieClk s die + n)) rank e

/-- A new identifier for work in flight; identifiers rise in issue order. -/
def newId (s : State) : Nat × State := (s.opCount + 1, { s with opCount := s.opCount + 1 })

/-! ### Cores, arms, groups, teams -/

def coreAt (s : State) (c : Nat) : CoreSt := (mfind c s.cores).getD CoreSt.empty
def setCore (s : State) (c : Nat) (x : CoreSt) : State := { s with cores := mput c x s.cores }
def updCore (s : State) (c : Nat) (f : CoreSt → CoreSt) : State := setCore s c (f (coreAt s c))
def armAt (s : State) (a : Nat) : ArmSt := (mfind a s.arms).getD ArmSt.empty
def setArm (s : State) (a : Nat) (x : ArmSt) : State := { s with arms := mput a x s.arms }
def updArm (s : State) (a : Nat) (f : ArmSt → ArmSt) : State := setArm s a (f (armAt s a))
def matAt (s : State) (c : Nat) : MatrixSt := (coreAt s c).mat
def updMat (s : State) (c : Nat) (f : MatrixSt → MatrixSt) : State := updCore s c (fun x => { x with mat := f x.mat })
def partAt (s : State) (p : Nat) : PartSt := (mfind p s.parts).getD PartSt.reset
def updPart (s : State) (p : Nat) (f : PartSt → PartSt) : State := { s with parts := mput p (f (partAt s p)) s.parts }
def vdAt (s : State) (v : Nat) : VdSt := (mfind v s.vds).getD VdSt.reset
def updVd (s : State) (v : Nat) (f : VdSt → VdSt) : State := { s with vds := mput v (f (vdAt s v)) s.vds }
def feAt (s : State) (f : Nat) : FrontEnd := (mfind f s.fes).getD FrontEnd.reset
def updFe (s : State) (f : Nat) (g : FrontEnd → FrontEnd) : State := { s with fes := mput f (g (feAt s f)) s.fes }

def groupAt? (s : State) (u : Nat) : Option Group := s.groups.find? (fun g => g.uid == u)
/-- A group that stands on a core or in a save. -/
def anyGroup? (s : State) (u : Nat) : Option Group :=
  match groupAt? s u with
  | some g => some g
  | none => s.saves.findSome? (fun v => v.groups.find? (fun g => g.uid == u))
def updGroup (s : State) (u : Nat) (f : Group → Group) : State :=
  { s with groups := listUpd (fun g => g.uid == u) f s.groups }
/-- A team by its number; a team that a save holds is still known by its parameters. -/
def teamAt? (s : State) (t : Nat) : Option Team :=
  match s.teams.find? (fun x => x.id == t) with
  | some x => some x
  | none => s.saves.findSome? (fun v => v.teams.find? (fun x => x.id == t))
def updTeam (s : State) (t : Nat) (f : Team → Team) : State := { s with teams := listUpd (fun x => x.id == t) f s.teams }
def flightAt? (s : State) (o : Nat) : Option Flight := s.flights.find? (fun x => x.id == o)
def updFlight (s : State) (o : Nat) (f : Flight → Flight) : State :=
  { s with flights := listUpd (fun x => x.id == o) f s.flights }
def delFlight (s : State) (o : Nat) : State := { s with flights := s.flights.filter (fun x => x.id != o) }
def reqAt? (s : State) (r : Nat) : Option Req := s.reqs.find? (fun x => x.id == r)
def updReq (s : State) (r : Nat) (f : Req → Req) : State := { s with reqs := listUpd (fun x => x.id == r) f s.reqs }
def delReq (s : State) (r : Nat) : State := { s with reqs := s.reqs.filter (fun x => x.id != r) }
def cmdAt? (s : State) (c : Nat) : Option CopyCmd := s.cmds.find? (fun x => x.id == c)
def updCmd (s : State) (c : Nat) (f : CopyCmd → CopyCmd) : State :=
  { s with cmds := listUpd (fun x => x.id == c) f s.cmds }
def launchAt? (s : State) (l : Nat) : Option Launch := s.launches.find? (fun x => x.id == l)
def updLaunch (s : State) (l : Nat) (f : Launch → Launch) : State :=
  { s with launches := listUpd (fun x => x.id == l) f s.launches }

/-- The virtual device of a context (R338), if a valid descriptor names it. -/
def vdOfCtx? (s : State) (ctx : Nat) : Option Nat := (s.vds.find? (fun p => p.2.valid && p.2.ctx == ctx)).map (·.1)

/-- Context, partition and %team of a group. -/
def groupCtx (s : State) (g : Group) : Nat := ((teamAt? s g.team).map (·.ctx)).getD 0
def groupPart (s : State) (g : Group) : Nat := ((teamAt? s g.team).map (·.part)).getD 0
def groupTeamNum (s : State) (g : Group) : Nat := ((teamAt? s g.team).map (·.num)).getD 0
/-- The front end that launched a group's team (R342: bits 55:52 of the launch identifier). -/
def groupFe (s : State) (g : Group) : Nat := ((teamAt? s g.team).map (fun t => t.launch / 2 ^ 52)).getD 0

/-! ### Places (R20, R21, R102, R373) -/

/-- The units of a range without the disabled one, in ascending order (R373). -/
def enabledUnits (n dis : Nat) : List Nat := (List.range n).filter (fun i => i != dis)

/-- The default map's physical cluster and arm of a physical sector (R373). -/
def defaultCluster (s : State) (sector i : Nat) : Nat := (enabledUnits 9 (s.config.dcl.getD sector 8)).getD i 0
def defaultArm (s : State) (sector i : Nat) : Nat := (enabledUnits 17 (s.config.darm.getD sector 16)).getD i 0

/-- A place-table entry of a context: its physical unit where VALID (R102). -/
def placeEntry (s : State) (ctx idx : Nat) : Option Nat :=
  let e := mget 0 (ctx * 868 + idx) s.places
  if e.getLsbD 15 then some (e.toNat % 32) else none

def physDie (s : State) (ctx d : Nat) : Nat := (placeEntry s ctx d).getD d
def physCluster (s : State) (ctx d sc c : Nat) : Nat :=
  (placeEntry s ctx (4 + 24 * d + 8 * sc + c)).getD (defaultCluster s (3 * physDie s ctx d + sc) c)
def physCoreIn (s : State) (ctx d sc c k : Nat) : Nat :=
  (placeEntry s ctx (100 + 6 * (24 * d + 8 * sc + c) + k)).getD k
/-- The physical core of a logical one. -/
def physCore (s : State) (ctx d sc c k : Nat) : Nat :=
  54 * (3 * physDie s ctx d + sc) + 6 * physCluster s ctx d sc c + physCoreIn s ctx d sc c k
/-- The physical arm of a logical one. -/
def physArm (s : State) (ctx d sc a : Nat) : Nat :=
  let p := 3 * physDie s ctx d + sc
  17 * p + (placeEntry s ctx (676 + 16 * (3 * d + sc) + a)).getD (defaultArm s p a)

/-- The logical die of a physical die, for a context. -/
def logDie (s : State) (ctx pd : Nat) : Nat := ((List.range 4).find? (fun d => physDie s ctx d == pd)).getD pd
/-- The logical (die, sector, cluster, core) of a physical core, for a context. -/
def logCore (s : State) (ctx core : Nat) : Nat × Nat × Nat × Nat :=
  let d := logDie s ctx (coreDie core)
  let sc := coreSector core % 3
  let c := ((List.range 8).find? (fun c => physCluster s ctx d sc c == core / 6 % 9)).getD 0
  let k := ((List.range 6).find? (fun k => physCoreIn s ctx d sc c k == core % 6)).getD 0
  (d, sc, c, k)
/-- The logical (die, sector, arm) of a physical arm, for a context. -/
def logArm (s : State) (ctx arm : Nat) : Nat × Nat × Nat :=
  let d := logDie s ctx (armDie arm)
  let sc := armSector arm % 3
  (d, sc, ((List.range 16).find? (fun a => physArm s ctx d sc a == arm)).getD 0)

/-- `%place` of a group (R21). -/
def placeWord (s : State) (g : Group) : Word :=
  let (d, sc, c, k) := logCore s (groupCtx s g) g.core
  BitVec.ofNat 32 (d * 2 ^ 20 + sc * 2 ^ 18 + c * 2 ^ 15 + k * 2 ^ 12 + g.slot * 2 ^ 6)

/-- The capability word of a physical core (R222, R372). -/
def coreCap (s : State) (core : Nat) : Nat := s.config.cap.getD core 0

/-! ### The black box (R378) -/

/-- Append an event: events of one time of one boot stand in ascending SRC, 4,096 are kept, and a frozen ring takes none. -/
def boxAppend (s : State) (code src unit ctx data : Nat) : State :=
  if s.boxFrozen then s
  else
    let e : BoxEntry := ⟨timeNs s, s.boxSeq, code, src, unit, ctx, data⟩
    let old := s.box.length - (s.boxSeq - s.boxBoot).toNat
    let mine := s.box.drop old
    let stay := mine.filter (fun x => !(x.time == e.time && decide (src < x.src)))
    let after := mine.filter (fun x => x.time == e.time && decide (src < x.src))
    let all := s.box.take old ++ stay ++ ({ e with seq := e.seq - BitVec.ofNat 32 after.length } :: after.map (fun x => { x with seq := x.seq + 1 }))
    { s with box := all.drop (all.length - 4096), boxSeq := s.boxSeq + 1 }

/-! ### Registers, full/empty bits, flags -/

def vread (g : Group) (r lane : Nat) : Word := mget 0 (32 * r + lane) g.v
def sread (g : Group) (r : Nat) : DWord := mget 0 r g.s
def kread (g : Group) (r : Nat) : Word := mget 0 r g.k
/-- Write the bits of `mask` in one lane of a vector register. -/
def vwrite (g : Group) (r lane : Nat) (mask x : Word) : Group :=
  { g with v := mset 0 (32 * r + lane) ((vread g r lane &&& ~~~mask) ||| (x &&& mask)) g.v }
def swrite (g : Group) (r : Nat) (x : DWord) : Group := { g with s := mset 0 r x g.s }
def kwrite (g : Group) (r : Nat) (mask x : Word) : Group :=
  { g with k := mset 0 r ((kread g r &&& ~~~mask) ||| (x &&& mask)) g.k }

/-- Whether a register reads empty (R74). -/
def isEmptyReg (g : Group) (r : Reg) : Bool := g.owners.any (fun p => p.1 == r)
/-- Make an operation the owner of a register and mark it empty (R74). -/
def takeReg (op : Nat) (g : Group) (r : Reg) : Group :=
  { g with owners := g.owners.filter (fun p => p.1 != r) ++ [(r, op)] }
def ownsReg (g : Group) (r : Reg) (op : Nat) : Bool := g.owners.any (fun p => p.1 == r && p.2 == op)
/-- The owner's data are complete: the register becomes full (R74). -/
def fillReg (op : Nat) (g : Group) (r : Reg) : Group :=
  { g with owners := g.owners.filter (fun p => !(p.1 == r && p.2 == op)) }
/-- Every register an operation still owns becomes full. -/
def fillAll (op : Nat) (g : Group) : Group := { g with owners := g.owners.filter (fun p => p.2 != op) }

def flagBit (n : Nat) : BitVec 12 := BitVec.ofNat 12 (2 ^ n)
/-- Issue of an instruction that names flag `n`: the flag is cleared and owned (R28). -/
def takeFlag (n op : Nat) (g : Group) : Group :=
  { g with flags := g.flags &&& ~~~(flagBit n), flagOwner := mput n op g.flagOwner }
/-- Completion of the owner of flag `n` (R28). -/
def doneFlag (n op : Nat) (g : Group) : Group :=
  if mfind n g.flagOwner = some op then { g with flags := g.flags ||| flagBit n, flagOwner := mdel n g.flagOwner } else g
/-- The SETF field of an instruction: n names flag n − 1 (R62). -/
def doneSetf (setf op : Nat) (g : Group) : Group := if setf = 0 then g else doneFlag (setf - 1) op g

/-- Apply one fixed-latency write to its group (R73). -/
def applyWrite (g : Group) : WriteTo → Group
  | .v n lanes => lanes.foldl (fun g p => vwrite g n p.1 p.2.1 p.2.2) g
  | .s n x => swrite g n x
  | .k n m x => kwrite g n m x
  | .sp 0x49 x => { g with seed := x }
  | .sp 0x46 x => { g with mcap := x.toNat % 256 }
  | .sp 0x47 x => { g with mres := x.setWidth 32 }
  | .sp _ x => { g with rgn := x }
  | .seedStep => { g with seed := g.seed + 1 }
  | .flag n op => doneFlag n op g

/-- Put a fixed-latency write of latency `lat`, issued now, into the pending list: it is applied at the end of clk
t + L − 1 (R73). -/
def later (s : State) (core uid lat : Nat) (w : WriteTo) : State :=
  { s with pend := s.pend ++ [⟨coreClk s core + lat - 1, uid, w⟩] }

/-- Apply the pending writes of a die's groups that fall due by clk `n`, in issue order (R73). -/
def applyPend (s : State) (d n : Nat) : State :=
  let mine (p : PendWrite) : Bool :=
    match groupAt? s p.uid with
    | some g => coreDie g.core == d && decide (p.clk ≤ n)
    | none => true
  let now := s.pend.filter mine
  let s1 := now.foldl (fun st p => updGroup st p.uid (fun g => applyWrite g p.dst)) s
  { s1 with pend := s.pend.filter (fun p => !(mine p)) }

/-- Apply every pending write of one group at once (R76), in the order of their application clk, those of one clk in issue
order (R73). -/
def flushPend (s : State) (u : Nat) : State :=
  let now := sortBy (fun a b : PendWrite => decide (a.clk ≤ b.clk)) (s.pend.filter (fun p => p.uid == u))
  let s1 := now.foldl (fun st p => updGroup st p.uid (fun g => applyWrite g p.dst)) s
  { s1 with pend := s.pend.filter (fun p => p.uid != u) }

/-- An instruction in flight completes: its registers become full and its flag is set (R27, R28, R74). -/
def completeFlight (s : State) (f : Flight) : State :=
  let s1 := updGroup s f.uid (fun g =>
    let g1 := doneSetf f.setf f.id (fillAll f.id g)
    { g1 with busy := if g1.busy = some f.id then none else g1.busy, acq := g1.acq.filter (· != f.id) })
  delFlight s1 f.id

/-- Write one lane of a destination register if its owner still matches (R74) and the lane has not exited (R117). -/
def ownWrite (g : Group) (op r lane : Nat) (x : Word) : Group :=
  if ownsReg g ⟨.v, r⟩ op && g.alive.getLsbD lane then vwrite g r lane 0xFFFFFFFF x else g

/-- Write a scalar destination if its owner still matches (R74). -/
def ownWriteS (g : Group) (op r : Nat) (x : DWord) : Group := if ownsReg g ⟨.s, r⟩ op then swrite g r x else g

/-- Lanes of a mask, ascending. -/
def lanesOf (m : Word) : List Nat := (List.range 32).filter (fun l => m.getLsbD l)

/-- The mask of a list of lanes. -/
def maskOf (ls : List Nat) : Word := ls.foldl (fun m l => m ||| BitVec.ofNat 32 (2 ^ l)) 0

/-! ### Stopping a group, and resuming it -/

/-- The kind of a fault code (R189): 0 precise, 1 region, 2 trap. -/
def faultKind (code : Nat) : Nat :=
  if code == 0x14 || code == 0x15 then 2
  else if [0x08, 0x09, 0x0A, 0x28, 0x58, 0x59, 0x5B, 0x5C, 0x5D, 0x62, 0x63].contains code then 1
  else 0

/-- Lowest named lane; 32 where none is named. -/
def lowLane (m : Word) : Nat := (lanesOf m).headD 32

/-- Order of entries in a record (R191): age of the split, then lowest named lane, then issue order. -/
def entryBefore (a b : TrapEntry) : Bool :=
  if a.stamp != b.stamp then decide (a.stamp < b.stamp)
  else if lowLane a.lanes != lowLane b.lanes then decide (lowLane a.lanes < lowLane b.lanes)
  else decide (a.order ≤ b.order)

/-- Insert an entry in the order of R191. -/
def insertEntry (e : TrapEntry) : List TrapEntry → List TrapEntry
  | [] => [e]
  | x :: r => if entryBefore x e then x :: insertEntry e r else e :: x :: r

/-- `%rgn` as the latest `rgn` that issued leaves it, its write done or not (R140). -/
def regionOf (s : State) (g : Group) : DWord :=
  s.pend.foldl (fun x p => match p.dst with
    | .sp 0x44 y => if p.uid = g.uid then y else x
    | _ => x) g.rgn

/-- Whether a group's launch has been ended (R194 action 3, R208): the group stops no more. -/
def groupKilled (s : State) (g : Group) : Bool :=
  match (teamAt? s g.team).bind (fun t => launchAt? s t.launch) with
  | none => false
  | some l => l.status != 0

/-- A member that stops registers nothing at its rendezvous latch (R230). -/
def dropArrival (s : State) (u core : Nat) : State :=
  match (matAt s core).arrival with
  | none => s
  | some a => if a.uid = u then updMat s core (fun m => { m with arrival := none }) else s

/-- Take an exception (R189 to R192): in the clk in which a group raises its first fault or trap it stops, and every
fault or trap found for it in that clk becomes an entry of one record, at most eight; what is found later adds nothing
(R191). The record keeps %time, %place, %rgn and NR as they stand at the stop; NR is 1 where another non-repeatable instruction
has issued than those whose own faults the record holds (R196). The record of a group that a save has halted is saved too
(R199). -/
def raiseFault (s : State) (u : Nat) (e : TrapEntry) : State :=
  match groupAt? s u with
  | none => s
  | some g =>
    match g.stop with
    | none =>
      let rec_ : TrapRec := ⟨coreClk s g.core, timeNs s, placeWord s g, ((regionOf s g).toNat / 2 ^ 32),
        (regionOf s g).toNat % 2 ^ 19, [e], false, g.nr || !g.nrMay.isEmpty, g.halted, false⟩
      if groupKilled s g then s else updGroup (dropArrival s u g.core) u (fun g => { g with stop := some rec_ })
    | some r =>
      if r.clk = coreClk s g.core && !r.delivered then
        let es := insertEntry e r.entries
        updGroup s u (fun g => { g with stop := some { r with
          entries := es.take 8, ovf := r.ovf || decide (es.length > 8), nr := g.nr || !g.nrMay.isEmpty } })
      else s

/-- The fault entry of an instruction at its split. -/
def mkEntry (code detail : Nat) (lanes : Word) (addr pc place stamp order resume : Nat) : TrapEntry :=
  ⟨addr, lanes, detail, pc, place, code, stamp, faultKind code, resume, order⟩

/-- A region fault found for an instruction in flight (R190, R198): its destinations and flag are released and its
group stops. -/
def flightFault (s : State) (f : Flight) (code detail : Nat) (lanes : Word) (addr : Nat) : State :=
  let cur := match groupAt? s f.uid with
    | some g => ((g.splits.find? (fun (x : Split) => x.mask &&& f.sel != 0)).map (fun (x : Split) => (x.place, x.stamp))).getD
        (f.place, f.stamp)
    | none => (f.place, f.stamp)
  raiseFault s f.uid (mkEntry code detail lanes addr f.pc cur.1 cur.2 f.id f.pc)

/-- The kind of the primary exception of a record. -/
def recKind (r : TrapRec) : Nat := (r.entries.head?.map (·.kind)).getD 0

/-- A stopped group goes on with its state as stopped: the distance of its next instruction counts as elapsed and its
last-issue time is the clk of the resume (R76, R194). -/
def resumeGroup (s : State) (u : Nat) : State :=
  match groupAt? s u with
  | none => s
  | some g => updGroup s u (fun g => { g with stop := none, resumed := true, lastIssue := coreClk s g.core })

/-- A slot's next generation (R201). -/
def nextGen (s : State) (core slot : Nat) : Nat := mget 0 slot (coreAt s core).gens + 1
def noteGen (s : State) (core slot gen : Nat) : State := updCore s core (fun c => { c with gens := mset 0 slot (gen % 2 ^ 16) c.gens })

/-- The generation of a group's slot advances (R201). -/
def bumpGen (g : Group) : Group := { g with gen := g.gen + 1 }

/-- Action 1, re-run (R197): one split at RGNPC with every lane that has not exited; work of the region that has not
completed, a fault's own instruction among it, ceases to own its registers, which read full, and its flags are set; work
issued before the region, copy commands among it, goes on under the new generation (R197 before R201: DEDUCED, log 15), which
the slot keeps. -/
def rerunGroup (s : State) (u : Nat) : State :=
  match groupAt? s u with
  | none => s
  | some g =>
    let mine := s.flights.filter (fun f => f.uid == u && f.region == g.rgn.toNat / 2 ^ 32)
    let s1 := mine.foldl (fun st f => updGroup st u (fun g => doneSetf f.setf f.id (fillAll f.id g))) s
    let live (o : Nat) : Bool :=
      s.flights.any (fun f => f.id == o && !(mine.any (fun x => x.id == o))) || s.cmds.any (fun x => x.id == o)
    let s2 := updGroup s1 u (fun g =>
      let g0 := (g.flagOwner.filter (fun p => !(live p.2))).foldl (fun g p => doneFlag p.1 p.2 g) g
      let g1 := bumpGen g0
      { g1 with splits := [⟨0, g.rgn.toNat % 2 ^ 19, g.alive, 0, [], false, 0, none⟩], stamps := 1, lastPlace := 3,
                busy := none, acq := g.acq.filter (fun o => !(mine.any (fun f => f.id == o))), sync := none })
    let s3 := { s2 with flights := s2.flights.map (fun f =>
      if f.uid == u && !(mine.any (fun x => x.id == f.id)) then { f with gen := g.gen + 1 } else f) }
    resumeGroup (noteGen s3 g.core g.slot (g.gen.toNat + 1)) u

end Sys2Proof.Machine
end

