-- ==== Sys2Proof/Machine/Num.lean ====
section
/-!
DEFINITION. Arithmetic of 03_numbers.md: formats (R34, R35), exact values, rounding (R48 to R51), IEEE operations (R38),
integers (R39), E8M0 (R40), grouped INT4 (R41), the codebook (R42), chunk sums (R52, R53) and trees (R55).
-/
namespace Sys2Proof.Machine

/-- A floating-point format (R34): width, exponent bits, fraction bits, bias, whether it has infinities, and the encoding
of its largest finite magnitude (R35). -/
structure Fmt where
  w : Nat
  eb : Nat
  m : Nat
  bias : Nat
  inf : Bool
  top : Nat
  nan : Nat

def fmtF32 : Fmt := ⟨32, 8, 23, 127, true, 0x7F7FFFFF, 0x7FC00000⟩
def fmtBf16 : Fmt := ⟨16, 8, 7, 127, true, 0x7F7F, 0x7FC0⟩
def fmtF16 : Fmt := ⟨16, 5, 10, 15, true, 0x7BFF, 0x7E00⟩
def fmtE4m3 : Fmt := ⟨8, 4, 3, 7, false, 0x7E, 0x7F⟩
def fmtE5m2 : Fmt := ⟨8, 5, 2, 15, true, 0x7B, 0x7E⟩
def fmtE2m1 : Fmt := ⟨4, 2, 1, 1, false, 7, 0⟩

/-- The format of a floating-point type code (R68). -/
def fmtOf (t : Nat) : Fmt :=
  match t with
  | 12 => fmtF16
  | 13 => fmtBf16
  | 14 => fmtE4m3
  | 15 => fmtE5m2
  | 16 => fmtE2m1
  | _ => fmtF32

/-- An exact value: NaN, an infinity, or (−1)^neg × m × 2^e; `sticky` says that the magnitude lies strictly between
m × 2^e and (m + 1) × 2^e. -/
inductive Xr where
  | nan
  | inf (neg : Bool)
  | fin (neg : Bool) (m : Nat) (e : Int) (sticky : Bool)
  deriving DecidableEq, Repr

/-- The exact value of an encoding (R34, R35). -/
def decodeF (f : Fmt) (x : Nat) : Xr :=
  let neg := x / 2 ^ (f.w - 1) % 2 == 1
  let ef := x / 2 ^ f.m % 2 ^ f.eb
  let fr := x % 2 ^ f.m
  if f.inf && ef == 2 ^ f.eb - 1 then (if fr == 0 then .inf neg else .nan)
  else if !f.inf && f.w == 8 && ef == 15 && fr == 7 then .nan
  else if ef == 0 then .fin neg fr (1 - (f.bias : Int) - f.m) false
  else .fin neg (2 ^ f.m + fr) ((ef : Int) - f.bias - f.m) false

/-- A power of two with an integer exponent, where it is not negative. -/
def pow2 (e : Int) : Nat := 2 ^ e.toNat

/-- Round a magnitude m × 2^e to a multiple of 2^q under a mode (R48, R50); `rand` is the draw of R49. -/
def roundAt (rm : Nat) (neg : Bool) (m : Nat) (e : Int) (sticky : Bool) (q : Int) (rand : Nat) : Nat :=
  if q ≤ e then m * pow2 (e - q)
  else
    let sh := (q - e).toNat
    let n := m / 2 ^ sh
    let r := m % 2 ^ sh
    let half := 2 ^ (sh - 1)
    let inexact := r != 0 || sticky
    let up :=
      match rm with
      | 0 => decide (r > half) || (r == half && (sticky || n % 2 == 1))
      | 1 => false
      | 2 => neg && inexact
      | 3 => !neg && inexact
      | _ => inexact && decide (r * 2 ^ 32 / 2 ^ sh > rand)
    if up then n + 1 else n

/-- The sign bit of a format. -/
def signBit (f : Fmt) (neg : Bool) : Nat := if neg then 2 ^ (f.w - 1) else 0

/-- What a too large finite result becomes (R51). Under `.rsr` it is an infinity whichever
neighbour is taken: R50 says so of the one away from zero only (DESIGN CHOICE, log 78). -/
def overflowF (f : Fmt) (rm : Nat) (sat neg : Bool) : Nat :=
  if f.w == 4 then signBit f neg + f.top
  else if sat then signBit f neg + f.top
  else if !f.inf then f.nan
  else
    let toInf := match rm with
      | 1 => false
      | 2 => neg
      | 3 => !neg
      | _ => true
    signBit f neg + (if toInf then (2 ^ f.eb - 1) * 2 ^ f.m else f.top)

/-- Round an exact value into a format (R48 to R51), as an encoding. -/
def roundF (f : Fmt) (rm : Nat) (sat : Bool) (rand : Nat) : Xr → Nat
  | .nan => f.nan
  | .inf neg =>
    if f.w == 4 || sat then signBit f neg + f.top
    else if !f.inf then f.nan
    else signBit f neg + (2 ^ f.eb - 1) * 2 ^ f.m
  | .fin neg m e sticky =>
    if m == 0 && !sticky then signBit f neg
    else
      let big : Int := if m == 0 then e else e + Nat.log2 m
      let emin : Int := 1 - (f.bias : Int)
      let q := (if big < emin then emin else big) - f.m
      let n := roundAt rm neg m e sticky q rand
      let (n1, q1) := if n == 2 ^ (f.m + 1) then (2 ^ f.m, q + 1) else (n, q)
      let enc : Nat :=
        if n1 < 2 ^ f.m then n1
        else (q1 + f.m + f.bias).toNat * 2 ^ f.m + (n1 - 2 ^ f.m)
      if enc > f.top then overflowF f rm sat neg else signBit f neg + enc

/-- Exact value scaled by 2^k. -/
def xscale (k : Int) : Xr → Xr
  | .fin n m e st => .fin n m (e + k) st
  | x => x

def xneg : Xr → Xr
  | .nan => .nan
  | .inf n => .inf (!n)
  | .fin n m e st => .fin (!n) m e st

/-- The signed integer m × 2^(e − lo) of a finite value, for lo ≤ e. -/
def xint (neg : Bool) (m : Nat) (e lo : Int) : Int :=
  let v : Int := m * pow2 (e - lo)
  if neg then -v else v

def ofInt (z : Int) (e : Int) : Xr := .fin (decide (z < 0)) z.natAbs e false

/-- Exact product; an infinity times a zero is NaN. -/
def xmul : Xr → Xr → Xr
  | .nan, _ => .nan
  | _, .nan => .nan
  | .inf a, .inf b => .inf (a != b)
  | .inf a, .fin b m _ _ => if m == 0 then .nan else .inf (a != b)
  | .fin a m _ _, .inf b => if m == 0 then .nan else .inf (a != b)
  | .fin a m e _, .fin b n g _ => .fin (a != b) (m * n) (e + g) false

/-- Exact sum; a zero sum of operands of opposite signs is +0, except under RDN (R38). -/
def xadd (rm : Nat) : Xr → Xr → Xr
  | .nan, _ => .nan
  | _, .nan => .nan
  | .inf a, .inf b => if a == b then .inf a else .nan
  | .inf a, _ => .inf a
  | _, .inf b => .inf b
  | .fin a m e _, .fin b n g _ =>
    let lo := min e g
    let z := xint a m e lo + xint b n g lo
    if z = 0 then .fin (if a == b then a else rm == 2) 0 0 false else ofInt z lo

/-- Compare finite or infinite values: −1, 0 or 1; zeros are equal. -/
def xcmp : Xr → Xr → Int
  | .inf a, .inf b => if a == b then 0 else if a then -1 else 1
  | .inf a, _ => if a then -1 else 1
  | _, .inf b => if b then 1 else -1
  | .fin a m e _, .fin b n g _ =>
    let lo := min e g
    let x := xint a m e lo
    let y := xint b n g lo
    if x < y then -1 else if x = y then 0 else 1
  | _, _ => 0

def isNan : Xr → Bool
  | .nan => true
  | _ => false

/-- Integer square root by bits: the largest r with r² ≤ x, for x < 2^(2 × fuel). -/
def isqrt : Nat → Nat → Nat
  | 0, _ => 0
  | f + 1, x =>
    let r := 2 * isqrt f (x / 4)
    if (r + 1) * (r + 1) ≤ x then r + 1 else r

/-- Exact quotient, as 70 or more leading bits with a sticky remainder. -/
def xdiv : Xr → Xr → Xr
  | .nan, _ => .nan
  | _, .nan => .nan
  | .inf _, .inf _ => .nan
  | .inf a, .fin b _ _ _ => .inf (a != b)
  | .fin a _ _ _, .inf b => .fin (a != b) 0 0 false
  | .fin a m e _, .fin b n g _ =>
    if n == 0 then (if m == 0 then .nan else .inf (a != b))
    else if m == 0 then .fin (a != b) 0 0 false
    else
      let k := 72 + Nat.log2 n
      let num := m * 2 ^ k
      .fin (a != b) (num / n) (e - g - k) (num % n != 0)

/-- Exact square root, as 70 or more leading bits with a sticky remainder. -/
def xsqrt : Xr → Xr
  | .nan => .nan
  | .inf neg => if neg then .nan else .inf false
  | .fin neg m e _ =>
    if m == 0 then .fin neg 0 0 false
    else if neg then .nan
    else
      let k : Nat := 160 + (if (e % 2) == 0 then 0 else 1)
      let x := m * 2 ^ k
      let r := isqrt (Nat.log2 x / 2 + 2) x
      .fin false r ((e - k) / 2) (r * r != x)

/-- 1/√x by the same means. -/
def xrsqrt : Xr → Xr
  | .nan => .nan
  | .inf neg => if neg then .nan else .fin false 0 0 false
  | .fin neg m e _ =>
    if m == 0 then .inf neg
    else if neg then .nan
    else
      let k : Nat := 240 + (if (e % 2) == 0 then 0 else 1)
      let x := 2 ^ k / m
      let r := isqrt (Nat.log2 x / 2 + 2) x
      .fin false r (-((e + k) / 2)) (r * r * m != 2 ^ k)

/-! ### FP32 operations on encodings -/

def d32 (x : Word) : Xr := decodeF fmtF32 x.toNat
def e32 (x : Xr) : Word := BitVec.ofNat 32 (roundF fmtF32 0 false 0 x)

/-- `round_rne_f32` and `add_rne_f32` of R52. -/
def addF32 (x y : Word) : Word := e32 (xadd 0 (d32 x) (d32 y))
def mulF32 (x y : Word) : Word := e32 (xmul (d32 x) (d32 y))
def subF32 (x y : Word) : Word := e32 (xadd 0 (d32 x) (xneg (d32 y)))

/-- IEEE `minimum` and `maximum` on exact values: NaN if either is, and −0 below +0 (R38). -/
def xmin (a b : Xr) : Xr :=
  if isNan a || isNan b then .nan
  else
    let c := xcmp a b
    if c < 0 then a else if c > 0 then b
    else match a with
      | .fin true 0 _ _ => a
      | _ => b
def xmax (a b : Xr) : Xr :=
  if isNan a || isNan b then .nan
  else
    let c := xcmp a b
    if c > 0 then a else if c < 0 then b
    else match a with
      | .fin true 0 _ _ => b
      | _ => a
def maxF32 (x y : Word) : Word := e32 (xmax (d32 x) (d32 y))
def minF32 (x y : Word) : Word := e32 (xmin (d32 x) (d32 y))

/-- The reduction tree of R55: pad to a power of two with `id`, then combine neighbours level by level. -/
def pairUp {α : Type} (op : α → α → α) : List α → List α
  | a :: b :: r => op a b :: pairUp op r
  | l => l

def treeFold {α : Type} (op : α → α → α) (id : α) : Nat → List α → α
  | 0, l => l.headD id
  | f + 1, l => treeFold op id f (pairUp op l)

/-- The least k with 2^k ≥ n. -/
def ceilLog2 (n : Nat) : Nat := if n ≤ 1 then 0 else Nat.log2 (n - 1) + 1

def tree {α : Type} (op : α → α → α) (id : α) (xs : List α) : α :=
  let k := ceilLog2 xs.length
  treeFold op id k (xs ++ List.replicate (2 ^ k - xs.length) id)

/-! ### Integers (R39) -/

/-- The value of the low N bits of x, signed or unsigned. -/
def intOf (signed : Bool) (n x : Nat) : Int :=
  let u := x % 2 ^ n
  if signed && u ≥ 2 ^ (n - 1) && n > 0 then (u : Int) - 2 ^ n else u

/-- Reduce modulo 2^N. -/
def wrapN (n : Nat) (z : Int) : Nat := (z % (2 ^ n : Int)).toNat

/-- Clamp to the range of a type (R39). -/
def clampN (signed : Bool) (n : Nat) (z : Int) : Int :=
  let lo : Int := if signed then -(2 ^ (n - 1)) else 0
  let hi : Int := if signed then 2 ^ (n - 1) - 1 else 2 ^ n - 1
  if z < lo then lo else if z > hi then hi else z

/-- Convert an exact value to an integer type: round, then saturate; NaN gives 0 (R39). -/
def toIntTy (signed : Bool) (n rm rand : Nat) : Xr → Nat
  | .nan => 0
  | .inf neg => wrapN n (clampN signed n (if neg then -(2 ^ 80) else 2 ^ 80))
  | .fin neg m e st =>
    let r := roundAt rm neg m e st 0 rand
    wrapN n (clampN signed n (if neg then -(r : Int) else r))

/-- The exact value of an element of type t (R68). -/
def elemValue (t x : Nat) : Xr :=
  if tyInt t then ofInt (intOf (tySigned t) (tyWidth t) x) 0 else decodeF (fmtOf t) (x % 2 ^ tyWidth t)

/-- `convert` of R151: an exact value into type t. -/
def convertTo (t rm : Nat) (sat : Bool) (rand : Nat) (x : Xr) : Nat :=
  if tyInt t then toIntTy (tySigned t) (tyWidth t) rm rand x else roundF (fmtOf t) rm sat rand x

/-- The draw of R49 for lane l and element e. -/
def drawRand (seed : DWord) (l e : Nat) : Nat :=
  let z0 : DWord := (seed * 256 + BitVec.ofNat 64 (8 * l + e + 1)) * 0x9E3779B97F4A7C15
  let z1 := (z0 ^^^ (z0 >>> 30)) * 0xBF58476D1CE4E5B9
  let z2 := (z1 ^^^ (z1 >>> 27)) * 0x94D049BB133111EB
  let z3 := z2 ^^^ (z2 >>> 31)
  z3.toNat / 2 ^ 32

/-! ### Matrix operand elements and sums (R40 to R42, R52, R53) -/

/-- An E8M0 scale (R40); none for the NaN scale. -/
def e8m0 (b : Nat) : Option Int := if b % 256 == 255 then none else some ((b % 256 : Nat) - 127 : Int)

/-- An element under an E8M0 scale: a NaN scale makes every element NaN. -/
def scaledBy (sc : Option Int) (x : Xr) : Xr :=
  match sc with
  | none => .nan
  | some k => xscale k x

/-- A grouped INT4 weight (R41): (q − z) × g rounded to BF16; NaN where g is NaN or ±Inf with q = z. -/
def int4Weight (q z g : Nat) : Xr :=
  decodeF fmtBf16 (roundF fmtBf16 0 false 0 (xmul (ofInt ((q : Int) - z) 0) (decodeF fmtBf16 g)))

/-- Element j of a codebook index under a scale byte (R42). -/
def cbElem (row : Word) (idx j scale : Nat) : Xr :=
  let mag := row.toNat / 2 ^ (4 * j) % 16
  let odd := ((List.range 7).map (fun i => idx / 2 ^ i % 2)).sum % 2 == 1
  let neg := if j < 7 then idx / 2 ^ j % 2 == 1 else odd
  scaledBy (e8m0 scale) (.fin neg mag (-2) false)

/-- `chunk_result` of R53 on exact products. -/
def chunkResult (ps : List Xr) : Word :=
  let pinf := ps.any (fun p => p == .inf false)
  let ninf := ps.any (fun p => p == .inf true)
  if ps.any isNan || (pinf && ninf) then 0x7FC00000
  else if pinf then 0x7F800000
  else if ninf then 0xFF800000
  else
    let lo : Int := ps.foldl (fun a p => match p with | .fin _ m e _ => if m == 0 then a else min a e | _ => a) 0
    let z : Int := ps.foldl (fun a p => match p with | .fin n m e _ => if m == 0 then a else a + xint n m e lo | _ => a) 0
    if z = 0 then 0 else e32 (ofInt z lo)

/-- Split a list into chunks of c elements, with fuel for the number of chunks. -/
def chunksOf {α : Type} (c : Nat) : Nat → List α → List (List α)
  | 0, _ => []
  | f + 1, l => if l.isEmpty then [] else l.take c :: chunksOf c f (l.drop c)

/-- The matrix sum of R52: chunks of c products in ascending k, each rounded once and added into the accumulator. -/
def matrixSum (c : Nat) (acc : Word) (ps : List Xr) : Word :=
  (chunksOf c ps.length ps).foldl (fun a ch => addF32 a (chunkResult ch)) acc

end Sys2Proof.Machine
end

