-- ==== Sys2Proof/Machine/Operands.lean ====
section
/-!
DEFINITION. Source operands (R67, R68, R108, R142): special registers, scalar and vector sources of every kind, the
registers an instruction reads and writes, and lane elements (R33).
-/
namespace Sys2Proof.Machine

/-- What an issuing instruction sees: its group and split as they stood, its word under R61, its selected lanes (R63),
its address and the next one, and its number in issue order. -/
structure Ctx where
  g : Group
  sp : Split
  op : Op
  f : ExtWord
  sel : Word
  pc : Nat
  next : Nat
  id : Nat
  clk : Nat
  free : DWord
  rgn : DWord
  deriving DecidableEq, Repr

/-- The gang register as a word (R229). -/
def gangWord (g : Gang) : Word :=
  BitVec.ofNat 32 (g.size * 2 ^ 27 + g.grm1 * 2 ^ 26 + g.gcm1 * 2 ^ 24 + g.row * 2 ^ 23 + g.col * 2 ^ 21 +
    g.mask * 2 ^ 15 + g.seq)

/-- A special register by its kind-1 code (R67), for a source that has no lane; `%lane` without a lane and the `%group`
of a callee slot have no stated value and read as a free value (log 16). -/
def specialReg (s : State) (c : Ctx) (code : Nat) : DWord :=
  match code with
  | 0x40 => c.free
  | 0x41 => if c.g.callee then c.free else BitVec.ofNat 64 c.g.num
  | 0x42 => BitVec.ofNat 64 (groupTeamNum s c.g)
  | 0x43 => BitVec.ofNat 64 (timeNs s)
  | 0x44 => c.g.rgn
  | 0x45 => if (matAt s c.g.core).member = some c.g.uid then (gangWord (matAt s c.g.core).gang).setWidth 64 else 0
  | 0x46 => BitVec.ofNat 64 c.g.mcap
  | 0x47 => c.g.mres.setWidth 64
  | 0x48 => (placeWord s c.g).setWidth 64
  | _ => c.g.seed

/-- A kind-1 source: s0 to s63 or a special register (R67). -/
def kind1 (s : State) (c : Ctx) (code : Nat) : DWord := if code < 64 then sread c.g code else specialReg s c code

/-- Field and kind of operand i (1 A, 2 B, 3 C). -/
def fieldOf (f : ExtWord) (i : Nat) : BitVec 8 :=
  match i with
  | 0 => f.d
  | 1 => f.sa
  | 2 => f.sb
  | _ => f.sc
def kindOf (f : ExtWord) (i : Nat) : Nat :=
  match i with
  | 0 => 0
  | 1 => f.ka.toNat
  | 2 => f.kb.toNat
  | _ => f.kc.toNat

def litOf (f : ExtWord) : DWord := f.lit.getD 0

/-- A scalar operand in 64 bits: a register, a special register, an immediate or literal sign-extended (R67, R68). -/
def srcS (s : State) (c : Ctx) (i : Nat) : DWord :=
  match kindOf c.f i with
  | 0 => sread c.g (fieldOf c.f i).toNat
  | 1 => kind1 s c (fieldOf c.f i).toNat
  | 2 => (fieldOf c.f i).signExtend 64
  | _ => litOf c.f

/-- The N-bit value that an immediate or literal gives a source of type t (R68). -/
def constBits (t : Nat) (imm : Bool) (x : DWord) : Nat :=
  if imm && (t == 11 || t == 12 || t == 13) then roundF (fmtOf t) 0 false 0 (ofInt x.toInt 0)
  else x.toNat % 2 ^ (if tyWidth t = 0 then 64 else tyWidth t)

/-- The same N-bit value in every element of a 32-bit lane (R142). -/
def replicateElems (t v : Nat) : Nat :=
  let w := tyWidth t
  if w = 64 || w = 0 then v else ((List.range (32 / w)).map (fun e => v % 2 ^ w * 2 ^ (w * e))).sum

/-- A vector source of type t in lane l, as 32 or 64 bits (R33, R67, R68, R142). -/
def srcV (s : State) (c : Ctx) (t i l : Nat) : Nat :=
  let r := (fieldOf c.f i).toNat
  match kindOf c.f i with
  | 0 =>
    if tyWidth t = 64 then (vread c.g r l).toNat + 2 ^ 32 * (vread c.g (r + 1) l).toNat else (vread c.g r l).toNat
  | 1 =>
    let x := if r == 0x40 then l else (kind1 s c r).toNat
    replicateElems t (x % 2 ^ tyWidth t)
  | 2 => replicateElems t (constBits t true ((fieldOf c.f i).signExtend 64))
  | _ => replicateElems t (constBits t false (litOf c.f))

/-- Element e of a lane value of a type of width w (R33). -/
def elemAt (w x e : Nat) : Nat := x / 2 ^ (w * e) % 2 ^ w

/-- Join element values of width w into a lane value. -/
def joinElems (w : Nat) (es : List Nat) : Nat :=
  ((List.range es.length).zipWith (fun i v => v % 2 ^ w * 2 ^ (w * i)) es).sum

/-- The registers of a source field: its class registers at kind 0, the scalar register of a kind-1 code. -/
def srcRegs (o : Op) (f : ExtWord) (i : Nat) (sl : Slot) : List Reg :=
  let n := (fieldOf f i).toNat
  match sl with
  | .src cl _ =>
    if kindOf f i = 0 then
      (if cl == .v || cl == .s || cl == .k then (List.range (max 1 (regCount o f i))).map (fun j => ⟨cl, n + j⟩) else [])
    else if kindOf f i = 1 && n < 64 then [⟨.s, n⟩]
    else []
  | .upd cl =>
    if cl == .v || cl == .s || cl == .k then (List.range (max 1 (regCount o f i))).map (fun j => ⟨cl, n + j⟩) else []
  | _ => []

/-- The destination registers of a variable-latency instruction (R74). -/
def destRegs (o : Op) (f : ExtWord) : List Reg :=
  let m := opForm o f
  let reg (i : Nat) (cl : RegClass) : List Reg :=
    if cl == .v || cl == .s || cl == .k then
      (List.range (max 1 (regCount o f i))).map (fun j => ⟨cl, (fieldOf f i).toNat + j⟩)
    else []
  let d := match m.d with
    | .dst cl => reg 0 cl
    | .upd cl => if o = .vacas then reg 0 cl else []
    | _ => []
  let cc := match m.c with
    | .dst cl => reg 3 cl
    | _ => []
  d ++ cc

/-- Every vector register a word names (R70, cause 6). -/
def vregsNamed (o : Op) (f : ExtWord) : List Nat :=
  let m := opForm o f
  let one (i : Nat) (sl : Slot) : List Nat :=
    match slotClass sl (BitVec.ofNat 2 (kindOf f i)) with
    | some .v => (List.range (max 1 (regCount o f i))).map (fun j => (fieldOf f i).toNat + j)
    | _ => []
  one 0 m.d ++ one 1 m.a ++ one 2 m.b ++ one 3 m.c

/-- Every ring a word names (R70, cause 6). -/
def ringsNamed (o : Op) (f : ExtWord) : List Nat :=
  let m := opForm o f
  let one (i : Nat) (sl : Slot) : List Nat :=
    match slotClass sl (BitVec.ofNat 2 (kindOf f i)) with
    | some .q => [(fieldOf f i).toNat]
    | _ => []
  one 0 m.d ++ one 1 m.a

end Sys2Proof.Machine
end

