-- ==== Sys2Proof/Machine/Flags.lean ====
section
/-!
DEFINITION. Comparisons (R69, R124, R146) and the selected set (R63). The Greub keeps no arithmetic status flags (R37);
completion flags are in Ops.
-/
namespace Sys2Proof.Machine

/-- A comparison of R69 on a three-way order, with NaN told apart: every comparison with a NaN is false but `.ne` and
`.nan`. -/
def cmpHolds (cc : Nat) (ord : Int) (nan : Bool) : Bool :=
  match cc with
  | 0 => !nan && ord == 0
  | 1 => nan || ord != 0
  | 2 => !nan && decide (ord < 0)
  | 3 => !nan && decide (ord ≤ 0)
  | 4 => !nan && decide (ord > 0)
  | 5 => !nan && decide (ord ≥ 0)
  | 6 => !nan
  | _ => nan

def intOrd (a b : Int) : Int := if a < b then -1 else if a = b then 0 else 1

/-- Comparison of two elements of type t. -/
def cmpElem (cc t a b : Nat) : Bool :=
  if tyInt t then cmpHolds cc (intOrd (intOf (tySigned t) (tyWidth t) a) (intOf (tySigned t) (tyWidth t) b)) false
  else
    let x := elemValue t a
    let y := elemValue t b
    cmpHolds cc (xcmp x y) (isNan x || isNan y)

/-- The selected lanes of R63: the active lanes of the issuing split, under the predicate. -/
def selected (g : Group) (sp : Split) (f : ExtWord) : Word :=
  if f.pe then (if f.pn then sp.mask &&& ~~~(kread g f.pk.toNat) else sp.mask &&& kread g f.pk.toNat) else sp.mask

end Sys2Proof.Machine
end

