-- ==== Sys2Proof/Machine/Issue.lean ====
section
/-!
DEFINITION. How an instruction issues (R63, R64, R72 to R76, R79, R80, R98, R104): issue classes, units and roles, the
order of the checks, the bookkeeping of an issue, and the exchange and merging of arms and splits after it (R96, R97).
Every instruction meaning is this skeleton with the instruction's own effect.
-/
namespace Sys2Proof.Machine

/-- Issue classes of R80. -/
inductive IssueClass where
  | v | m | x | s
  deriving DecidableEq, Repr

/-- Units that serve class-V instructions (R144). -/
inductive ExecUnit where
  | none | arith | sfu | lane | spad | global
  deriving DecidableEq, Repr

/-- Opcode ranges of the engines (R77). -/
def isMatrixOp (o : Op) : Bool := decide (0x0C0 ≤ opCode o) && decide (opCode o ≤ 0x0D5)
def isCopyOp (o : Op) : Bool := decide (0x0E0 ≤ opCode o) && decide (opCode o ≤ 0x0EB)
def isSpiralOp (o : Op) : Bool := decide (0x0F0 ≤ opCode o) && decide (opCode o ≤ 0x0F5)
def isPromiseOp (o : Op) : Bool := decide (0x0F8 ≤ opCode o) && decide (opCode o ≤ 0x0FD)
def isLinkOp (o : Op) : Bool := decide (0x100 ≤ opCode o) && decide (opCode o ≤ 0x105)
/-- The opcodes of the vector chapter (R142). -/
def isVectorOp (o : Op) : Bool :=
  let n := opCode o
  (decide (0x020 ≤ n) && decide (n ≤ 0x05E)) || (decide (0x066 ≤ n) && decide (n ≤ 0x06C)) ||
  (decide (0x091 ≤ n) && decide (n ≤ 0x0A9))

def issueClass (o : Op) : IssueClass :=
  if isMatrixOp o then .m else if isCopyOp o then .x else if isVectorOp o && o != .scvt then .v else .s

/-- The unit that serves an opcode and, where it is fixed, its occupancy (R144). -/
def unitOf (o : Op) : ExecUnit × Nat :=
  match o with
  | .vrcp | .vrsqrt | .vexp2 | .vlog2 | .vexp | .vlog | .vsin | .vcos | .vtanh | .vsigm => (.sfu, 1)
  | .vdiv | .vsqrt => (.sfu, 2)
  | .vshfl | .vbcast | .vrot | .vbfly | .vballot | .vext | .vins | .vred => (.lane, 1)
  | .vscan => (.lane, 2)
  | .vlds | .vldsw | .vldk | .vsts | .vstsw | .vstk => (.spad, 0)
  | .vld | .vst | .vldw | .vstw | .vldb | .vldnf | .vprf | .vaadd | .vamin | .vamax | .vaand | .vaor | .vaxor | .vaxch
  | .vacas | .vradd | .vrmin | .vrmax | .vrbit => (.global, 0)
  | .fence => (.global, 1)
  | _ => if issueClass o == .v then (.arith, 1) else (.none, 0)

/-- Instructions a role may issue (R23). -/
def roleAllows (r : Role) (o : Op) : Bool :=
  if isMatrixOp o then r == .matrix
  else if isCopyOp o then r == .copy
  else if isSpiralOp o || isLinkOp o then r == .vector || r == .copy
  else if isPromiseOp o || isVectorOp o || o == .callv || o == .migrate then r == .vector
  else true

/-- Instructions that access global memory, which an outstanding acquire holds (R165, R313). -/
def accessesGlobal (o : Op) : Bool :=
  (unitOf o).1 == .global || isPromiseOp o || isLinkOp o ||
  match o with
  | .xcopy | .xcopy2 | .xcopy3 | .xgath | .xscat | .xslot | .xfill | .xprf | .xred => true
  | _ => false

/-- The non-repeatable instructions of R196 other than the Seed class. -/
def nonRepeatable (o : Op) : Bool :=
  isCopyOp o || isLinkOp o ||
  match o with
  | .vaadd | .vamin | .vamax | .vaand | .vaor | .vaxor | .vaxch | .vacas | .vradd | .vrmin | .vrmax | .vrbit
  | .barArrive | .barSync | .barDrop | .barAdd | .qpush | .qpushn | .qpop | .qpopn
  | .launch | .callv | .migrate | .exit | .mark | .evt | .pfill | .peq | .pmake => true
  | _ => false

/-- Non-repeatable instructions that leave NR as it was if they raise a fault of their own after issue (R196). -/
def nrUndone (o : Op) : Bool :=
  match o with
  | .vaadd | .vamin | .vamax | .vaand | .vaor | .vaxor | .vaxch | .vacas | .vradd | .vrmin | .vrmax | .vrbit
  | .pmake | .pfill | .peq | .lput | .lget | .lallred | .lallgat | .lredsc | .lbcast | .launch | .migrate => true
  | _ => false

/-- Whether a word rounds under `.rsr` (R49). -/
def roundsRsr (o : Op) (f : ExtWord) : Bool := f.rm == 4 && rmAllowed o f

/-- What an instruction's own effect answers: not issuable now (and, for a chosen push or pop that does not fit, that the
ring serves no later request of its kind in this clk, R134), a precise fault, an arrival at the rendezvous latch (R230), or
the state after it. -/
inductive Verdict where
  | hold
  | block (team q : Nat) (push : Bool)
  | raise (code detail : Nat) (lanes : Word) (addr : Nat)
  | arrive (a : Arrival)
  | act (s : State)
  deriving Repr

/-- Whether the instruction is not issuable now for a reason of its own. -/
def Verdict.holds : Verdict → Bool
  | .hold | .block _ _ _ => true
  | _ => false

/-! ### Splits and arms (R95 to R97, R116) -/

/-- Merge an arm into a list of arms: arms of equal counter become one (R97). -/
def addArm (a : DefArm) : List DefArm → List DefArm
  | [] => [a]
  | b :: r => if b.pc = a.pc then ⟨b.pc, b.mask ||| a.mask, max a.earliest b.earliest⟩ :: r else b :: addArm a r

/-- The arm with the lowest counter. -/
def lowestArm : List DefArm → Option DefArm
  | [] => none
  | a :: r => match lowestArm r with
    | none => some a
    | some b => if b.pc < a.pc then some b else some a

/-- The arm with the highest counter. -/
def highestArm : List DefArm → Option DefArm
  | [] => none
  | a :: r => match highestArm r with
    | none => some a
    | some b => if a.pc < b.pc then some b else some a

def removeArm (a : DefArm) (l : List DefArm) : List DefArm := l.filter (fun b => b.pc != a.pc)

/-- Arms of one split merge where their counters are equal, an arm whose lanes are gone vanishes, and the arm with the
lowest counter runs unless `split` suspended that check (R96, R97, R116). -/
def normSplit (sp : Split) : Option Split :=
  let arms := (sp.arms.filter (fun a => a.mask != 0)).foldl (fun l a => addArm a l) []
  if sp.mask = 0 then
    match lowestArm arms with
    | none => none
    | some a => some { sp with pc := a.pc, mask := a.mask, earliest := a.earliest, arms := removeArm a arms, susp := false }
  else
    match arms.find? (fun a => a.pc == sp.pc) with
    | some a => some { sp with mask := sp.mask ||| a.mask, earliest := max sp.earliest a.earliest,
                               arms := removeArm a arms, susp := false }
    | none =>
      match lowestArm arms with
      | some a =>
        if a.pc < sp.pc && !sp.susp then
          some { sp with pc := a.pc, mask := a.mask, earliest := a.earliest,
                         arms := addArm ⟨sp.pc, sp.mask, sp.earliest⟩ (removeArm a arms) }
        else some { sp with arms := arms }
      | none => some { sp with arms := arms }

/-- Merge a split into those in lower places: equal counters of running arms merge into the lower place, with the arms
of both and the older stamp (R97, R191). A split whose lanes are out in a `callv` merges when they have returned. -/
def mergeInto (sp : Split) : List Split → List Split
  | [] => [sp]
  | a :: r =>
    if a.pc = sp.pc && a.calling.isNone && sp.calling.isNone then
      { a with mask := a.mask ||| sp.mask, stamp := min a.stamp sp.stamp, arms := sp.arms.foldl (fun l x => addArm x l) a.arms,
               susp := false, earliest := max a.earliest sp.earliest } :: r
    else a :: mergeInto sp r

/-- Splits of a group by ascending place. -/
def sortSplits (l : List Split) : List Split :=
  ((List.range 4).map (fun p => l.filter (fun sp => sp.place == p))).flatten

/-- Every split exchanges its arms, then splits of equal counters merge. -/
def mergeRound (l : List Split) : List Split :=
  ((sortSplits l).filterMap normSplit).foldl (fun acc sp => mergeInto sp acc) []

/-- Exchange and merge until the splits of a group are as R96 and R97 leave them: a round that merges none changes nothing
more, and at most five splits can merge four times. -/
def normSplits (l : List Split) : List Split :=
  (mergeRound (mergeRound (mergeRound (mergeRound (mergeRound l))))).filterMap normSplit

/-- The lowest free split place, if one is free. -/
def freePlace (l : List Split) : Option Nat := (List.range 4).find? (fun p => !(l.any (fun sp => sp.place == p)))

def updSplit (g : Group) (place : Nat) (f : Split → Split) : Group :=
  { g with splits := g.splits.map (fun sp => if sp.place = place then f sp else sp) }

def splitAt? (g : Group) (place : Nat) : Option Split := g.splits.find? (fun sp => sp.place == place)

/-! ### Barrier state a group's issue depends on -/

def barBits (g : Group) (key : Nat) : BarBits := mget ⟨false, false, false⟩ (key % 16) g.bars
def setBarBits (g : Group) (key : Nat) (b : BarBits) : Group := { g with bars := mset ⟨false, false, false⟩ (key % 16) b g.bars }

/-- The teams of one instance of the level `lev` outside the team: the product of the EXTENTs of the team level and the
levels inside that one (R84, R85). -/
def levelTeams (levels : List Level) (lev : Nat) : Nat :=
  let core := (levels.findIdx? (fun l => l.domain == 2)).getD 0
  ((levels.take (core + lev)).drop core).foldl (fun a l => a * l.extent) 1

/-- PHASE of a barrier as a group's waits see it: the team barrier at level 0, else the instance's outer barrier. -/
def barPhase (s : State) (g : Group) (key : Nat) : Bool :=
  match teamAt? s g.team with
  | none => false
  | some t =>
    if key < 16 then (mget ⟨false, 0, 0, 0, 0, 0⟩ key t.bars).phase
    else
      match launchAt? s t.launch with
      | none => false
      | some l =>
        let inst := t.num / levelTeams l.record.levels (key / 16)
        ((s.outer.find? (fun b => b.launch == t.launch && b.inst == inst && b.key == key)).map (·.phase)).getD false

/-- R129: a `bar.wait` is issuable when ARV = 1 and PHASE ≠ APH. -/
def barOpen (s : State) (g : Group) (key : Nat) : Bool :=
  let b := barBits g key
  b.arv && (barPhase s g key != b.aph)

/-! ### The skeleton -/

/-- The wait mask of a word: WAIT, or the kernel's table entry of WSEL with entry 0 empty (R71). A group that has migrated to a cluster
whose code store does not hold its kernel finds no table there: every entry is empty, and its instructions are fetched from what that
store holds (DESIGN CHOICE, log 93). -/
def waitMask (s : State) (g : Group) (fl : Fields) : BitVec 12 :=
  match fl.wsel with
  | none => fl.e.wait
  | some w =>
    if w = 0 then 0
    else
      match teamAt? s g.team with
      | none => 0
      | some t =>
        let cs := (mfind (coreCluster g.core) s.codes).getD CodeStore.empty
        let code := ((launchAt? s t.launch).map (·.record.code)).getD 0
        match cs.images.find? (fun i => i.code == code) with
        | none => 0
        | some i => (i.waits.getD w.toNat 0).setWidth 12

/-- The clk until which a core's unit is held (R80). -/
def unitUntil (c : CoreSt) (u : ExecUnit) : Nat :=
  match u with
  | .sfu => c.sfuUntil
  | .lane => c.laneUntil
  | .spad => c.spadUntil
  | .global => c.globalUntil
  | _ => 0

/-- Hold a unit for `n` clk from the clk of issue (R80). -/
def holdUnit (s : State) (core : Nat) (u : ExecUnit) (n : Nat) : State :=
  let t := coreClk s core + n
  match u with
  | .sfu => updCore s core (fun c => { c with sfuUntil := t })
  | .lane => updCore s core (fun c => { c with laneUntil := t })
  | .spad => updCore s core (fun c => { c with spadUntil := t })
  | .global => updCore s core (fun c => { c with globalUntil := t })
  | _ => s

/-- The ring of a group's team. -/
def ringOf? (s : State) (team q : Nat) : Option Ring :=
  match teamAt? s team with
  | none => none
  | some t => mfind q t.rings

/-- Change one listed entry of a table. -/
def madj {α : Type} (k : Nat) (f : α → α) (m : SMap α) : SMap α :=
  match mfind k m with
  | none => m
  | some x => mput k (f x) m

def updRing (s : State) (team q : Nat) (f : Ring → Ring) : State :=
  updTeam s team (fun t => { t with rings := madj q f t.rings })

/-- No later group request of a kind is served on a ring in this clk (R134). -/
def blockRing (s : State) (team q : Nat) (push : Bool) : State :=
  updRing s team q (fun r => if push then { r with pushShut := true } else { r with popShut := true })

/-- The ring an instruction pushes to or pops from, with whether it pushes (R134 to R136). -/
def ringUse (o : Op) (f : ExtWord) : Option (Nat × Bool) :=
  match o with
  | .qpush | .qpushn | .xhand => some (f.d.toNat, true)
  | .qpop | .qpopn | .qpeek => some (f.sa.toNat, false)
  | _ => none

/-- Whether a group's role may use the ring an instruction names (R26, R136); `qlen` is for either role. -/
def ringRoleOk (s : State) (g : Group) (o : Op) (f : ExtWord) : Bool :=
  match ringUse o f with
  | some (q, push) =>
    match ringOf? s g.team q with
    | none => true
    | some r => g.role == (if push then r.pushr else r.popr)
  | none =>
    if o = .qlen then
      match ringOf? s g.team f.sa.toNat with
      | none => true
      | some r => g.role == r.pushr || g.role == r.popr
    else true

/-- Cause 6 of R79: a vector register at or above the budget, or an undeclared ring. -/
def cause6 (s : State) (g : Group) (o : Op) (f : ExtWord) : Bool :=
  match teamAt? s g.team with
  | none => false
  | some t =>
    (vregsNamed o f).any (fun r => decide (r ≥ t.vregs)) ||
    (ringsNamed o f).any (fun q => ((mfind q t.rings).isNone) || g.moved)

/-- Whether a group offers nothing for a reason of its own: a pause, a sleep, work that holds the whole group, or a
code-store load on its cluster (R118, R119, R169, R252, R348), or work that its restore sends again first and that is not sent yet (R200). -/
def groupWaits (s : State) (g : Group) : Bool :=
  s.flights.any (fun f => g.replays.contains f.id && !f.sent) ||
  decide (coreClk s g.core ≤ g.yieldUntil && g.yieldUntil != 0) || g.sleep.isSome || g.busy.isSome ||
  ((mfind (coreCluster g.core) s.codes).getD CodeStore.empty).loading.isSome

/-- The bookkeeping of an issue: the split moves to the next instruction, the group's last issue and counts, the flag
of SETF is cleared and owned (R28), a pending `bar.sync` is matched (R129), NR is set (R196), and an `.rsr` instruction steps
%seed at the end of the clk, behind the writes of earlier instructions (R49, R73). -/
def beginIssue (s : State) (c : Ctx) : State :=
  let s1 := updGroup s c.g.uid (fun g =>
    let g1 := updSplit g c.sp.place (fun sp => { sp with pc := c.next })
    let g2 := { g1 with lastIssue := c.clk, lastPlace := c.sp.place, issued := g1.issued + 1, resumed := false }
    let g3 := match g2.sync with
      | none => g2
      | some key => { setBarBits g2 key { barBits g2 key with arv := false } with sync := none }
    let g4 := if c.f.setf = 0 then g3 else takeFlag (c.f.setf.toNat - 1) c.id g3
    { g4 with nr := g4.nr || roundsRsr c.op c.f || (nonRepeatable c.op && !(nrUndone c.op) && c.sel != 0),
              nrMay := if nrUndone c.op && c.sel != 0 then g4.nrMay ++ [c.id] else g4.nrMay })
  { s1 with
    opCount := c.id
    freeCount := s1.freeCount + 1
    pend := s1.pend ++ (if roundsRsr c.op c.f then [⟨c.clk, c.g.uid, .seedStep⟩] else []) }

/-- The flag of an instruction of fixed latency is set at the end of clk t + L − 1 (R28, R73). -/
def finishAt (s : State) (c : Ctx) (lat : Nat) : State :=
  if c.f.setf = 0 then s else later s c.g.core c.g.uid lat (.flag (c.f.setf.toNat - 1) c.id)

/-- A write of fixed latency with the flag's completion (R73). -/
def writeAt (s : State) (c : Ctx) (lat : Nat) (w : WriteTo) : State :=
  finishAt (later s c.g.core c.g.uid lat w) c lat

/-- After an issue: arms exchange and merge (R96, R97), and the unit with a fixed occupancy is held (R80). -/
def afterIssue (s : State) (c : Ctx) : State :=
  let (u, n) := unitOf c.op
  let s1 := if c.sel != 0 && n != 0 then holdUnit s c.g.core u n else s
  { updGroup s1 c.g.uid (fun g => { g with splits := normSplits g.splits }) with turn := .issued }

/-- Raise a precise fault at an instruction that does not issue (R81, R189). -/
def raiseAt (s : State) (c : Ctx) (code detail : Nat) (lanes : Word) (addr : Nat) : State :=
  { raiseFault s c.g.uid (mkEntry code detail lanes addr c.pc c.sp.place c.sp.stamp c.id c.pc) with turn := .trapped }

/-- What an instruction sees when group `g` tries to issue it from split `sp`. -/
def mkCtx (s : State) (g : Group) (sp : Split) (o : Op) (w : Word3) (f : ExtWord) : Ctx where
  g := g
  sp := sp
  op := o
  f := f
  sel := selected g sp f
  pc := sp.pc
  next := sp.pc + (match w with | .base _ => 4 | .lit _ _ => 12 | .ext e => if e.lit.isSome then 20 else 12)
  id := s.opCount + 1
  clk := coreClk s g.core
  free := Config.freeValue s.freeCount
  rgn := regionOf s g

/-- Whether the instruction still waits for its turn: the group stopped, halted or waiting, the arm's redirect, the
distance, the flags, or the predicate register (R72, R98, R110, R129). -/
def notReady (s : State) (c : Ctx) (fl : Fields) : Bool :=
  groupWaits s c.g || (match c.g.sync with | some key => !(barOpen s c.g key) | none => false) ||
  (!c.g.resumed && decide (c.clk < c.g.lastIssue + 1 + c.f.dist.toNat)) ||
  decide (waitMask s c.g fl &&& ~~~c.g.flags ≠ 0) ||
  (c.f.pe && isEmptyReg c.g ⟨.k, c.f.pk.toNat⟩)

/-- Whether the words of the next instruction have been delivered (R79, R110): the clk after the previous issue, and not
before the redirect of a transferred arm. -/
def delivered (c : Ctx) : Bool :=
  c.g.stop.isNone && !c.g.halted && c.sp.calling.isNone && decide (c.g.lastIssue < c.clk) && decide (c.sp.earliest ≤ c.clk)

/-- Registers a word reads with the trap mode (R13, R75), and those that block. -/
def trapRegs (o : Op) (f : ExtWord) : List Reg :=
  let m := opForm o f
  (if f.tra then srcRegs o f 1 m.a else []) ++ (if f.trb then srcRegs o f 2 m.b else []) ++
  (if f.trc then srcRegs o f 3 m.c else [])
def blockRegs (o : Op) (f : ExtWord) : List Reg :=
  let m := opForm o f
  srcRegs o f 0 m.d ++ (if f.tra then [] else srcRegs o f 1 m.a) ++ (if f.trb then [] else srcRegs o f 2 m.b) ++
  (if f.trc then [] else srcRegs o f 3 m.c)

/-- One attempt of group `g` to issue a word from split `sp`: the checks of R79, R72, R23 and R75 in their order, the
acquire of R165, the unit of R104, then the instruction's own effect. A word that cannot issue changes nothing but `turn`,
which keeps apart the word that waits for its unit alone: R98 still offers it. -/
def attempt (o : Op) (w : Word3) (own : Ctx → State → Verdict) (s : State) (g : Group) (sp : Split) : State :=
  let fl := fieldsOf o w
  let c := mkCtx s g sp o w fl.e
  if !(delivered c) then { s with turn := .held }
  else
    match illegalCause o w with
    | some k => raiseAt s c 0x01 k c.sel 0
    | none =>
      if cause6 s g o fl.e then raiseAt s c 0x01 6 c.sel 0
      else if notReady s c fl then { s with turn := .held }
      else if c.sel = 0 then afterIssue (finishAt (beginIssue s c) c 1) c
      else if !(roleAllows g.role o && ringRoleOk s g o fl.e) then raiseAt s c 0x02 0 c.sel 0
      else if (trapRegs o fl.e).any (isEmptyReg g) then raiseAt s c 0x03 0 c.sel 0
      else if (blockRegs o fl.e).any (isEmptyReg g) then { s with turn := .held }
      else if accessesGlobal o && !g.acq.isEmpty then { s with turn := .held }
      else if c.clk < unitUntil (coreAt s g.core) (unitOf o).1 then
        { s with turn := if (own c (beginIssue s c)).holds then .held else .unitHeld }
      else
        match own c (beginIssue s c) with
        | .hold => { s with turn := .held }
        | .block team q push => { blockRing s team q push with turn := .held }
        | .raise code detail lanes addr => raiseAt s c code detail lanes addr
        | .arrive a => { updMat s g.core (fun m => { m with arrival := some a }) with turn := .arrived }
        | .act s1 => afterIssue s1 c

/-- The skeleton of every instruction meaning: the attempt of the group and split that `cur` names. -/
def issue (o : Op) (w : Word3) (own : Ctx → State → Verdict) (s : State) : Host.Outcome State Fault Refusal :=
  match s.cur with
  | none => .fault .noIssuingGroup
  | some (u, pl) =>
    match groupAt? s u with
    | none => .fault .noIssuingGroup
    | some g =>
      match splitAt? g pl with
      | none => .fault .noIssuingGroup
      | some sp => .next (attempt o w own s g sp)

end Sys2Proof.Machine
end

