-- ==== Sys2Proof/Machine/Control.lean ====
section
/-!
DEFINITION. Branches, calls, splits, exit, pauses and per-lane calls (R108 to R121), with the steps that belong to them:
promotion, the ends of pauses, callee queues (R97 to R100).
-/
namespace Sys2Proof.Machine

/-- `nop`: nothing but completion at issue (R108). -/
def ownNop (c : Ctx) (s : State) : Verdict := .act (finishAt s c 1)

def execNop (f : BaseWord) (s : State) : Host.Outcome State Fault Refusal := issue .nop (.base f) ownNop s
def execNopExt (f : XWord) (s : State) : Host.Outcome State Fault Refusal := issue .nop f.toWord3 ownNop s

/-- The target of a direct branch (R109). -/
def branchTarget (c : Ctx) : Nat :=
  let t12 : BitVec 12 := c.f.sa.setWidth 6 ++ c.f.sb.setWidth 6
  let tgt : Int := t12.toInt + 4096 * c.f.sc.toInt
  (((c.pc : Int) + 4 * tgt) % 524288).toNat

/-- Send the lanes `t` of the issuing split to `x`, the others staying at `rest` (R95, R96, R113): all lanes of the split
continue at x; otherwise a new split in the lowest free place, or a deferred arm where four splits are held. -/
def sendLanes (c : Ctx) (t : Word) (x rest : Nat) (g : Group) : Group :=
  let early := c.clk + 3
  let back (sp : Split) : Split := if x ≤ c.pc then { sp with susp := false } else sp
  match splitAt? g c.sp.place with
  | none => g
  | some sp =>
    if t = sp.mask then updSplit g sp.place (fun sp => back { sp with pc := x, earliest := early })
    else
      let left (sp : Split) : Split := { sp with mask := sp.mask &&& ~~~t, pc := rest }
      match freePlace g.splits with
      | some p =>
        let g1 := updSplit g sp.place (fun sp => back (left sp))
        { g1 with splits := g1.splits ++ [⟨p, x, t, g.stamps + 1, [], false, early, none⟩], stamps := g.stamps + 1 }
      | none => updSplit g sp.place (fun sp => back { left sp with arms := addArm ⟨x, t, early⟩ sp.arms })

/-- `transfer(T, x)` of R113. -/
def transfer (s : State) (c : Ctx) (t : Word) (x : Nat) : State :=
  updGroup s c.g.uid (sendLanes c t x c.next)

/-- `peel(T, x)` of R114: the lanes left behind stay at the instruction. -/
def peel (s : State) (c : Ctx) (t : Word) (x : Nat) : State :=
  updGroup s c.g.uid (sendLanes c t x c.pc)

/-- A direct branch under a condition (R111). -/
def branchIf (cond : DWord → Bool) (c : Ctx) (s : State) : State :=
  finishAt (if cond (sread c.g c.f.d.toNat) then transfer s c c.sel (branchTarget c) else s) c 1

def ownBranch (cond : DWord → Bool) (c : Ctx) (s : State) : Verdict := .act (branchIf cond c s)

def ownBr : Ctx → State → Verdict := ownBranch (fun _ => true)
def ownBrZ : Ctx → State → Verdict := ownBranch (fun x => x == 0)
def ownBrNz : Ctx → State → Verdict := ownBranch (fun x => x != 0)
def ownBrLz : Ctx → State → Verdict := ownBranch (fun x => x.getLsbD 63)
def ownBrGez : Ctx → State → Verdict := ownBranch (fun x => !(x.getLsbD 63))

def execBr (f : BaseWord) (s : State) : Host.Outcome State Fault Refusal := issue .br (.base f) ownBr s
def execBrExt (f : XWord) (s : State) : Host.Outcome State Fault Refusal := issue .br f.toWord3 ownBr s
def execBrZ (f : BaseWord) (s : State) : Host.Outcome State Fault Refusal := issue .brZ (.base f) ownBrZ s
def execBrZExt (f : XWord) (s : State) : Host.Outcome State Fault Refusal := issue .brZ f.toWord3 ownBrZ s
def execBrNz (f : BaseWord) (s : State) : Host.Outcome State Fault Refusal := issue .brNz (.base f) ownBrNz s
def execBrNzExt (f : XWord) (s : State) : Host.Outcome State Fault Refusal := issue .brNz f.toWord3 ownBrNz s
def execBrLz (f : BaseWord) (s : State) : Host.Outcome State Fault Refusal := issue .brLz (.base f) ownBrLz s
def execBrLzExt (f : XWord) (s : State) : Host.Outcome State Fault Refusal := issue .brLz f.toWord3 ownBrLz s
def execBrGez (f : BaseWord) (s : State) : Host.Outcome State Fault Refusal := issue .brGez (.base f) ownBrGez s
def execBrGezExt (f : XWord) (s : State) : Host.Outcome State Fault Refusal := issue .brGez f.toWord3 ownBrGez s

/-- `br.any` and `br.all` move every active lane of the split (R112). -/
def branchMask (all : Bool) (c : Ctx) (s : State) : State :=
  let hits := c.sel &&& kread c.g c.f.d.toNat
  finishAt (if (if all then hits == c.sel else hits != 0) then transfer s c c.sp.mask (branchTarget c) else s) c 1

def ownBrMask (all : Bool) (c : Ctx) (s : State) : Verdict := .act (branchMask all c s)

def execBrAny (f : ExtWord) (s : State) : Host.Outcome State Fault Refusal := issue .brAny (.ext f) (ownBrMask false) s
def execBrAll (f : ExtWord) (s : State) : Host.Outcome State Fault Refusal := issue .brAll (.ext f) (ownBrMask true) s

/-- The code address that a register value names: bits 18:2 times 4 (R114). -/
def codeAddr (x : Nat) : Nat := x % 2 ^ 19 / 4 * 4

/-- The lanes and target that one issue of an indirect transfer serves (R114). A kind-1 source gives all lanes one target; `%lane`, which
has a value for each lane (R67), is served lane by lane as a vector source is (DESIGN CHOICE, log 16). -/
def indirect (s : State) (c : Ctx) : Word × Nat :=
  if kindOf c.f 1 = 1 && c.f.sa.toNat != 0x40 then (c.sel, codeAddr (kind1 s c c.f.sa.toNat).toNat)
  else
    let tgt (l : Nat) : Nat := codeAddr (srcV s c tyN32 1 l)
    match lanesOf c.sel with
    | [] => (0, 0)
    | l :: _ => (maskOf ((lanesOf c.sel).filter (fun k => tgt k == tgt l)), tgt l)

/-- `brx` and `ret` (R114, R115). Each issue, for one target each, sets the flag that SETF names (DESIGN CHOICE, log 81). -/
def branchIndirect (c : Ctx) (s : State) : State :=
  let (t, x) := indirect s c
  finishAt (if t = c.sel then transfer s c t x else peel s c t x) c 1

def ownIndirect (c : Ctx) (s : State) : Verdict := .act (branchIndirect c s)

def execBrx (f : BaseWord) (s : State) : Host.Outcome State Fault Refusal := issue .brx (.base f) ownIndirect s
def execBrxExt (f : XWord) (s : State) : Host.Outcome State Fault Refusal := issue .brx f.toWord3 ownIndirect s
def execRet (f : BaseWord) (s : State) : Host.Outcome State Fault Refusal := issue .ret (.base f) ownIndirect s
def execRetExt (f : XWord) (s : State) : Host.Outcome State Fault Refusal := issue .ret f.toWord3 ownIndirect s

/-- Lane entries that write a whole 32-bit lane. -/
def wholeLanes (ls : List Nat) (x : Nat → Word) : List (Nat × Word × Word) := ls.map (fun l => (l, 0xFFFFFFFF, x l))

/-- `call`: the link of every selected lane, then the transfer (R115). -/
def callDirect (c : Ctx) (s : State) : State :=
  let s1 := writeAt s c 2 (.v c.f.d.toNat (wholeLanes (lanesOf c.sel) (fun _ => BitVec.ofNat 32 c.next)))
  transfer s1 c c.sel (branchTarget c)

def ownCall (c : Ctx) (s : State) : Verdict := .act (callDirect c s)

/-- `callx`: the link of the lanes that this issue sends (R115). -/
def callIndirect (c : Ctx) (s : State) : State :=
  let (t, x) := indirect s c
  let s1 := writeAt s c 2 (.v c.f.d.toNat (wholeLanes (lanesOf t) (fun _ => BitVec.ofNat 32 c.next)))
  if t = c.sel then transfer s1 c t x else peel s1 c t x

def ownCallx (c : Ctx) (s : State) : Verdict := .act (callIndirect c s)

def execCall (f : BaseWord) (s : State) : Host.Outcome State Fault Refusal := issue .call (.base f) ownCall s
def execCallExt (f : XWord) (s : State) : Host.Outcome State Fault Refusal := issue .call f.toWord3 ownCall s
def execCallx (f : BaseWord) (s : State) : Host.Outcome State Fault Refusal := issue .callx (.base f) ownCallx s
def execCallxExt (f : XWord) (s : State) : Host.Outcome State Fault Refusal := issue .callx f.toWord3 ownCallx s

/-- Remove lanes from a group for good (R97, R117). -/
def dropLanes (t : Word) (g : Group) : Group :=
  { g with alive := g.alive &&& ~~~t,
           splits := normSplits (g.splits.map (fun sp =>
             { sp with mask := sp.mask &&& ~~~t, arms := sp.arms.map (fun a => { a with mask := a.mask &&& ~~~t }) })) }

/-- `exit` (R117); in a callee slot the callee fault with detail 2 (R121). -/
def exitLanes (c : Ctx) (s : State) : State := finishAt (updGroup s c.g.uid (dropLanes c.sel)) c 1

def ownExit (c : Ctx) (s : State) : Verdict :=
  if c.g.callee then .raise 0x13 2 c.sel 0 else .act (exitLanes c s)

def execExit (f : BaseWord) (s : State) : Host.Outcome State Fault Refusal := issue .exit (.base f) ownExit s
def execExitExt (f : XWord) (s : State) : Host.Outcome State Fault Refusal := issue .exit f.toWord3 ownExit s

/-- `yield`: no offer for the 8 clk after this one (R118). -/
def yieldNow (c : Ctx) (s : State) : State :=
  let s1 := updGroup s c.g.uid (fun g => { g with yieldUntil := c.clk + 8 })
  finishAt (afterClk s1 (coreDie c.g.core) 9 0 (.yieldEnd c.g.uid)) c 1

def ownYield (c : Ctx) (s : State) : Verdict := .act (yieldNow c s)

def execYield (f : BaseWord) (s : State) : Host.Outcome State Fault Refusal := issue .yield (.base f) ownYield s
def execYieldExt (f : XWord) (s : State) : Host.Outcome State Fault Refusal := issue .yield f.toWord3 ownYield s

/-- The pause of a `yield` ends (R118). -/
def execYieldEnd (g : Nat) (s : State) : Host.Outcome State Fault Refusal :=
  .next (match groupAt? s g with
    | none => s
    | some x => if x.yieldUntil < coreClk s x.core then updGroup s g (fun x => { x with yieldUntil := 0 }) else s)

/-- `split` (R116): the running arm is deferred and the deferred arm with the highest counter runs, the exchange check
suspended; without deferred arms nothing. -/
def deferArm (sp : Split) : Split :=
  match highestArm sp.arms with
  | none => sp
  | some a => { sp with pc := a.pc, mask := a.mask, earliest := a.earliest, susp := true,
                        arms := addArm ⟨sp.pc, sp.mask, sp.earliest⟩ (removeArm a sp.arms) }

def splitNow (c : Ctx) (s : State) : State :=
  finishAt (updGroup s c.g.uid (fun g => updSplit g c.sp.place deferArm)) c 1

def ownSplit (c : Ctx) (s : State) : Verdict := .act (splitNow c s)

def execSplit (f : BaseWord) (s : State) : Host.Outcome State Fault Refusal := issue .split (.base f) ownSplit s
def execSplitExt (f : XWord) (s : State) : Host.Outcome State Fault Refusal := issue .split f.toWord3 ownSplit s

/-- Promotion at the start of a clk (R97): from the split in the lowest place that holds deferred arms, its arm with the
highest counter, into the lowest free place. -/
def promote (g : Group) : Group :=
  match freePlace g.splits, (sortSplits g.splits).find? (fun sp => !sp.arms.isEmpty) with
  | some p, some sp =>
    match highestArm sp.arms with
    | none => g
    | some a =>
      let g1 := updSplit g sp.place (fun sp => { sp with arms := removeArm a sp.arms })
      { g1 with splits := normSplits (g1.splits ++ [⟨p, a.pc, a.mask, g.stamps + 1, [], false, a.earliest, none⟩]),
                stamps := g.stamps + 1 }
  | _, _ => g

def execSplitPromote (g : Nat) (s : State) : Host.Outcome State Fault Refusal := .next (updGroup s g promote)

/-- `sleep` (R119): the deadline is %time plus sA, or sA itself under `.abs`. -/
def sleepNow (c : Ctx) (s : State) : State :=
  let x := (srcS s c 1).toNat
  let dl := if c.f.opx.getLsbD 0 then x else timeNs s + x
  let s1 := updGroup s c.g.uid (fun g => { g with sleep := some (dl, c.id) })
  addDue s1 (.ns dl) 0 (.sleepDeadline c.g.uid)

def ownSleep (c : Ctx) (s : State) : Verdict := .act (sleepNow c s)

def execSleep (f : ExtWord) (s : State) : Host.Outcome State Fault Refusal := issue .sleep (.ext f) ownSleep s

/-- The deadline of a sleep has come: the sleep completes and releases the group (R119). The operation's flag is the one
that still names it. -/
def execSleepDeadline (g : Nat) (s : State) : Host.Outcome State Fault Refusal :=
  .next (updGroup s g (fun x =>
    match x.sleep with
    | none => x
    | some (dl, op) =>
      if dl ≤ timeNs s then
        { x with sleep := none, flags := x.flagOwner.foldl (fun f p => if p.2 = op then f ||| flagBit p.1 else f) x.flags,
                 flagOwner := x.flagOwner.filter (fun p => p.2 != op) }
      else x))

/-! ### Per-lane calls (R99, R100, R120) -/

/-- A flight with nothing in it yet, for the instruction that issues. -/
def newFlight (c : Ctx) (w : Work) : Flight where
  id := c.id
  uid := c.g.uid
  gen := c.g.gen
  op := c.op
  f := c.f
  pc := c.pc
  place := c.sp.place
  stamp := c.sp.stamp
  sel := c.sel
  setf := c.f.setf.toNat
  dests := []
  clk := c.clk
  region := c.rgn.toNat / 2 ^ 32
  work := w
  lanes := []
  data := []
  sent := false
  reqs := []
  failT := []
  failD := []
  acc := 0
  step := .done
  roots := []
  locks := []
  vals := []
  mems := []
  pas := []
  at1 := 0
  at2 := 0
  origin := none
  grants := []

/-- Add work in flight, its destinations marked empty and owned (R74). -/
def launchFlight (s : State) (c : Ctx) (f : Flight) : State :=
  let s1 := updGroup s c.g.uid (fun g => f.dests.foldl (takeReg f.id) g)
  { s1 with flights := s1.flights ++ [f] }

/-- What a `callv` reads at its issue for each lane (R11, R99): v0 to v7, keyed 32 × register + lane, and the target, keyed 256 + lane. -/
def callArgs (c : Ctx) : List (Nat × DWord) :=
  (lanesOf c.sel).flatMap (fun l => (256 + l, (vread c.g c.f.sa.toNat l).setWidth 64) ::
    (List.range 8).map (fun r => (32 * r + l, (vread c.g r l).setWidth 64)))

/-- The calling split sends its lanes and offers nothing until they have returned (R99). -/
def callLanes (c : Ctx) (s : State) : State :=
  let s1 := launchFlight s c { newFlight c (.callv c.sp.place c.sel 0) with data := callArgs c }
  updGroup s1 c.g.uid (fun g => updSplit g c.sp.place (fun sp => { sp with calling := some c.id }))

/-- `callv` (R99, R120, R121). -/
def ownCallv (c : Ctx) (s : State) : Verdict :=
  if c.g.callee then .raise 0x11 0 c.sel 0
  else
    match teamAt? s c.g.team with
    | none => .hold
    | some t =>
      if t.callees.isEmpty then .raise 0x12 0 c.sel 0
      else .act (callLanes c s)

def execCallv (f : ExtWord) (s : State) : Host.Outcome State Fault Refusal := issue .callv (.ext f) ownCallv s

/-- Items waiting on a core (R99: at most 2,048). -/
def itemCount (c : CoreSt) : Nat := (c.queues.map (fun q => q.items.length)).sum

/-- Put an item into the queue bound to its team and callee, or into the lowest free queue; none where neither has room
(R99). -/
def enqueueItem (qs : List CalleeQueue) (team pc : Nat) (i : Item) : Option (List CalleeQueue) :=
  if (qs.map (fun q => q.items.length)).sum ≥ 2048 then none
  else
    match qs.find? (fun q => q.team == team && q.pc == pc) with
    | some q => some (listUpd (fun x => x.num == q.num) (fun x => { x with items := x.items ++ [i] }) qs)
    | none =>
      match (List.range 32).find? (fun n => !(qs.any (fun q => q.num == n))) with
      | none => none
      | some n => some (qs ++ [⟨n, team, pc, [i]⟩])

/-- Enqueue the waiting lanes of a `callv` in ascending order as far as room goes (R99), on the core where the group stands
(DESIGN CHOICE after a `migrate`, log 81). -/
def enqueueLanes (f : Flight) (g : Group) : List Nat → State → Word → Word → State
  | [], s, toSend, out => updFlight s f.id (fun x => { x with work := .callv f.place toSend out })
  | l :: rest, s, toSend, out =>
    let arg (k : Nat) : DWord := ((f.data.find? (fun p => p.1 == k)).map (·.2)).getD 0
    let pc := codeAddr (arg (256 + l)).toNat
    let item : Item := ⟨g.uid, l, f.id, (List.range 8).map (fun r => (arg (32 * r + l)).setWidth 32)⟩
    match enqueueItem (coreAt s g.core).queues g.team pc item with
    | none => updFlight s f.id (fun x => { x with work := .callv f.place toSend out })
    | some qs =>
      let b := maskOf [l]
      enqueueLanes f g rest (updCore s g.core (fun c => { c with queues := qs })) (toSend &&& ~~~b) (out ||| b)

/-- A flight is a split's `callv` that has lanes still to send (R99). -/
def isCallvOf (u place : Nat) (f : Flight) : Bool :=
  f.uid == u && f.place == place && (match f.work with | .callv _ t _ => t != 0 | _ => false)

/-- The next lane of a `callv` enters a queue, if one has room (R99). -/
def enqueueCallv (s : State) (g place : Nat) : State :=
  match groupAt? s g with
  | none => s
  | some x =>
    match s.flights.find? (isCallvOf g place) with
    | none => s
    | some f =>
      match f.work with
      | .callv _ t o => enqueueLanes f x (lanesOf t) s t o
      | _ => s

/-- CALLV_ENQUEUE. -/
def execCallvEnqueue (g place : Nat) (s : State) : Host.Outcome State Fault Refusal := .next (enqueueCallv s g place)

/-- The fullest queue of a team, the lower number on a tie (R100). -/
def fullestQueue (qs : List CalleeQueue) (team : Nat) : Option CalleeQueue :=
  (qs.filter (fun q => q.team == team && !q.items.isEmpty)).foldl (fun best q =>
    match best with
    | none => some q
    | some b =>
      if decide (b.items.length < q.items.length) || (q.items.length == b.items.length && decide (q.num < b.num))
      then some q else some b) none

/-- Leave the given items in a queue; an emptied queue becomes free (R99). -/
def leaveItems (n : Nat) (left : List Item) (qs : List CalleeQueue) : List CalleeQueue :=
  if left.isEmpty then qs.filter (fun y => y.num != n)
  else listUpd (fun y => y.num == n) (fun y => { y with items := left }) qs

/-- An idle callee slot takes up to 32 items: item n becomes lane n, with v0 to v7 of the item and the rest as at
placement (R93, R100). Writes of fixed latency that lanes of its last items left behind still land, and %rgn, %mcap, %mres and NR are
kept (DESIGN CHOICE, log 96: R100 names the registers alone). -/
def takeItems (s : State) (g : Nat) (x : Group) (q : CalleeQueue) : State :=
  let took := q.items.take 32
  let left := q.items.drop 32
  let s1 := updCore s x.core (fun c => { c with queues := leaveItems q.num left c.queues })
  let lanes := List.range took.length
  let m := maskOf lanes
  let regs : SMap Word := ((lanes.zip took).map (fun p =>
    (List.range 8).map (fun r => (32 * r + p.1, p.2.regs.getD r 0)))).flatten.foldl
      (fun acc e => mset 0 e.1 e.2 acc) []
  let args := match teamAt? s x.team with
    | none => (0 : DWord)
    | some t => ((launchAt? s t.launch).map (·.record.args)).getD 0
  updGroup s1 g (fun x => { x with
    splits := [⟨0, q.pc, m, 0, [], false, 0, none⟩], alive := m, stamps := 0, v := regs, s := mset 0 0 args [],
    k := [], owners := [], flags := 0xFFF, flagOwner := [], seed := 0, lastIssue := coreClk s x.core,
    resumed := true, lastPlace := 3,
    items := (lanes.zip took).map (fun p => (p.1, p.2.uid, p.2.lane, p.2.op)) })

/-- An idle callee slot takes up to 32 items: item n becomes lane n, with v0 to v7 of the item and the rest as at
placement (R93, R100). -/
def execCalleeTake (g : Nat) (s : State) : Host.Outcome State Fault Refusal :=
  .next (match groupAt? s g with
    | none => s
    | some x =>
      if !(x.callee && x.splits.isEmpty) then s
      else
        match fullestQueue (coreAt s x.core).queues x.team with
        | none => s
        | some q =>
          takeItems s g x q)

/-- A `callv` of which no lane is out any more completes, and its split goes on at clk + 2 (R99). -/
def callerBack (clk : Nat) (st : State) (o : Nat) : State :=
  match flightAt? st o with
  | none => st
  | some f =>
    match f.work with
    | .callv p t out =>
      if t = 0 && out = 0 then
        updGroup (completeFlight st f) f.uid (fun g =>
          { g with splits := normSplits (updSplit g p (fun sp => { sp with calling := none, earliest := clk + 2 })).splits })
      else st
    | _ => st

/-- `retv` (R100, R120): the returning lanes write their callers' v0 to v7 with latency 2; a caller whose last lane
returns goes on when they are written. -/
def returnLanes (c : Ctx) (s : State) : State :=
  let back := c.g.items.filter (fun i => c.sel.getLsbD i.1)
  let s1 := back.foldl (fun st i =>
    (List.range 8).foldl (fun st r =>
      later st c.g.core i.2.1 2 (.v r [(i.2.2.1, 0xFFFFFFFF, vread c.g r i.1)])) st) s
  let s2 := back.foldl (fun st i =>
    updFlight st i.2.2.2 (fun f => { f with work := match f.work with
      | .callv p t o => .callv p t (o &&& ~~~(maskOf [i.2.2.1]))
      | w => w })) s1
  let s3 := ((back.map (fun i => i.2.2.2)).dedup).foldl (fun st o => callerBack c.clk st o) s2
  finishAt (updGroup s3 c.g.uid (fun g =>
    { dropLanes c.sel g with items := g.items.filter (fun i => !(c.sel.getLsbD i.1)) })) c 2

def ownRetv (c : Ctx) (s : State) : Verdict :=
  if !c.g.callee then .raise 0x13 1 c.sel 0 else .act (returnLanes c s)

def execRetv (f : ExtWord) (s : State) : Host.Outcome State Fault Refusal := issue .retv (.ext f) ownRetv s

end Sys2Proof.Machine
end

