-- ==== Sys2Proof/Machine/Scalar.lean ====
section
/-!
DEFINITION. Scalar arithmetic (R123 to R127) and `gstat` (R141).
-/
namespace Sys2Proof.Machine

/-- The width N of a scalar instruction's type. -/
def scWidth (c : Ctx) : Nat := tyWidth c.f.ty.toNat

/-- Width of operand i: N, or all 64 bits of a special register (R123). -/
def scReads (c : Ctx) (i : Nat) : Nat := if kindOf c.f i = 1 && 64 ≤ (fieldOf c.f i).toNat then 64 else scWidth c

/-- The value of operand i in the type of the instruction (R123). -/
def scVal (s : State) (c : Ctx) (i : Nat) : Int := intOf (tySigned c.f.ty.toNat) (scReads c i) (srcS s c i).toNat

/-- The same operand read as unsigned. -/
def scNat (s : State) (c : Ctx) (i : Nat) : Nat := (srcS s c i).toNat % 2 ^ scReads c i

/-- A result modulo 2^N, extended to 64 bits in the signedness of type t (R123). -/
def scExtend (t : Nat) (z : Int) : DWord := BitVec.ofInt 64 (intOf (tySigned t) (tyWidth t) (wrapN (tyWidth t) z))

/-- Write the scalar destination with its latency. -/
def scWrite (c : Ctx) (lat : Nat) (x : DWord) (s : State) : Verdict := .act (writeAt s c lat (.s c.f.d.toNat x))

/-- A two-source scalar operation on the values of A and B. -/
def scOp2 (lat : Nat) (op : Int → Int → Int) (c : Ctx) (s : State) : Verdict :=
  scWrite c lat (scExtend c.f.ty.toNat (op (scVal s c 1) (scVal s c 2))) s

/-- A scalar operation on the N-bit patterns of A and B. -/
def scBits2 (op : Nat → Nat → Nat) (c : Ctx) (s : State) : Verdict :=
  scWrite c 2 (scExtend c.f.ty.toNat (op (scNat s c 1) (scNat s c 2))) s

/-- Quotient truncated toward zero; all ones by zero; the type minimum by −1 wraps to itself (R123). -/
def scDiv (a b : Int) : Int := if b = 0 then -1 else a.tdiv b

/-- Remainder of `scDiv`; a by zero. -/
def scRem (a b : Int) : Int := if b = 0 then a else a.tmod b

/-- `sshl` (R123). -/
def scShl (n a b : Nat) : Nat := if b < n then a * 2 ^ b else 0

/-- `sshr` (R123): floor of a over 2^min(b, N). -/
def scShr (n : Nat) (a : Int) (b : Nat) : Int := a.fdiv (2 ^ min b n)

def ownSadd : Ctx → State → Verdict := scOp2 2 (· + ·)
def ownSsub : Ctx → State → Verdict := scOp2 2 (· - ·)
def ownSmul : Ctx → State → Verdict := scOp2 4 (· * ·)
/-- The high half of the exact product (R123). -/
def ownSmulh (c : Ctx) (s : State) : Verdict := scOp2 4 (fun a b => (a * b).fdiv (2 ^ scWidth c)) c s
def ownSand : Ctx → State → Verdict := scBits2 (fun a b => a &&& b)
def ownSor : Ctx → State → Verdict := scBits2 (fun a b => a ||| b)
def ownSxor : Ctx → State → Verdict := scBits2 (fun a b => a ^^^ b)
def ownSshl (c : Ctx) (s : State) : Verdict := scBits2 (scShl (scWidth c)) c s
def ownSshr (c : Ctx) (s : State) : Verdict :=
  scWrite c 2 (scExtend c.f.ty.toNat (scShr (scWidth c) (scVal s c 1) (scNat s c 2))) s
def ownSmin : Ctx → State → Verdict := scOp2 2 min
def ownSmax : Ctx → State → Verdict := scOp2 2 max
def ownSdiv : Ctx → State → Verdict := scOp2 24 scDiv
def ownSrem : Ctx → State → Verdict := scOp2 24 scRem
def ownSmov : Ctx → State → Verdict := scOp2 2 (fun a _ => a)

def execSadd (f : BaseWord) (s : State) : Host.Outcome State Fault Refusal := issue .sadd (.base f) ownSadd s
def execSaddExt (f : XWord) (s : State) : Host.Outcome State Fault Refusal := issue .sadd f.toWord3 ownSadd s
def execSsub (f : BaseWord) (s : State) : Host.Outcome State Fault Refusal := issue .ssub (.base f) ownSsub s
def execSsubExt (f : XWord) (s : State) : Host.Outcome State Fault Refusal := issue .ssub f.toWord3 ownSsub s
def execSmul (f : BaseWord) (s : State) : Host.Outcome State Fault Refusal := issue .smul (.base f) ownSmul s
def execSmulExt (f : XWord) (s : State) : Host.Outcome State Fault Refusal := issue .smul f.toWord3 ownSmul s
def execSmulh (f : ExtWord) (s : State) : Host.Outcome State Fault Refusal := issue .smulh (.ext f) ownSmulh s
def execSand (f : BaseWord) (s : State) : Host.Outcome State Fault Refusal := issue .sand (.base f) ownSand s
def execSandExt (f : XWord) (s : State) : Host.Outcome State Fault Refusal := issue .sand f.toWord3 ownSand s
def execSor (f : BaseWord) (s : State) : Host.Outcome State Fault Refusal := issue .sor (.base f) ownSor s
def execSorExt (f : XWord) (s : State) : Host.Outcome State Fault Refusal := issue .sor f.toWord3 ownSor s
def execSxor (f : BaseWord) (s : State) : Host.Outcome State Fault Refusal := issue .sxor (.base f) ownSxor s
def execSxorExt (f : XWord) (s : State) : Host.Outcome State Fault Refusal := issue .sxor f.toWord3 ownSxor s
def execSshl (f : BaseWord) (s : State) : Host.Outcome State Fault Refusal := issue .sshl (.base f) ownSshl s
def execSshlExt (f : XWord) (s : State) : Host.Outcome State Fault Refusal := issue .sshl f.toWord3 ownSshl s
def execSshr (f : BaseWord) (s : State) : Host.Outcome State Fault Refusal := issue .sshr (.base f) ownSshr s
def execSshrExt (f : XWord) (s : State) : Host.Outcome State Fault Refusal := issue .sshr f.toWord3 ownSshr s
def execSmin (f : BaseWord) (s : State) : Host.Outcome State Fault Refusal := issue .smin (.base f) ownSmin s
def execSminExt (f : XWord) (s : State) : Host.Outcome State Fault Refusal := issue .smin f.toWord3 ownSmin s
def execSmax (f : BaseWord) (s : State) : Host.Outcome State Fault Refusal := issue .smax (.base f) ownSmax s
def execSmaxExt (f : XWord) (s : State) : Host.Outcome State Fault Refusal := issue .smax f.toWord3 ownSmax s
def execSdiv (f : ExtWord) (s : State) : Host.Outcome State Fault Refusal := issue .sdiv (.ext f) ownSdiv s
def execSrem (f : ExtWord) (s : State) : Host.Outcome State Fault Refusal := issue .srem (.ext f) ownSrem s
def execSmov (f : BaseWord) (s : State) : Host.Outcome State Fault Refusal := issue .smov (.base f) ownSmov s
def execSmovExt (f : XWord) (s : State) : Host.Outcome State Fault Refusal := issue .smov f.toWord3 ownSmov s

/-- Number of binary digits of a. -/
def bitLen (a : Nat) : Nat := if a = 0 then 0 else Nat.log2 a + 1

/-- Number of one bits among the low n bits of a. -/
def popCount (n a : Nat) : Nat := ((List.range n).filter (fun i => a.testBit i)).length

/-- `sclz` (R123): N where a is 0. -/
def ownSclz (c : Ctx) (s : State) : Verdict := scWrite c 2 (BitVec.ofNat 64 (scWidth c - bitLen (scNat s c 1 % 2 ^ scWidth c))) s

/-- `spopc` (R123). -/
def ownSpopc (c : Ctx) (s : State) : Verdict := scWrite c 2 (BitVec.ofNat 64 (popCount (scWidth c) (scNat s c 1))) s

def execSclz (f : BaseWord) (s : State) : Host.Outcome State Fault Refusal := issue .sclz (.base f) ownSclz s
def execSclzExt (f : XWord) (s : State) : Host.Outcome State Fault Refusal := issue .sclz f.toWord3 ownSclz s
def execSpopc (f : BaseWord) (s : State) : Host.Outcome State Fault Refusal := issue .spopc (.base f) ownSpopc s
def execSpopcExt (f : XWord) (s : State) : Host.Outcome State Fault Refusal := issue .spopc f.toWord3 ownSpopc s

/-- `scmp` (R124). -/
def ownScmp (c : Ctx) (s : State) : Verdict :=
  let hit := cmpHolds (c.f.opx.toNat % 8) (intOrd (scVal s c 1) (scVal s c 2)) false
  scWrite c 2 (if hit then 1 else 0) s

/-- `ssel` (R124): C is tested in all 64 bits. -/
def ownSsel (c : Ctx) (s : State) : Verdict :=
  scWrite c 2 (scExtend c.f.ty.toNat (if sread c.g c.f.sc.toNat != 0 then scVal s c 1 else scVal s c 2)) s

/-- `slea` (R125). -/
def ownSlea (c : Ctx) (s : State) : Verdict :=
  let idx := scExtend c.f.ty.toNat (scVal s c 2)
  scWrite c 2 (srcS s c 1 + idx <<< (c.f.opx.toNat % 8)) s

/-- The field that sB names (R126): its lowest and highest bit. -/
def fieldBounds (b : DWord) : Nat × Nat :=
  let p := b.toNat % 64
  let w := b.toNat / 2 ^ 8 % 64 + 1
  (p, min (p + w - 1) 63)

/-- `sbfe` (R126): the field of `a` that `b` names, extended from its top bit under a signed type. -/
def fieldOut (signed : Bool) (a b : DWord) : DWord :=
  let (p, h) := fieldBounds b
  BitVec.ofInt 64 (intOf signed (h + 1 - p) (bits a.toNat h p))

def ownSbfe (c : Ctx) (s : State) : Verdict := scWrite c 2 (fieldOut (tySigned c.f.ty.toNat) (srcS s c 1) (srcS s c 2)) s

/-- `sbfi` (R126): the low bits of `a` in the field of `d` that `b` names; the other bits keep the value of sD. -/
def fieldIn (d a b : DWord) : DWord :=
  let (p, h) := fieldBounds b
  let m : DWord := BitVec.ofNat 64 ((2 ^ (h + 1 - p) - 1) * 2 ^ p)
  (d &&& ~~~m) ||| (a <<< p &&& m)

/-- `sbfi` inserts into sD, whatever SC names in an extended word (DESIGN CHOICE, log 81). -/
def ownSbfi (c : Ctx) (s : State) : Verdict := scWrite c 2 (fieldIn (sread c.g c.f.d.toNat) (srcS s c 1) (srcS s c 2)) s

def execScmp (f : BaseWord) (s : State) : Host.Outcome State Fault Refusal := issue .scmp (.base f) ownScmp s
def execScmpExt (f : XWord) (s : State) : Host.Outcome State Fault Refusal := issue .scmp f.toWord3 ownScmp s
def execSsel (f : BaseWord) (s : State) : Host.Outcome State Fault Refusal := issue .ssel (.base f) ownSsel s
def execSselExt (f : XWord) (s : State) : Host.Outcome State Fault Refusal := issue .ssel f.toWord3 ownSsel s
def execSlea (f : BaseWord) (s : State) : Host.Outcome State Fault Refusal := issue .slea (.base f) ownSlea s
def execSleaExt (f : XWord) (s : State) : Host.Outcome State Fault Refusal := issue .slea f.toWord3 ownSlea s
def execSbfe (f : BaseWord) (s : State) : Host.Outcome State Fault Refusal := issue .sbfe (.base f) ownSbfe s
def execSbfeExt (f : XWord) (s : State) : Host.Outcome State Fault Refusal := issue .sbfe f.toWord3 ownSbfe s
def execSbfi (f : BaseWord) (s : State) : Host.Outcome State Fault Refusal := issue .sbfi (.base f) ownSbfi s
def execSbfiExt (f : XWord) (s : State) : Host.Outcome State Fault Refusal := issue .sbfi f.toWord3 ownSbfi s

/-- Whether an FP32 pattern is a zero, or positive and finite (R127). -/
def resOk (x : Word) : Bool := x == 0x80000000 || (!(x.getLsbD 31) && decide (x.toNat / 2 ^ 23 % 256 ≠ 255))

/-- `sspr` (R127). -/
def ownSspr (c : Ctx) (s : State) : Verdict :=
  let x := srcS s c 1
  let w := x.setWidth 32
  match c.f.d.toNat with
  | 0x49 => .act (writeAt s c 2 (.sp 0x49 x))
  | 0x46 => if 1 ≤ x.toNat ∧ x.toNat ≤ 255 then .act (writeAt s c 2 (.sp 0x46 x)) else .raise 0x10 0 c.sel 0
  | _ =>
    if resOk w then .act (writeAt s c 2 (.sp 0x47 (if w == 0x80000000 then 0 else w.setWidth 64)))
    else .raise 0x10 0 c.sel 0

def execSspr (f : ExtWord) (s : State) : Host.Outcome State Fault Refusal := issue .sspr (.ext f) ownSspr s

/-- `gstat` (R141). The number of instructions issued does not count the `gstat` itself (DESIGN CHOICE, log 81). -/
def gstatValue (c : Ctx) (s : State) : DWord :=
  match c.f.sa.toNat with
  | 0 => BitVec.ofNat 64 (c.sp.mask.toNat + 2 ^ 32 * c.sp.place + 2 ^ 34 * (c.g.splits.length - 1))
  | 1 => c.g.alive.setWidth 64
  | 2 => BitVec.ofNat 64 (c.clk - c.g.placed)
  | 3 => BitVec.ofNat 64 c.g.issued
  | _ => BitVec.ofNat 64 (coreCap s c.g.core % 256)

def ownGstat (c : Ctx) (s : State) : Verdict := scWrite c 2 (gstatValue c s) s

def execGstat (f : ExtWord) (s : State) : Host.Outcome State Fault Refusal := issue .gstat (.ext f) ownGstat s

end Sys2Proof.Machine
end

