-- ==== Sys2Proof/Machine/Mem.lean ====
section
/-!
DEFINITION. Global memory up to the fronts: home arms (R280), cached translations and the walker (R352, R353),
requests and their way to a front (R31, R163, R281, R282, R320), the line order (R174, R177) and copies of a line
(R175), acknowledgement (R176), and the writes of the control processors.
-/
namespace Sys2Proof.Machine

/-! ### Homes -/

/-- Set bits of a colour (R280). -/
def colourBits (c : Nat) : List Nat := (List.range 48).filter (fun i => c.testBit i)

/-- The number of an arm in the module's default map (R373). -/
def armNumber (s : State) (arm : Nat) : Nat :=
  ((List.range 16).find? (fun i => defaultArm s (armSector arm) i == arm % 17)).getD 0

/-- Arm number `n` of a sector by the default map. -/
def armOfNumber (s : State) (sector n : Nat) : Nat := 17 * sector + defaultArm s sector n

/-- The home arm that a colour gives a module-local physical address (R280). -/
def colourHome (s : State) (colour : List Nat) (pa : Nat) : Nat :=
  let die := pa / (144 * 2 ^ 30)
  let b := pa / 2 ^ 16
  let fold := (b % 4096) ^^^ (b / 2 ^ 12 % 4096) ^^^ (b / 2 ^ 24 % 4096)
  let arms := colourBits (colour.getD die 0)
  let k := arms.getD (fold % arms.length) 0
  armOfNumber s (3 * die + k / 16) (k % 16)

/-- The home arm of a module-local physical address for a partition: the home a change has given its block (R188), else
the one its colour gives (R280). -/
def homeArm (s : State) (part pa : Nat) : Nat :=
  match mfind (pa / 2 ^ 16) s.homes with
  | some a => a
  | none => colourHome s (partAt s part).colour pa

/-- Whether an arm is in a partition's colour (R288). -/
def armInColour (s : State) (part arm : Nat) : Bool :=
  ((partAt s part).colour.getD (armDie arm) 0).testBit (16 * (armSector arm % 3) + armNumber s arm)

/-- The module-local number of a line. -/
def localLine (line : Nat) : Nat := line % 2 ^ 41
/-- The module that homes a line (R320). -/
def lineModule (line : Nat) : Nat := line / 2 ^ 41

/-! ### Translation -/

/-- The cached translation of an address for a partition. -/
def tlbFind (s : State) (part va : Nat) : Option TlbEntry :=
  s.tlb.find? (fun e => e.part == part && va / 2 ^ e.size == e.page)

/-- The global physical address under a cached translation. -/
def entryPa (e : TlbEntry) (va : Nat) : Nat := e.pa + va % 2 ^ e.size

/-- The cause of R353 that an address fails with before any walk. -/
def badVa (va : Nat) : Bool := decide (2 ^ 48 ≤ va)

/-- Whether an address needs a walk. -/
def needsWalk (s : State) (part va : Nat) : Bool := !(badVa va) && (tlbFind s part va).isNone

/-- What a finished walk found: a translation, or a cause of R353. -/
inductive WalkResult where
  | next (table : Nat)
  | leaf (e : TlbEntry)
  | fail (cause : Nat)

/-- Read one page-table entry (R352, R353) at level `lv` for an address. -/
def walkEntry (s : State) (part va lv pte : Nat) : WalkResult :=
  let leaf := bits pte 7 7 == 1
  let fpol := bits pte 5 4
  let pa := bits pte 47 16 * 2 ^ 16
  if bits pte 0 0 == 0 then .fail 1
  else if bits pte 55 48 != 0 || bits pte 15 8 != 0 || bits pte 1 1 != 0 then .fail 5
  else if fpol == 1 || fpol == 2 then .fail 5
  else if lv != 0 && !leaf then (if bits pte 63 56 != 0 then .fail 5 else .next pa)
  else if lv == 2 || !leaf || (lv == 1 && bits pte 25 16 != 0) then .fail 5
  else
    let module := bits pte 63 56
    let size := if lv = 0 then 16 else 26
    let blocks := (List.range (2 ^ (size - 16))).map (fun i => pa / 2 ^ 16 + i)
    let mine (b : Nat) : Bool := let o := mget 0 b s.owners; o / 128 == 1 && o % 16 == part
    let owned := module != s.module || blocks.all mine
    if pa + 2 ^ size > 576 * 2 ^ 30 then .fail 5
    else if !owned then .fail 3
    else if module == s.module && colourBits ((partAt s part).colour.getD (pa / (144 * 2 ^ 30)) 0) == [] then .fail 4
    else .leaf ⟨part, va / 2 ^ size, size, module * 2 ^ 48 + pa, bits pte 2 2 == 1, bits pte 3 3 == 1,
      bits pte 6 6 == 1, fpol⟩

/-- The physical address of the entry that a walk reads at a level (R352). -/
def walkAddr (table va lv : Nat) : Nat :=
  table + 8 * (if lv = 2 then bits va 47 37 else if lv = 1 then bits va 36 26 else bits va 25 16)

/-! ### Requests -/

/-- The clk that a request or reply spends between two sectors (R281). -/
def transitClk (a b : Nat) : Nat := if a = b then 0 else if a / 3 = b / 3 then 12 else 48

/-- The moment, in the clk of the receiving sector's die, that follows now by `k` clk and the transit. -/
def arriveAt (s : State) (a b k : Nat) : When := .clk (b / 3) (dieClk s (b / 3) + transitClk a b + k)

/-- A request with nothing performed yet. -/
def blankReq (id : Nat) (src : Src) (ask : Ask) (line : Nat) : Req where
  id := id
  src := src
  uid := 0
  op := 0
  ask := ask
  pol := 1
  scope := 0
  ctx := 0
  part := 0
  line := line
  va := 0
  arm := 0
  home := 0
  sector := 0
  left := 0
  stamp := 0
  port := 0
  since := 0
  due := .ns 0
  phase := .travel
  data := []
  poison := false
  tag := 0
  ct := 0
  updates := 0
  dl := false
  result := 0
  combine := []
  renew := none
  lease := none
  copy := false
  acked := false
  fwd := false
  lost := false
  slot := 0
  gen := 0
  nest := 0
  stay := false
  waits := false
  away := false
  via := 0
  served := 0
  words := none
  block := 0

/-- Requests that write (R176). -/
def asksWrite : Ask → Bool
  | .store _ | .poison | .reduce _ _ _ _ | .atomic _ _ _ _ _ _ _ | .casParent _ _ _ | .cellWrite _ _ | .lock _ | .make _ => true
  | _ => false

/-- Whether a performed request has written: a conditional promise write says so in its result (R306, R307). -/
def reqWrites (r : Req) : Bool :=
  match r.ask with
  | .lock _ | .make _ | .casParent _ _ _ => r.result == 1
  | a => asksWrite a

/-- Link units number from 48 on, one per die, after the copy engines. -/
def isLinkUnit : Src → Bool
  | .engine _ e => decide (48 ≤ e)
  | _ => false

/-- Plain reads, which copies may serve (R175). -/
def asksLoad : Ask → Bool
  | .load _ => true
  | _ => false

/-- Whether an ask is a spiral instruction's. -/
def asksSpiral : Ask → Bool
  | .hdist _ | .hpin | .hunpin | .hpre _ | .hdemote _ | .hocc => true
  | _ => false

/-- The port of a core at the fronts of its own sector (R31). -/
def corePort (s : State) (ctx core : Nat) : Nat := let (_, _, c, k) := logCore s ctx core; 6 * c + k

/-- The core from which the instruction of an operation issued, if it is in flight. -/
def opCore (s : State) (op : Nat) : Option Nat :=
  (flightAt? s op).bind (fun f => (f.origin.map (·.core)).orElse (fun _ => (anyGroup? s f.uid).map (·.core)))

/-- The crossbar port of a request at a front of sector `sec` that it enters from sector `from_` (R31). The table names no
port for the page-table walker, the OR of a dirty bitmap and the control processors inside the front's sector, nor for a promise
request that a front of the sector sends on while the issuing core stands in another sector: the model gives them 52; the local
accesses of a link unit take 54 there, 52 and 53 elsewhere (DESIGN CHOICE, log 77). -/
def portOf (s : State) (src : Src) (ctx from_ sec : Nat) : Nat :=
  match src with
  | .host _ => 55
  | .pcie _ => 55
  | .link _ _ => 54
  | _ =>
    if from_ = sec then
      match src with
      | .core _ core => corePort s ctx core
      | .prom op core =>
        let k := (opCore s op).getD core
        if coreSector k = sec then corePort s ctx k else 52
      | .engine _ e => if isLinkUnit src then 54 else 48 + e % 4
      | _ => 52
    else if from_ / 3 = sec / 3 then 52 else 53

/-- The port by which an old home forwards a request to a new one (R31, R188). -/
def forwardPort (r : Req) (from_ to_ : Nat) : Nat :=
  match r.src with
  | .host _ | .pcie _ | .link _ _ => r.port
  | _ => if armSector from_ = armSector to_ then r.port else if armDie from_ = armDie to_ then 52 else 53

/-- Two requests of one group's cores, of one engine, or of one other module, whose groups the frame does not name (DESIGN CHOICE, log 85),
so that they are ordered where they touch one line (R166, R259). -/
def sameSource (x y : Req) : Bool :=
  match x.src, y.src with
  | .core _ _, .core _ _ => x.uid == y.uid && y.uid != 0
  | .engine _ d, .engine _ e => d == e
  | .link m _, .link n _ => m == n
  | _, _ => false

/-- Whether a request has no place in its line's order yet: it travels, waits in a queue, or stands at the arm of a copy. -/
def unperformed (r : Req) : Bool :=
  r.phase == .travel || r.phase == .queued || (r.arm != r.home && (r.phase == .wave || r.phase == .parked))

/-- Whether a request is one of those that another carries since they met at their cluster's port (R172). -/
def carriedBy (main x : Req) : Bool := x.phase == .forward && x.renew == some main.id

/-- Whether a request, or the one that carries it (R172), has no place in its line's order yet. -/
def awaitsPlace (s : State) (x : Req) : Bool := unperformed x || s.reqs.any (fun y => unperformed y && carriedBy y x)

/-- Whether an earlier request of the same source must be performed before a request: for the same line (R166, R259), for a
line of the tile that either names as a spiral instruction (R294), or for a block whose old home has forwarded it (R188). -/
def goesBefore (s : State) (x r : Req) : Bool :=
  decide (x.id < r.id) && sameSource x r && awaitsPlace s x &&
    (x.line == r.line || (x.line / 8 == r.line / 8 && (asksSpiral x.ask || asksSpiral r.ask)) || (x.fwd && x.line / 512 == r.line / 512))

/-- Whether an earlier request must be performed before a request or one that it carries (R166, R172). -/
def earlierUnserved (s : State) (r : Req) : Bool :=
  s.reqs.any (fun x => goesBefore s x r) || s.reqs.any (fun y => carriedBy r y && s.reqs.any (fun x => goesBefore s x y))

/-- Whether a group's loads of lines homed elsewhere must be served at the home after a move (R179). -/
def departed (s : State) (r : Req) : Bool :=
  match groupAt? s r.uid with
  | some g => (match g.depart with
    | some d => decide (timeNs s ≤ d + 64 * ((partAt s r.part).lt + 1) + 20)
    | none => false)
  | none => false

/-- Whether a group has a write to a line that has not been acknowledged: it may not be performed yet, or its words may not
have reached the copy (R173). -/
def ownWritePending (s : State) (r : Req) : Bool :=
  s.reqs.any (fun x => sameSource x r && x.line == r.line && asksWrite x.ask && decide (x.id < r.id) && x.phase != .done)

/-- Sources whose loads copies may serve: cores and copy engines (R175, R288). -/
def mayUseCopy (src : Src) : Bool :=
  match src with
  | .core _ _ => true
  | .engine _ _ => !(isLinkUnit src)
  | _ => false

/-- Whether a `.near` or `.far` load is served at the home as a `.stay` load is: after a move of the group, of a line homed
outside its die (R179), or where the arm for a copy is not in the colour (R288). -/
def stayLoad (s : State) (r : Req) : Bool :=
  asksLoad r.ask && (r.pol == 0 || r.pol == 2) && mayUseCopy r.src &&
  (if lineModule r.line != s.module then departed s r
   else r.sector != armSector r.home &&
     ((armDie r.home != r.sector / 3 && departed s r) || !(armInColour s r.part (armOfNumber s r.sector (armNumber s r.home)))))

/-- A load that is served as `.stay` carries that policy (R179, R288). -/
def settleLoad (s : State) (r : Req) : Req := if stayLoad s r then { r with pol := 1 } else r

/-- The arm of the requester's sector whose copy directory a load may look up (R288); none where the load must go to the
home: another policy, a home in the sector, an earlier write of the group under way, an arm outside the colour. -/
def copyArm (s : State) (r : Req) : Option Nat :=
  if !(asksLoad r.ask) || !(r.pol == 0 || r.pol == 2) || r.sector == armSector r.home || !(mayUseCopy r.src) || stayLoad s r ||
    ownWritePending s r then none
  else some (armOfNumber s r.sector (armNumber s r.home))

/-- A read-modify-write operation on words of type t (R170, R171). -/
def rmwApply (op : Rmw) (t old c cmp : Nat) : Nat :=
  let w := tyWidth t
  let i (x : Nat) : Int := intOf (tySigned t) w x
  let f (x : Nat) : Word := BitVec.ofNat 32 x
  match op with
  | .add => if t = tyF32 then (addF32 (f old) (f c)).toNat else wrapN w (i old + i c)
  | .min => if t = tyF32 then (minF32 (f old) (f c)).toNat else if i c < i old then c % 2 ^ w else old
  | .max => if t = tyF32 then (maxF32 (f old) (f c)).toNat else if i old < i c then c % 2 ^ w else old
  | .and => old &&& c
  | .or => old ||| c
  | .xor => old ^^^ c
  | .xch => c
  | .cas => if old = cmp then c else old

/-- The identity of a reduction, for padding the tree (R55). -/
def rmwIdentity (op : Rmw) (t : Nat) : Nat :=
  let w := tyWidth t
  match op with
  | .min => if t = tyF32 then 0x7F800000 else if tySigned t then 2 ^ (w - 1) - 1 else 2 ^ w - 1
  | .max => if t = tyF32 then 0xFF800000 else if tySigned t then 2 ^ (w - 1) else 0
  | .and => 2 ^ w - 1
  | .add => if t = tyF32 then 0x80000000 else 0
  | _ => 0

/-- The words of a combined reduction: contributions in ascending logical core (R172). -/
def combineWords (op : Rmw) (t : Nat) (parts : List (Nat × Nat × List (Nat × DWord))) : List (Nat × DWord) :=
  let asc := ((List.range 6).map (fun k => parts.filter (fun p => p.1 == k))).flatten
  asc.foldl (fun acc p => p.2.2.foldl (fun acc w =>
    match acc.find? (fun q => q.1 == w.1) with
    | none => acc ++ [w]
    | some q => listUpd (fun x => x.1 == w.1) (fun x => (x.1, BitVec.ofNat 64 (rmwApply op t q.2.toNat w.2.toNat 0))) acc)
      acc) []

/-- What a request asks with what has been combined into it at the cluster's port (R172). -/
def combinedAsk (r : Req) : Ask :=
  match r.ask with
  | .reduce op t w ws => .reduce op t w (if r.combine.isEmpty then ws else combineWords op t r.combine)
  | a => a

/-! ### Links -/

def LinkSt.none_ : LinkSt := ⟨false, 0, 0, 0, 0, 0, [], [], false⟩

/-- The exponent fields and the width of a line's elements in the packed modes 1 and 2 (R323): BASE and the smallest W, if
one of 0 to 7 serves. -/
def packWidth (es : List Nat) : Option (Nat × Nat) :=
  let base := es.foldl min (es.headD 0)
  ((List.range 8).find? (fun w => es.all (fun e => decide (e - base < 2 ^ w)))).map (fun w => (base, w))

/-- The encoding of a line on a link (R323): mode, BASE, W, payload flits. -/
def wireMode (line : List Byte) : Nat × Nat × Nat × Nat :=
  let x := leNat line
  let e32 := (List.range 32).map (fun i => x / 2 ^ (32 * i + 23) % 256)
  let e16 := (List.range 64).map (fun i => x / 2 ^ (16 * i + 7) % 256)
  let m1 := (packWidth e32).map (fun p => (1, p.1, p.2, (32 * (24 + p.2) + 127) / 128))
  let m2 := (packWidth e16).map (fun p => (2, p.1, p.2, (64 * (8 + p.2) + 127) / 128))
  let m3 := if x = 0 then [(3, 0, 0, 0)] else []
  (m1.toList ++ m2.toList ++ m3).foldl (fun (b : Nat × Nat × Nat × Nat) m => if m.2.2.2 < b.2.2.2 then m else b) (0, 0, 0, 8)

/-- The header of an encoded line (R323). -/
def wireHeader (line : List Byte) : Nat := let (m, b, w, _) := wireMode line; b * 32 + w * 4 + m

/-- The packed code of one element in mode 1 or 2 with exponents from `base` on (R323), m fraction bits. -/
def wireCode (m base w x : Nat) : Nat :=
  x / 2 ^ (m + 8) % 2 * 2 ^ (w + m) + (x / 2 ^ m % 256 - base) * 2 ^ m + x % 2 ^ m

/-- The element that a packed code stands for. -/
def wireDecode (m base w c : Nat) : Nat :=
  c / 2 ^ (w + m) % 2 * 2 ^ (m + 8) + (c / 2 ^ m % 2 ^ w + base) * 2 ^ m + c % 2 ^ m

/-- The codes of a line's elements as a bit stream, element 0 first (R323). -/
def wirePack (m base w n x : Nat) : Nat :=
  (List.range n).foldl (fun acc i =>
    acc + wireCode m base w (x / 2 ^ ((m + 9) * i) % 2 ^ (m + 9)) * 2 ^ ((m + 1 + w) * i)) 0

/-- The elements that a bit stream of codes stands for. -/
def wireUnpack (m base w n y : Nat) : Nat :=
  (List.range n).foldl (fun acc i =>
    acc + wireDecode m base w (y / 2 ^ ((m + 1 + w) * i) % 2 ^ (m + 1 + w)) * 2 ^ ((m + 9) * i)) 0

/-- A line as the sender encodes it (R323). -/
def wireEncode (line : List Byte) : WireLine :=
  let (mode, base, w, _) := wireMode line
  let x := leNat line
  ⟨BitVec.ofNat 16 (wireHeader line),
    if mode = 0 then x else if mode = 1 then wirePack 23 base w 32 x else if mode = 2 then wirePack 7 base w 64 x else 0⟩

/-- Every byte of a line as the receiver restores it (R323). -/
def wireRestore (l : WireLine) : List Byte :=
  let h := l.header.toNat
  let base := h / 32 % 256
  let w := h / 4 % 8
  leBytes 128 (if h % 4 = 0 then l.payload else if h % 4 = 1 then wireUnpack 23 base w 32 l.payload
    else if h % 4 = 2 then wireUnpack 7 base w 64 l.payload else 0)

/-- Payload flits of an encoded line (R323). -/
def wireFlits (l : WireLine) : Nat :=
  let h := l.header.toNat
  let w := h / 4 % 8
  if h % 4 = 0 then 8 else if h % 4 = 1 then (32 * (24 + w) + 127) / 128 else if h % 4 = 2 then (64 * (8 + w) + 127) / 128 else 0

/-- The bytes of a whole line from its bytes by offset. -/
def lineBytes (d : List (Nat × Byte)) : List Byte := (List.range 128).map (fun i => mget 0 i d)

/-- The offset in its line at which a read-modify-write's comparand travels: after the operand (log 47). -/
def cmpOffset (w addr : Nat) : Nat := (addr + w) % 128

/-- The lines of payload that carry the bytes of a body (R323, R335). -/
def bodyLines (b : FrameBody) : List (List Byte) :=
  let word (o w x : Nat) : List (Nat × Byte) := (bytesAt o (leBytes w x)).map (fun p => (p.1 % 128, p.2))
  match b with
  | .request _ _ _ _ _ (.store bs) => [lineBytes (bs.map (fun p => (p.1 % 128, p.2)))]
  | .request _ _ _ _ _ (.rmw op _ w a c cmp _) =>
    [lineBytes (word a w c.toNat ++ (if op == .cas then word (cmpOffset w a) w cmp.toNat else []))]
  | .request _ _ _ _ _ (.reduce _ _ w ws) => [lineBytes (ws.flatMap (fun p => word p.1 w p.2.toNat))]
  | .reply _ d _ _ _ _ _ _ => [lineBytes d]
  | .collData _ _ _ _ _ _ bs => (List.range ((bs.length + 127) / 128)).map (fun k => (List.range 128).map (fun i => bs.getD (128 * k + i) 0))
  | _ => []

/-- A body with the bytes that the receiver restores from its lines (R323). -/
def restoreBody (b : FrameBody) (ls : List (List Byte)) : FrameBody :=
  let l := ls.headD []
  let at_ (o : Nat) : Byte := l.getD (o % 128) 0
  let word (o w : Nat) : DWord := BitVec.ofNat 64 (leNat ((List.range w).map (fun i => at_ (o + i))))
  match b with
  | .request m t p c pol (.store bs) => .request m t p c pol (.store (bs.map (fun x => (x.1, at_ x.1))))
  | .request m t p c pol (.rmw op ty w a _ cmp r) =>
    .request m t p c pol (.rmw op ty w a (word a w) (if op == .cas then word (cmpOffset w a) w else cmp) r)
  | .request m t p c pol (.reduce op ty w ws) => .request m t p c pol (.reduce op ty w (ws.map (fun x => (x.1, word x.1 w))))
  | .reply q _ old tag ct lease arm poison =>
    .reply q (((List.range 128).map (fun i => (i, at_ i))).filter (fun x => x.2 != 0)) old tag ct lease arm poison
  | .collData p c k r ph off bs => .collData p c k r ph off (((ls.flatten).take bs.length))
  | b => b

/-- Flits of a frame (R322, R323): one for the header, and the payload line by line. -/
def frameFlits (f : LinkFrame) : Nat := 1 + (f.wire.map wireFlits).sum

/-- Flits queued on a link. -/
def queuedFlits (s : State) (l : Nat) : Nat := ((s.links.getD l LinkSt.none_).out.map frameFlits).sum

/-- The links that a route names and that are up (R321, R324). -/
def routeLinks (s : State) (module : Nat) : List Nat :=
  let e := s.routes.getD module 0
  if !(e.getLsbD 16) then []
  else (List.range 16).filter (fun l => e.getLsbD l && ((s.links.getD l LinkSt.none_).up))

/-- The link of a route with the fewest flits queued, the lower number on a tie (R322). -/
def routeLink (s : State) (module : Nat) : Option Nat :=
  (routeLinks s module).foldl (fun best l =>
    match best with
    | none => some l
    | some b => if queuedFlits s l < queuedFlits s b then some l else some b) none

/-- The link of a 256-byte block's next frame: the one that its earlier frames have taken, else the route's link with the fewest
flits (R322). -/
def blockLink (s : State) (module block : Nat) : Option Nat :=
  match s.blockVia.find? (fun p => block != 0 && p.1 == module && p.2.1 == block && (routeLinks s module).contains p.2.2) with
  | some p => some p.2.2
  | none => routeLink s module

/-- The link that a block's frames have taken is kept, for the latest 1,024 blocks (DESIGN CHOICE, log 99). -/
def noteBlock (s : State) (module block link : Nat) : State :=
  if block = 0 then s
  else { s with blockVia := ((module, block, link) :: s.blockVia.filter (fun p => !(p.1 == module && p.2.1 == block))).take 1024 }

/-- A load of a line homed on another module that may make a lease copy (R175, R325). -/
def mayCopyRemote (s : State) (r : Req) : Bool :=
  asksLoad r.ask && (r.pol == 0 || r.pol == 2) && !(stayLoad s r) && !(ownWritePending s r) && mayUseCopy r.src

/-- The arm of the requester's sector that holds a copy tile of a line homed on another module. -/
def remoteCopyArm (s : State) (r : Req) : Option Nat :=
  if !(mayCopyRemote s r) then none
  else
    ((List.range 16).map (armOfNumber s r.sector)).find? (fun a =>
      (armAt s a).tiles.any (fun t => t.tile == r.line / 8 && t.copy))

/-- Queue a frame for a module on a link under the link's next sequence number, its bytes encoded (R323, R324). -/
def sendFrame (s : State) (link dest block : Nat) (b : FrameBody) : State :=
  { noteBlock s dest block link with links := s.links.modify link (fun l =>
      { l with tx := l.tx + 1, out := l.out ++ [⟨l.tx, dest, l.rx, true, b, (bodyLines b).map wireEncode, block⟩] }) }

/-- Send a frame of a block to a module, if a route leads there (R321, R322). -/
def sendTo (s : State) (dest block : Nat) (b : FrameBody) : State :=
  match blockLink s dest block with
  | some l => sendFrame s l dest block b
  | none => s

/-- What a request asks of a peer (R320). -/
def askAct (r : Req) : MemAct :=
  let base := 128 * localLine r.line
  match r.ask with
  | .store [] => .flush base
  | .store bs => .store (bs.map (fun p => (base + p.1, p.2)))
  | .poison => .mark base
  | .reduce op ty w ws => .reduce op ty w (ws.map (fun p => (base + p.1, p.2)))
  | .atomic op ty w _ off c cmp => .rmw op ty w (base + off) c cmp true
  | .hdist _ => .hdist (r.va % 128 + base)
  | .prefetch => .prefetch base
  | _ => .load base 128

/-- The 256-byte block to which a request's frame belongs (R322), as a number of the domain: what an engine sends in one clk, or the
block of its line that an instruction touches. -/
def blockKey (s : State) (r : Req) : Nat :=
  s.module + 256 * (match r.src with
    | .engine c _ => 2 ^ 120 + c * 2 ^ 64 + r.left
    | _ => r.op * 2 ^ 64 + r.line / 2 + 1)

/-- The link by which an earlier request of the source for the same line has gone, while it is not answered: a later one
follows it (R166, R259). -/
def orderedLink (s : State) (r : Req) : Option Nat :=
  ((s.reqs.find? (fun x => x.via != 0 && x.phase == .forward && sameSource x r && x.line == r.line && x.id != r.id &&
    (routeLinks s (lineModule r.line)).contains (x.via - 1))).map (fun x => x.via - 1))

/-- A request is performed nowhere (R324, R336): it tells its source so. -/
def loseReq (detail : Nat) (r : Req) : Req :=
  { r with phase := .reply, due := .ns 0, home := 1000, away := false, lost := true, result := BitVec.ofNat 64 detail }

/-- Send a request that stands in the state to the module that homes its line (R320); it is lost where no route leads
there (R321). -/
def sendAway (s : State) (r : Req) : State :=
  let m := lineModule r.line
  match orderedLink s r <|> blockLink s m (blockKey s r) with
  | none => updReq s r.id (loseReq 1)
  | some l =>
    let s1 := { s with reqs := s.reqs.map (fun x => if carriedBy r x then { x with via := l + 1 } else x) }
    sendFrame (updReq s1 r.id (fun x => { x with phase := .forward, home := 1000, away := false, via := l + 1, copy := mayCopyRemote s r }))
      l m (blockKey s r) (.request s.module r.id r.part r.ctx r.pol (askAct { r with ask := combinedAsk r }))

/-- The arm of the requester's sector at which a copy of a request's line stands (R288): that of the home's number, or for a
copy that the request makes the arm it came by. -/
def copyHome (s : State) (r : Req) : Nat :=
  if r.copy && r.nest != 0 then r.nest - 1
  else armOfNumber s r.sector (if lineModule r.line = s.module then armNumber s r.home else r.home - 1000)

/-- The arm of a copy at which an earlier request of the source for the line of another module still stands: a later one
follows it by that arm (R166, R259). -/
def remoteVia (s : State) (r : Req) : Option Nat :=
  (s.reqs.find? (fun x => decide (x.id < r.id) && sameSource x r && x.line == r.line && unperformed x)).map (·.arm)

/-- Send a request that leaves its post queue `k` clk from now (R163, R281, R282, R320): to the front that looks up a
copy, to its home front, or over a link. -/
def sendReq (s : State) (r0 : Req) (k : Nat) : State :=
  let r1 := { r0 with left := dieClk s (r0.sector / 3) + k }
  if lineModule r1.line != s.module then
    let r1 := settleLoad s r1
    match remoteCopyArm s r1 <|> remoteVia s r1 with
    | some a =>
      { s with reqs := s.reqs ++ [{ r1 with home := 1000, arm := a, due := arriveAt s r1.sector (armSector a) k, stamp := r1.left,
                                            port := portOf s r1.src r1.ctx r1.sector (armSector a) }] }
    | none =>
      -- it leaves by the die's link unit when its post queue sends it; reductions meet at the cluster's port before (R172, R325)
      { s with reqs := s.reqs ++ [{ r1 with home := 1000, away := true, due := .clk (r1.sector / 3) r1.left }] }
  else
    let r2 := settleLoad s { r1 with home := homeArm s r1.part (128 * localLine r1.line) }
    let near := match r2.ask with
      | .hdist true => if r2.sector == armSector r2.home then none else some (armOfNumber s r2.sector (armNumber s r2.home))
      | _ => copyArm s r2
    let target := near.getD r2.home
    let due := match r2.src with
      | .host _ | .pcie _ => .clk (armDie target) (armClk s target + 48 + k)
      | _ => arriveAt s r2.sector (armSector target) k
    -- a request from another die or the host die is stamped when it enters the die (R282)
    let stamp := match due, r2.src with
      | .clk _ n, .host _ | .clk _ n, .pcie _ => n
      | .clk _ n, _ => if r2.sector / 3 = armDie target then r1.left else n
      | .ns n, _ => n
    let port := portOf s r2.src r2.ctx r2.sector (armSector target)
    { s with reqs := s.reqs ++ [{ r2 with arm := target, due := due, stamp := stamp, port := port }] }

/-- Start the walk of an address, or join one under way (R353). -/
def startWalk (s : State) (part va : Nat) (op cmd : Option Nat) : State :=
  let ops := op.toList
  let cmds := cmd.toList
  match s.walks.find? (fun w => w.part == part && w.va / 2 ^ 16 == va / 2 ^ 16) with
  | some w => { s with walks := listUpd (fun x => x.id == w.id) (fun x => { x with ops := x.ops ++ ops, cmds := x.cmds ++ cmds }) s.walks }
  | none =>
    let (wid, s1) := newId s
    let (rid, s2) := newId s1
    let table := (partAt s part).ptroot * 2 ^ 12
    let pa := walkAddr table va 2
    let r : Req := { blankReq rid (.walker wid) (.load [(0, 0, pa % 128, 8)]) (s.module * 2 ^ 41 + pa / 128) with
      part := part, sector := armSector (homeArm s part pa) }
    sendReq { s2 with walks := s2.walks ++ [⟨wid, part, va, 2, table, rid, ops, cmds⟩] } r 0

/-! ### The line order -/

/-- The bytes of a line that are not 0, as (offset, byte) by ascending offset. -/
def lineData (m : SMap Byte) (line : Nat) : List (Nat × Byte) :=
  (m.filter (fun p => p.1 / 128 == line)).map (fun p => (p.1 % 128, p.2))

/-- A number of `n` bytes at an offset of line data. -/
def dataNat (d : List (Nat × Byte)) (off n : Nat) : Nat := leNat ((List.range n).map (fun i => mget 0 (off + i) d))

/-- Write bytes at offsets of a line. -/
def writeLine (m : SMap Byte) (line : Nat) (bs : List (Nat × Byte)) : SMap Byte :=
  writeBytes m (bs.map (fun p => (128 * line + p.1, p.2)))

/-- Replace the bytes of a line by given line data. -/
def copyLine (m : SMap Byte) (line : Nat) (d : List (Nat × Byte)) : SMap Byte :=
  writeBytes m ((List.range 128).map (fun i => (128 * line + i, mget 0 i d)))

/-- Tag `a` is newer than tag `b`, modulo 2^32 (R174, R178). -/
def tagNewer (a b : Nat) : Bool := let d := (a + 2 ^ 32 - b) % 2 ^ 32; decide (0 < d) && decide (d < 2 ^ 31)

/-- The home tile of a line, if the arm holds one. Tiles and their lines are named by global physical addresses. -/
def homeTile? (a : ArmSt) (line : Nat) : Option Tile := a.tiles.find? (fun t => t.tile == line / 8 && !t.copy)

/-- A line of a tile that nothing has been recorded for. -/
def LineSt.clean : LineSt := ⟨false, 0, false, none, 0, [], false⟩

def tileLine (t : Tile) (line : Nat) : LineSt := (mfind line t.lines).getD LineSt.clean

def updTileLine (a : ArmSt) (line : Nat) (f : LineSt → LineSt) : ArmSt :=
  { a with tiles := listUpd (fun t => t.tile == line / 8) (fun t => { t with lines := mput line (f (tileLine t line)) t.lines }) a.tiles }

/-- The sectors of the die that a line's sharer mask names (R279). -/
def sharerSectors (home : Nat) (m : BitVec 2) : List Nat :=
  ((List.range 2).filter (fun i => m.getLsbD i)).map (fun i => home / 3 * 3 + (home % 3 + 1 + i) % 3)

/-- The sharer bit of a sector at a home sector. -/
def sharerBit (home sector : Nat) : BitVec 2 := BitVec.ofNat 2 (2 ^ ((sector + 3 - home % 3 + 2 - sector / 3 * 3) % 3 % 2))

/-- The eviction horizon that counts for a line at an arm: its own, and that of an old home which still forwards the block (R177,
R188). -/
def evictHorizon (s : State) (arm line : Nat) : Nat :=
  s.arms.foldl (fun m p => if p.2.forwards.any (fun f => f.block == line / 512 && f.toArm == arm) then max m p.2.evict else m)
    (armAt s arm).evict

/-- The global write completion time of a write performed now (R177). -/
def completionTime (s : State) (arm line : Nat) : Nat :=
  max (max (timeNs s) (mget 0 line s.horizons)) (evictHorizon s arm line)

/-- Whether a read that makes a copy has been performed at the home and its reply has not been placed yet. -/
def copyUnderWay (r : Req) (line : Nat) : Bool :=
  r.copy && !r.stay && r.line == line && decide (r.port < 54) &&
    (r.src == .cp || (r.arm == r.home && (r.phase == .wave || r.phase == .parked || r.phase == .memory || r.phase == .reply)))

/-- The other sectors of the die that hold a copy of a line or whose copy is under way (R288). -/
def copySectors (s : State) (arm line : Nat) : List Nat :=
  let held := match homeTile? (armAt s arm) line with
    | none => []
    | some t => sharerSectors (armSector arm) (tileLine t line).sharers
  let coming := (s.reqs.filter (fun r => copyUnderWay r line && r.sector / 3 == armDie arm)).map (·.sector)
  (List.range 3).map (fun i => 3 * armDie arm + i) |>.filter (fun x => held.contains x || coming.contains x)

/-- Send the new words of a write, or a drop, to a sector's copy (R288). -/
def sendUpdate (s : State) (sector arm line tag : Nat) (bs : List (Nat × Byte)) (req : Nat) (drop poison : Bool) (wait : Nat) :
    State :=
  let (id, s1) := newId s
  let u : Update := ⟨id, sector, armOfNumber s sector (armNumber s arm), line, tag, bs, req, drop, arm, poison⟩
  addDue { s1 with updates := s1.updates ++ [u] } (.clk (sector / 3) (dieClk s (sector / 3) + 12 + wait)) 3 (.writeUpdateWords id)

/-- The lines that carry a poison mark after a write of the line: a poison mark sets its own, a write of the whole line clears it
(R274, R292). -/
def poisonAfter (s : State) (r : Req) (all : Bool) : List Nat :=
  let line := localLine r.line
  if r.ask == .poison then (s.poison ++ [line]).dedup else if all then s.poison.filter (· != line) else s.poison

/-- A line's bytes as they stand reach memory (R184). -/
def fillDram (s : State) (line : Nat) (data : List (Nat × Byte)) (tag : Nat) : State :=
  { s with dram := copyLine s.dram line data, dramTags := mset 0 line tag s.dramTags }

/-- A write takes its place in the line order (R174): the bytes, the next sequence tag, the completion time, the words
forwarded to every sector that holds a copy, the storer's too (R176, R288), the dirty bit or the bytes in memory, and the
poison mark (R292), which the acknowledgement carries. `deep` says that the write is performed at memory (R184, R283). A write that a wave carries makes the line
dirty where it finds the tile. -/
def performWrite (s : State) (arm : Nat) (r : Req) (bs : List (Nat × Byte)) (deep : Bool) : State :=
  let line := localLine r.line
  let mem1 := writeLine s.mem line bs
  let tag := (mget 0 line s.tags + 1) % 2 ^ 32
  let ct := completionTime s arm line
  let all := (List.range 128).all (fun i => bs.any (fun p => p.1 == i))
  let data := lineData mem1 line
  let marks := poisonAfter s r all
  let s0 := if deep then fillDram s line data tag else s
  let s1 := { s0 with mem := mem1, tags := mset 0 line tag s.tags, poison := marks,
                      latent := if all then s.latent.filter (· != line) else s.latent }
  let others := copySectors s arm r.line
  let s2 := others.foldl (fun st x => sendUpdate st x arm r.line tag bs r.id deep (r.ask == .poison) 0) s1
  let s3 := updArm s2 arm (fun a => updTileLine a r.line (fun l => { l with dirty := !deep && (l.dirty || r.src == .cp) }))
  updReq s3 r.id (fun r => { r with data := data, tag := tag, ct := ct, updates := r.updates + others.length,
                                     poison := match r.ask with
                                       | .casParent _ _ _ | .make _ | .lock _ => r.poison
                                       | _ => marks.contains line })

/-- The OR of a dirty bitmap's bit for a logged write (R356): a request of its own, awaited before acknowledgement. -/
def logWrite (s : State) (r : Req) : State :=
  if !r.dl then s
  else
    match vdOfCtx? s r.ctx with
    | none => s
    | some v =>
      let base := (vdAt s v).dlog
      if base = 0 then s
      else
        let b := 128 * localLine r.line / 2 ^ 16
        let pa := base + b / 32 * 4
        let (id, s1) := newId s
        let q : Req := { blankReq id (.dlog r.id)
            (.reduce .or tyN32 4 [(pa % 128, BitVec.ofNat 64 (2 ^ (b % 32)))]) (s.module * 2 ^ 41 + pa / 128) with
          ctx := r.ctx, part := r.part, sector := if lineModule r.line = s.module then armSector r.arm else r.sector, combine := [] }
        sendReq (updReq s1 r.id (fun r => { r with updates := r.updates + 1 })) q 0

/-- The dirty-bitmap ORs of a reduction and of those combined into it, one for each context whose mapping logs (R172, R356). -/
def logCombined (s : State) (r : Req) : State :=
  let mine := (r :: s.reqs.filter (fun x => x.phase == .forward && x.renew == some r.id)).filter (·.dl)
  ((mine.map (·.ctx)).dedup).foldl (fun st c => logWrite st { r with ctx := c, dl := true }) s

/-- The DRAM stack of a line. -/
def dramUnit (line : Nat) : Nat := 128 * line / (48 * 2 ^ 30)

/-- A damaged line has been found in what leaves the spiral store or in memory: memory holds it with a poison mark (R292), and the
error is noted in the black box (R378). -/
def poisonLine (s : State) (l : Nat) : State :=
  boxAppend { s with poison := (s.poison ++ [l]).dedup, latent := s.latent.filter (· != l) } 0x31 4 (dramUnit l) 0 (128 * l)

/-- A request that finds a damaged line sets its poison bit (R292), and the error is noted in the black box (R378). -/
def foundError (s : State) (line : Nat) : State :=
  if s.latent.contains line && !(s.poison.contains line) then
    boxAppend { s with poison := s.poison ++ [line] } 0x31 4 (dramUnit line) 0 (128 * line)
  else s

/-- A read at the home: line data, tag, the lease or sharer bit of the copy that the reply makes (R175, R177, R288), and
the poison mark. `deep` reads memory (R184). -/
def performRead (s : State) (arm : Nat) (r : Req) (deep : Bool) : State :=
  let line := localLine r.line
  let data := lineData (if deep then s.dram else s.mem) line
  let far := r.sector / 3 != armDie arm || r.port ≥ 54
  let exp := timeNs s + 64 * ((partAt s r.part).lt + 1)
  let s1 :=
    if !r.copy || r.stay then s
    else if far then { s with horizons := mset 0 line (max exp (mget 0 line s.horizons)) s.horizons }
    else updArm s arm (fun a => updTileLine a r.line (fun l =>
      { l with sharers := l.sharers ||| sharerBit (armSector arm) r.sector }))
  let bad := s.poison.contains line || s.latent.contains line
  updReq (foundError s1 line) r.id (fun r =>
    { r with data := data, tag := mget 0 line s.tags, poison := bad, ct := completionTime s arm line
             lease := if r.copy && !r.stay && far then some exp else none })

/-- Control word of a promise cell at an offset of line data (R304). -/
def cellControl (d : List (Nat × Byte)) (off : Nat) : Nat := dataNat d (off + 8) 8
def cellState (w : Nat) : Nat := w / 2 ^ 62
def cellLock (w : Nat) : Bool := w / 2 ^ 61 % 2 == 1
def cellRank (w : Nat) : Nat := w / 2 ^ 56 % 32
def cellHead (w : Nat) : Nat := w / 2 ^ 44 % 4096
def cellParent (w : Nat) : Nat := w % 2 ^ 44

/-- A served request takes its place in the line order and its value is fixed (R282). -/
def performReq (s : State) (arm : Nat) (r : Req) (deep : Bool) : State :=
  let line := localLine r.line
  let cur := lineData s.mem line
  match r.ask with
  | .load _ | .prefetch | .visit _ => performRead s arm r deep
  | .store bs => logWrite (performWrite s arm r bs deep) r
  | .poison => performWrite s arm r [] deep
  | .reduce op t w ws =>
    let words := if r.combine.isEmpty then ws else combineWords op t r.combine
    let bs := (words.map (fun p =>
      bytesAt p.1 (leBytes w (rmwApply op t (dataNat cur p.1 w) p.2.toNat 0)))).flatten
    let s0 := updReq (performWrite s arm r bs deep) r.id (fun x =>
      { x with result := BitVec.ofNat 64 ((words.head?.map (fun p => dataNat cur p.1 w)).getD 0) })
    let s1 := foundError (logCombined s0 r) line
    match r.src with
    | .dlog q => updReq s1 q (fun x => { x with updates := x.updates - 1 })
    | _ => s1
  | .atomic op t w _ off c cmp =>
    let old := dataNat cur off w
    let s1 := foundError (logWrite (performWrite s arm r (bytesAt off (leBytes w (rmwApply op t old c.toNat cmp.toNat))) deep) r) line
    updReq s1 r.id (fun r => { r with result := BitVec.ofNat 64 old, poison := s.poison.contains line || s.latent.contains line })
  | .casParent cell p g =>
    let off := cell % 128
    let w := cellControl cur off
    if cellState w = 2 ∧ cellParent w = p then
      logWrite (updReq (performWrite s arm r (bytesAt (off + 8) (leBytes 8 (w - p + g))) deep) r.id (fun r =>
        { r with result := 1 })) r
    else performRead s arm r deep
  | .make cell =>
    let off := cell % 128
    if cellState (cellControl cur off) = 0 then
      logWrite (updReq (performWrite s arm r (bytesAt off (leBytes 8 0 ++ leBytes 8 (2 ^ 62))) deep) r.id (fun r =>
        { r with result := 1 })) r
    else performRead s arm r deep
  | .lock cell =>
    let off := cell % 128
    let w := cellControl cur off
    if cellState w = 2 || cellState w = 0 then updReq (performRead s arm r deep) r.id (fun r => { r with result := 0 })
    else if cellLock w then updReq s r.id (fun r => { r with result := 2 })
    else logWrite (updReq (performWrite s arm r (bytesAt (off + 8) (leBytes 8 (w + 2 ^ 61))) deep) r.id (fun r => { r with result := 1 })) r
  | .cellWrite _ bs => logWrite (performWrite s arm r bs deep) r
  | _ => s

/-- Whether a block's new home holds its requests until the old one is empty (R188). -/
def heldBlock (s : State) (arm block : Nat) : Bool :=
  s.arms.any (fun p => p.2.forwards.any (fun f => f.block == block && f.toArm == arm))

/-- A request is held at its block's new home, behind those that came before it (R188). -/
def holdReq (s : State) (arm block id : Nat) : State :=
  let (n, s1) := newId s
  updArm (updReq s1 id (fun r => { r with phase := .queued, served := n })) arm (fun a => { a with held := a.held ++ [(block, id)] })

/-- A write of the control processors, front ends or another agent of the module, performed at once at its home front in
the line order (R193, R340), unless the block's home changes: then it is held there as a request is (R188). -/
def directWrite (s : State) (part pa : Nat) (bs : List Byte) : State :=
  ((bytesAt pa bs).foldl (fun (acc : List (Nat × List (Nat × Byte))) p =>
      match acc.find? (fun q => q.1 == p.1 / 128) with
      | none => acc ++ [(p.1 / 128, [(p.1 % 128, p.2)])]
      | some _ => listUpd (fun q => q.1 == p.1 / 128) (fun q => (q.1, q.2 ++ [(p.1 % 128, p.2)])) acc) []).foldl
    (fun st q =>
      let arm := homeArm st part (128 * q.1)
      let (id, s1) := newId st
      let r : Req := { blankReq id .cp (.store q.2) (s.module * 2 ^ 41 + q.1) with arm := arm, home := arm, sector := armSector arm }
      let deep := (homeTile? (armAt s1 arm) r.line).isNone
      let s2 : State := { s1 with reqs := s1.reqs ++ [r] }
      if heldBlock s2 arm (q.1 / 512) then holdReq s2 arm (q.1 / 512) id
      else delReq (performWrite s2 arm r q.2 deep) id) s

/-- Memory as the control processors and front ends find it at the home fronts: with their own writes that a home change holds
(R188). -/
def frontMem (s : State) : SMap Byte :=
  s.reqs.foldl (fun m r => match r.src, r.ask with
    | .cp, .store xs => if r.phase == .queued || r.phase == .travel then writeLine m (localLine r.line) xs else m
    | _, _ => m) s.mem

/-- A read of the control processors or front ends at the home front: `n` bytes at a module-local physical address. -/
def directRead (s : State) (pa n : Nat) : List Byte := readBytes (frontMem s) pa n

/-! ### Acknowledgement -/

/-- Whether a write of a mapping that logs awaits the OR of its dirty bitmap before it is acknowledged at any scope (R356). -/
def awaitsLog (s : State) (r : Req) : Bool :=
  r.dl && (match vdOfCtx? s r.ctx with | some v => (vdAt s v).dlog != 0 | none => false)

/-- Whether a write is acknowledged at a scope (R176). -/
def ackedAt (s : State) (r : Req) (scope : Nat) : Bool :=
  if scope = 0 ∧ !(awaitsLog s r) then decide (r.left ≤ dieClk s (r.sector / 3))
  else r.phase == .done &&
    (decide (scope < 5) || (scope == 5 && lineModule r.line == s.module && armDie r.home == r.sector / 3) ||
      decide (r.ct < timeNs s))

/-- Whether a flight is a global store, reduction, atomic or writing promise operation (R165, R313). -/
def flightWrites (f : Flight) : Bool :=
  match f.work with
  | .store | .reduce | .atomic => true
  | .promise => f.op == .pmake || f.op == .pfill || f.op == .peq
  | _ => false

/-- Whether a flight is a global load or another access whose data are awaited. -/
def flightLoads (f : Flight) : Bool :=
  match f.work with
  | .load _ | .atomic => true
  | .promise => f.op == .ppoll || f.op == .pwait || f.op == .pfind
  | _ => false

/-- Whether a request is an engine's, for a command (R24), and no write of the group itself. -/
def fromEngine : Src → Bool
  | .engine _ _ => true
  | _ => false

/-- The writes that a group issued before operation `id` are acknowledged at a scope (R131, R165, R169). -/
def writesAcked (s : State) (u id scope : Nat) : Bool :=
  s.flights.all (fun f => !(f.uid == u && decide (f.id < id) && flightWrites f && !f.sent)) &&
  s.reqs.all (fun r => !(r.uid == u && decide (r.op < id) && asksWrite r.ask && !(fromEngine r.src)) || ackedAt s r scope)

/-- The condition of R165 for a release at a scope: earlier writes acknowledged, earlier loads complete, and for device
and domain the completion horizon passed. -/
def releaseReady (s : State) (g : Group) (id scope : Nat) : Bool :=
  writesAcked s g.uid id scope &&
  s.flights.all (fun f => !(f.uid == g.uid && decide (f.id < id) && flightLoads f)) &&
  (decide (scope < 6) || decide (g.horizon < timeNs s))

end Sys2Proof.Machine
end

