-- ==== Sys2Proof/Machine/Tiles.lean ====
section
/-!
DEFINITION. Slots of a spiral arm (R279, R283, R286, R287, R290): insertion, displacement, removal, victims, occupancy.
-/
namespace Sys2Proof.Machine

def tileAt? (a : ArmSt) (t : Nat) : Option Tile := a.tiles.find? (fun x => x.tile == t)
def updTile (a : ArmSt) (t : Nat) (f : Tile → Tile) : ArmSt := { a with tiles := listUpd (fun x => x.tile == t) f a.tiles }

/-- The motion-table entry of a tile, if it is in motion (R285). -/
def motionOf? (a : ArmSt) (t : Nat) : Option MotionKind := (a.motion.find? (fun m => m.tile == t)).map (·.kind)
def inMotion (a : ArmSt) (t : Nat) : Bool := a.motion.any (fun m => m.tile == t)
def endMotion (a : ArmSt) (t : Nat) : ArmSt :=
  { a with motion := a.motion.filter (fun m => m.tile != t), late := a.late.filter (· != t) }
/-- Whether the motion table has a free entry (R282). -/
def motionFree (a : ArmSt) : Bool := decide (a.motion.length < 8)
/-- Change a tile's entry. -/
def updMotion (a : ArmSt) (t : Nat) (f : Motion → Motion) : ArmSt := { a with motion := listUpd (fun m => m.tile == t) f a.motion }
/-- Whether a request is the one whose wave is to set its tile travelling (R302). -/
def leadsMotion (a : ArmSt) (r : Req) : Bool := a.motion.any (fun m => m.tile == r.line / 8 && m.lead == r.id)
/-- Whether a tile in motion comes to a slot by an insertion (R303): it travels or is fetched. -/
def landsLater (a : ArmSt) (t : Nat) : Bool :=
  match motionOf? a t with
  | some (.travel _) | some (.fetch _ _ _) => true
  | _ => false
/-- Whether a tile is being fetched or is leaving, so that it has no distance (R295). -/
def betweenSlots (a : ArmSt) (t : Nat) : Bool :=
  match motionOf? a t with
  | some (.fetch _ _ _) | some (.leave _ _) => true
  | _ => false

/-- A tile takes a motion-table entry; `order` is the place in the order of service of the request that starts the motion (R303),
`lead` the request whose wave must find it (R285, R302). -/
def takeEntry (s : State) (arm tile : Nat) (k : MotionKind) (order lead : Nat) : State :=
  updArm s arm (fun a => { a with motion := a.motion ++ [⟨tile, k, order, lead⟩] })

/-- Whether a tile stands in a slot. -/
def inSlot (t : Tile) : Bool := decide (t.slot < 2048)

def pinnedSlot (a : ArmSt) (p : Nat) : Bool := a.tiles.any (fun t => t.slot == p && t.pin.isSome)

/-- The highest slot below p that no pinned tile holds. -/
def slotBelow (a : ArmSt) (p : Nat) : Nat := (((List.range p).reverse).find? (fun q => !(pinnedSlot a q))).getD 0

/-- The lowest slot at or above p that no pinned tile holds; where there is none, the outermost one that no pinned tile
holds. -/
def slotFrom (a : ArmSt) (p : Nat) : Nat := ((List.range' p (2048 - p)).find? (fun q => !(pinnedSlot a q))).getD (slotBelow a 2048)

/-- The outermost slot held by an unpinned tile. -/
def outermost (a : ArmSt) : Nat := (a.tiles.filter (fun t => t.pin.isNone && inSlot t)).foldl (fun m t => max m t.slot) 0

/-- The first empty slot; 2,048 where the arm is full. -/
def firstEmpty (a : ArmSt) : Nat := ((List.range 2048).find? (fun p => !(a.tiles.any (fun t => t.slot == p)))).getD 2048

def armFull (a : ArmSt) : Bool := decide (2048 ≤ (a.tiles.filter inSlot).length)

/-- Unpinned tiles from slot lo up to, not including, hi move outward by one (R283). -/
def shiftOut (a : ArmSt) (lo hi : Nat) : ArmSt :=
  { a with tiles := a.tiles.map (fun t =>
      if t.pin.isNone && decide (lo ≤ t.slot) && decide (t.slot < hi) then { t with slot := slotFrom a (t.slot + 1) } else t) }

/-- Unpinned tiles outward of lo up to hi move inward by one (R283). -/
def shiftIn (a : ArmSt) (lo hi : Nat) : ArmSt :=
  { a with tiles := a.tiles.map (fun t =>
      if t.pin.isNone && decide (lo < t.slot) && decide (t.slot ≤ hi) then { t with slot := slotBelow a t.slot } else t) }

/-- Insert a tile at the lowest unpinned slot at or above `target`: the tiles between move up to the empty slot `hole`, which
a victim has left where the arm was full (R283); those outward of a slot that a victim left, up to a target beyond it, move
inward. -/
def insertAt (a : ArmSt) (t : Tile) (target hole : Nat) : ArmSt :=
  let ins := slotFrom a target
  let to_ := if (a.tiles.any (fun x => decide (hole < x.slot) && inSlot x && x.pin.isNone)) then ins else min ins hole
  let b := if to_ ≤ hole then shiftOut a to_ hole else shiftIn a hole to_
  { b with tiles := b.tiles ++ [{ t with slot := to_, was := to_ }] }

/-- Insert a tile in an arm with an empty slot (R283). -/
def insertTile (a : ArmSt) (t : Tile) (target : Nat) : ArmSt := insertAt a t target (firstEmpty a)

/-- Take a tile out of the arm; no other tile moves. -/
def dropTile (a : ArmSt) (t : Nat) : ArmSt := { a with tiles := a.tiles.filter (fun y => y.tile != t) }

/-- Remove a tile from its slot; the tiles outward of it move inward (R283, R298). -/
def removeTile (a : ArmSt) (t : Nat) : ArmSt :=
  match tileAt? a t with
  | none => a
  | some x => if x.pin.isSome || !(inSlot x) then dropTile a t else shiftIn (dropTile a t) x.slot 2047

/-- A present tile lands at the insertion slot of `target`: inward, or outward no further than the outermost occupied
slot (R283, R297). -/
def moveTile (a : ArmSt) (t target : Nat) : ArmSt :=
  match tileAt? a t with
  | none => a
  | some x =>
    let b := updTile a t (fun y => { y with slot := 2048 })
    let ins := slotFrom b target
    if ins < x.slot then updTile (shiftOut b ins x.slot) t (fun y => { y with slot := ins })
    else if x.slot < ins then
      let out := min ins (outermost { b with tiles := b.tiles.filter (fun y => y.tile != t) })
      if x.slot < out then updTile (shiftIn b x.slot out) t (fun y => { y with slot := out })
      else a
    else a

/-- The occupancy entry that counts a context (R286). -/
def occNumber (a : ArmSt) (ctx : Nat) : Nat :=
  ((List.range' 1 15).find? (fun k => let e := (mfind k a.occ).getD OccEntry.reset; e.valid && e.ctx == ctx)).getD 0
def occEntry (a : ArmSt) (k : Nat) : OccEntry := (mfind k a.occ).getD OccEntry.reset
/-- COUNT and PINS of an entry (R286). -/
def occCount (a : ArmSt) (k : Nat) : Nat := (a.tiles.filter (fun t => inSlot t && occNumber a t.owner == k)).length
def occPins (a : ArmSt) (k : Nat) : Nat :=
  (a.tiles.filter (fun t => match t.pin with | some c => occNumber a c == k | none => false)).length
/-- Tiles a context has pinned in an arm (R290, R296). -/
def ctxPins (a : ArmSt) (ctx : Nat) : Nat := (a.tiles.filter (fun t => t.pin == some ctx)).length
def overLimit (a : ArmSt) (ctx : Nat) : Bool :=
  let k := occNumber a ctx
  decide ((occEntry a k).limit ≤ occCount a k)

/-- Whether a lookup wave for a tile is in flight at an arm (R284, R287). -/
def waveFor (s : State) (arm t : Nat) : Bool := s.reqs.any (fun r => r.phase == .wave && r.arm == arm && r.line / 8 == t)

/-- Whether a tile may be a victim (R287). -/
def eligible (s : State) (arm : Nat) (t : Tile) : Bool :=
  let a := armAt s arm
  t.pin.isNone && !(inMotion a t.tile) && !(a.parked.any (fun p => p.1 == t.tile)) && !(waveFor s arm t.tile)

/-- The outermost of some tiles. -/
def outermostOf (l : List Tile) : Option Tile :=
  l.foldl (fun best t => match best with
    | none => some t
    | some b => if b.slot < t.slot then some t else some b) none

/-- The victim of an insertion for a context (R287). -/
def victimOf (s : State) (arm ctx : Nat) : Option Tile :=
  let a := armAt s arm
  let el := a.tiles.filter (eligible s arm)
  let own := if overLimit a ctx then outermostOf (el.filter (fun t => t.owner == ctx)) else none
  match own with
  | some t => some t
  | none =>
    match outermostOf (el.filter (fun t => overLimit a t.owner)) with
    | some t => some t
    | none => outermostOf el

end Sys2Proof.Machine
end

