-- ==== Sys2Proof/Machine/Front.lean ====
section
/-!
DEFINITION. The front of an arm (R282 to R289): accepting and serving requests, lookup waves, tiles in motion, parked
requests, leaving tiles, copies and their updates, leases, and the spiral requests (R294 to R299).
-/
namespace Sys2Proof.Machine

/-- The DRAM access time of one access, between 260 and 340 ns (R281). -/
def dramNs (s : State) : Nat := 260 + Config.dramTime s.freeCount % 81

/-- The first whole ns that is not before `k` clk of a die from now. -/
def nsAfter (s : State) (die k : Nat) : Nat := s.ns + (s.frac + k * (1000000 / pointRate (dieAt s die).point) + 49999) / 50000

/-- The first whole ns that is not before now. -/
def upNs (s : State) : Nat := nsAfter s 0 0

/-- Whether the promise unit of the front goes on with a performed request itself (R306, R307). -/
def atPromiseUnit (r : Req) : Bool :=
  match r.ask with
  | .visit _ | .lock _ => !r.acked
  | .make _ => r.result != 1
  | _ => false

/-- A request's reply leaves the front `k` clk from now and travels to its source (R281); the next step of a promise
operation leaves the front in the clk after its request is performed (R306). A prefetch has a reply only over a link, which frees the
request there (R320). -/
def setReply (s : State) (r : Req) (k : Nat) : State :=
  let due := if atPromiseUnit r then .clk (armDie r.arm) (armClk s r.arm + k - 23) else match r.src with
    | .host _ | .pcie _ => .clk (armDie r.arm) (armClk s r.arm + 48 + k)
    | .link _ _ => .clk (armDie r.arm) (armClk s r.arm + k)
    | _ => arriveAt s (armSector r.arm) r.sector k
  match r.ask, r.src with
  | .prefetch, .link _ _ => updReq s r.id (fun r => { r with phase := .reply, due := due })
  | .prefetch, _ | _, .dlog _ | _, .cp => delReq s r.id
  | _, _ => updReq s r.id (fun r => { r with phase := .reply, due := due })

/-- The access of a request is performed at memory, with no tile made and so no copy (R175, R283): the memory request is sent in
the clk after service, and the reply leaves 24 clk after memory has answered (R281). Bytes that memory has received since from a
later write of the line's order stay (R184). -/
def toMemory (s : State) (r : Req) : State :=
  let t := nsAfter s (armDie r.arm) 1 + dramNs s
  let line := localLine r.line
  let s0 := if reqWrites r && !r.acked && !(tagNewer (mget 0 line s.dramTags) r.tag) then fillDram s line r.data r.tag else s
  let s1 := { s0 with freeCount := s.freeCount + 1 }
  addDue (updReq s1 r.id (fun r => { r with phase := .memory, due := .ns t, stay := true })) (.ns t) 3
    (.memoryReply r.arm (r.line / 8) r.id)

/-- When the data of a tile's fetch return (R281, R283): it is sent in the clk after service, and not before the writes to the
tile's lines that are on their way to memory are performed there. -/
def fetchNs (s : State) (arm tile : Nat) : Nat :=
  let base := s.reqs.foldl (fun m r =>
    if r.phase == .memory && reqWrites r && r.line / 8 == tile then
      (match r.due with | .ns n => max m n | .clk _ _ => m) else m) (nsAfter s (armDie arm) 1)
  base + dramNs s

/-- The slot that a policy names (R283): 0 for `.near`, the outermost for `.far`. -/
def policySlot (pol : Nat) : Nat := if pol = 2 then 2047 else 0

/-- Park a request on a tile in motion (R285). -/
def parkReq (s : State) (arm : Nat) (r : Req) : State :=
  updReq (updArm s arm (fun a => { a with parked := a.parked ++ [(r.line / 8, r.id)] })) r.id (fun r => { r with phase := .parked })

/-- Whether an arm holds parked requests of a tile. -/
def hasParked (a : ArmSt) (tile : Nat) : Bool := a.parked.any (fun p => p.1 == tile)

/-- The parked requests of a tile that has landed or left are taken from the next clk on (R285). -/
def unpark (s : State) (arm tile : Nat) : State :=
  if hasParked (armAt s arm) tile && !(inMotion (armAt s arm) tile) && !(s.agenda.any (fun d => d.ev == .tileLand arm tile)) then
    afterClk s (armDie arm) 1 0 (.tileLand arm tile)
  else s

/-- A tile that goes nowhere gives up its motion-table entry, and what is parked on it goes on. -/
def endTravel (s : State) (arm tile : Nat) : State := unpark (updArm s arm (fun a => endMotion a tile)) arm tile

/-- Start the fetch of an absent tile for a request, which is parked (R283, R285). A spiral request that waits for the landing
is marked. -/
def startFetch (s : State) (arm : Nat) (r : Req) (target : Nat) : State :=
  let t := fetchNs s arm (r.line / 8)
  let s1 := takeEntry s arm (r.line / 8) (.fetch target r.ctx false) r.served 0
  let s2 := addDue { s1 with freeCount := s1.freeCount + 1 } (.ns t) 3 (.tileLand arm (r.line / 8))
  parkReq (updReq s2 r.id (fun r => { r with acked := r.acked || asksSpiral r.ask })) arm r

/-- Requests for `hpin` whose pin was granted at their service, in order (R296), and is not set yet: their tile must still be found
or land; of every context or of one. -/
def pinsComing (s : State) (arm : Nat) (ctx : Option Nat) : Nat :=
  (s.reqs.filter (fun r => r.ask == .hpin && r.acked && r.arm == arm && (r.phase == .wave || r.phase == .parked) &&
    (match ctx with | none => true | some c => r.ctx == c) &&
    ((tileAt? (armAt s arm) (r.line / 8)).bind (·.pin)).isNone)).length

/-- Whether a context may pin one more tile in an arm (R290, R296). -/
def pinAllowed (s : State) (arm ctx : Nat) : Bool :=
  let a := armAt s arm
  decide ((a.tiles.filter (fun t => t.pin.isSome)).length + pinsComing s arm none < 256) &&
  decide (ctxPins a ctx + pinsComing s arm (some ctx) < (occEntry a (occNumber a ctx)).pinlim)

/-- Policies that place a tile (R283). -/
def polMoves (r : Req) : Bool := r.pol == 0 || r.pol == 2

/-- A request for a tile that its home arm does not hold (R283, R294 to R299); the front has made sure of a motion-table entry
for those that cannot do without. -/
def placeAbsent (s : State) (arm : Nat) (r : Req) : State :=
  match r.ask with
  | .hdist _ | .hocc | .hunpin | .hdemote _ => setReply s r 24
  | .hpin =>
    if pinAllowed s arm r.ctx then startFetch s arm r 0 else setReply (updReq s r.id (fun r => { r with result := 1 })) r 24
  | .hpre slot => startFetch s arm r slot
  | _ =>
    if polMoves r && motionFree (armAt s arm) then startFetch s arm r (policySlot r.pol)
    else
      match r.ask with
      | .prefetch => setReply s r 24
      | _ => toMemory s r

/-- The slot to which a request sends a present tile, if it moves it (R283, R297, R298). -/
def moveTarget (r : Req) : Nat :=
  match r.ask with
  | .hpre slot => slot
  | .hpin => 0
  | .hdemote _ => 2047
  | _ => policySlot r.pol

/-- The slot at which a present tile would land now. -/
def landingSlot (a : ArmSt) (t : Tile) (target : Nat) : Nat := ((tileAt? (moveTile a t.tile target) t.tile).map (·.slot)).getD t.slot

/-- Requests in the order in which fronts served them (R282). -/
def servedOrder (rs : List Req) : List Req := sortBy (fun a b : Req => decide (a.served ≤ b.served)) rs

/-- The context that holds a tile pinned once the requests served for it so far have been performed (R296, R302). -/
def pinAfter (s : State) (arm : Nat) (t : Tile) : Option Nat :=
  (servedOrder (s.reqs.filter (fun r => r.arm == arm && r.phase == .wave && r.line / 8 == t.tile))).foldl (fun p r =>
    match r.ask with
    | .hunpin => if p = some r.ctx then none else p
    | .hpin => if p.isNone && r.acked then some r.ctx else p
    | _ => p) t.pin

/-- Whether a request makes a present tile at rest travel, or leave (R283, R296 to R298). A pinned tile stays, and so does one
that the wave finds in the clk of service where it would land (log 30). -/
def wouldMove (s : State) (arm : Nat) (r : Req) (t : Tile) : Bool :=
  let still := decide (t.slot < 32) && landingSlot (armAt s arm) t (moveTarget r) == t.slot
  ((pinAfter s arm t).isNone || (r.ask == .hpin && r.acked)) &&
  (match r.ask with
    | .hdemote out => out || !still
    | .hpre _ => !still
    | .hpin => (r.acked || pinAllowed s arm r.ctx) && !still
    | .hdist _ | .hunpin | .hocc => false
    | _ => polMoves r && !still)

/-- Set a tile that holds a motion-table entry travelling, now that its wave has found it (R285): it lands after one clk for
each 32 slots. A tile that is pinned or stands where it would land goes nowhere and gives up its entry. -/
def setOff (s : State) (arm tile target : Nat) : State :=
  let a := armAt s arm
  match tileAt? a tile with
  | none => s
  | some t =>
    let to_ := landingSlot a t target
    if t.pin.isSome || to_ == t.slot then endTravel s arm tile
    else
      let d := if to_ < t.slot then t.slot - to_ else to_ - t.slot
      afterClk (updArm s arm (fun a => updMotion a tile (fun m => { m with lead := 0 }))) (armDie arm) ((d + 31) / 32) 3
        (.tileLand arm tile)

/-- A performed request moves its tile by the entry that it has taken at its service (R285, R302). -/
def travelTo (s : State) (arm : Nat) (r : Req) (t : Tile) : State :=
  if leadsMotion (armAt s arm) r then setOff s arm t.tile (moveTarget r) else s

/-- A leaving tile's horizons are folded into its arm's (R177, R287). -/
def foldHorizons (s : State) (arm : Nat) (t : Tile) : State :=
  let lines := (List.range 8).map (fun i => localLine (8 * t.tile + i))
  updArm s arm (fun a => { a with evict := lines.foldl (fun m l => max m (mget 0 l s.horizons)) a.evict })

/-- A tile in motion leaves (R287): it drops its copies, then writes its dirty lines back; the bytes are those of the choice,
as every request served meanwhile is parked. One with neither is gone in this clk. -/
def leaveWork (s : State) (arm : Nat) (t : Tile) : State :=
  let dirty := t.lines.filter (fun p => p.2.dirty)
  let drops := (t.lines.map (fun p => (sharerSectors (armSector arm) p.2.sharers).map (fun x => (p.1, x)))).flatten
  let s1 := dirty.foldl (fun st p =>
    fillDram st (localLine p.1) (lineData s.mem (localLine p.1)) (mget 0 (localLine p.1) s.tags)) s
  let s2 := updArm s1 arm (fun a => updMotion a t.tile (fun m =>
    { m with kind := .leave (!dirty.isEmpty) (match m.kind with | .leave _ heir => heir | _ => 0), lead := 0 }))
  if !(drops.isEmpty) then drops.foldl (fun st p => sendUpdate st p.2 arm p.1 0 [] 0 true false 1) s2
  else if dirty.isEmpty then afterClk s2 (armDie arm) 0 3 (.tileLeaveComplete arm t.tile)
  else addDue { s2 with freeCount := s2.freeCount + 1 } (.ns (upNs s2 + dramNs s2)) 3 (.tileLeaveComplete arm t.tile)

/-- A tile leaves its slot without an insertion (R291, R298): it keeps the slot until it has left. -/
def startLeave (s : State) (arm tile : Nat) : State :=
  match tileAt? (armAt s arm) tile with
  | none => s
  | some t =>
    if inMotion (armAt s arm) tile then leaveWork s arm t
    else leaveWork (takeEntry s arm tile (.leave false 0) 0 0) arm t

/-- Whether a victim leaves in the clk in which it is chosen: a copy tile, or a clean home tile without copies (R287). -/
def leavesAtOnce (t : Tile) : Bool := t.copy || t.lines.all (fun p => !p.2.dirty && p.2.sharers == 0)

/-- A victim that leaves at once is gone, its horizons folded into the arm's (R177, R287). -/
def evictNow (s : State) (arm : Nat) (t : Tile) : State :=
  updArm (if t.copy then s else foldHorizons s arm t) arm (fun a => { dropTile a t.tile with removed := true })

/-- A victim that must leave first keeps its slot, for the insertion of a tile that waits for it (R287). -/
def evictFor (s : State) (arm : Nat) (t : Tile) (heir : Nat) : State :=
  leaveWork (takeEntry s arm t.tile (.leave false (heir + 1)) 0 0) arm t

/-- Where the motion table has no entry for such a victim, it gives up its slot to the insertion and goes on leaving under the entry
of the tile that lands (DESIGN CHOICE, log 97). -/
def evictSwap (s : State) (arm : Nat) (t : Tile) : State :=
  leaveWork (updArm (takeEntry s arm t.tile (.leave false 0) 0 0) arm (fun a =>
    { updTile a t.tile (fun t => { t with slot := 2048 }) with removed := true })) arm t

/-! ### Copies -/

/-- The clock guard G of a lease (R177). -/
def guardNs (s : State) (line : Nat) : Nat := if lineModule line = s.module then 4 else 20

/-- Whether a copy's line may be used now (R175, R177). -/
def copyUsable (s : State) (line : Nat) (l : LineSt) : Bool :=
  l.valid && (match l.expiry with
    | none => true
    | some e => decide (timeNs s + guardNs s line < e))

/-- Forward a load from the requester's sector to the home (R288): the reply makes or refreshes a copy, or the request
goes on as `.stay` where no motion entry is free; a line whose lease ran out is renewed (R178). -/
def forwardHome (s : State) (arm : Nat) (r : Req) : State :=
  if r.home ≥ 1000 then sendAway s r else
  let a := armAt s arm
  let tile := r.line / 8
  let home := homeArm s r.part (128 * localLine r.line)
  let known := (tileAt? a tile).map (fun t => tileLine t r.line)
  -- a home that has changed since the request was sent may have its copies at another arm
  let here := asksLoad r.ask && polMoves r && armNumber s home == armNumber s r.home
  let room := here && ((tileAt? a tile).isSome || (motionFree a && !(inMotion a tile)))
  let s1 := if (tileAt? a tile).isSome || !room then s else takeEntry s arm tile (.fetch (policySlot r.pol) r.ctx true) r.served 0
  let due := arriveAt s (armSector arm) (armSector home) 0
  let stamp := match due with
    | .clk _ n => if armSector arm / 3 = armDie home then r.stamp else n
    | .ns n => n
  let port := if armSector arm / 3 = armDie home then 52 else 53
  let renew := match known with
    | some l => if l.expiry.isSome then some l.tag else none
    | none => none
  updReq s1 r.id (fun r => { r with phase := .travel, arm := home, home := home, due := due, stamp := stamp, port := port, renew := renew,
                                    copy := room, nest := if room then arm + 1 else 0, pol := if room then r.pol else 1, served := 0 })

/-- A load at a copy's arm: read the copy where its line may be used, and move the tile by the policy (R283); else forward it
(R288). -/
def copyServe (s : State) (arm : Nat) (r : Req) : State :=
  match tileAt? (armAt s arm) (r.line / 8) with
  | none => forwardHome s arm r
  | some t =>
    let l := tileLine t r.line
    if copyUsable s r.line l then
      travelTo (setReply (updReq s r.id (fun r => { r with data := l.data, tag := l.tag, poison := l.poison })) r 24) arm r t
    else
      forwardHome (if leadsMotion (armAt s arm) r then endTravel s arm t.tile else s) arm r

/-- A line of a copy takes newer words of its home; one whose lease has run out keeps them for a renewal (R178, R179). -/
def freshen (r : Req) (l : LineSt) : LineSt :=
  if (l.valid || l.expiry.isSome) && tagNewer r.tag l.tag then { l with tag := r.tag, data := r.data, poison := r.poison } else l

/-- Whether a request is to make or refresh the copy that the source of another request would read (R176, R179). -/
def sameHolder (x r : Req) : Bool :=
  match x.src, r.src with
  | .host _, .host _ => true
  | .host _, _ | _, .host _ | .link _ _, _ | _, .link _ _ => false
  | _, _ => x.sector == r.sector

/-- A request whose reply is to bring a line's words to a copy, or those words themselves, keeps newer words (R179). -/
def keepWords (r x : Req) : Req :=
  if x.id == r.id || x.line != r.line || !x.copy || x.stay || !(sameHolder x r) then x
  else if x.src == .cp then (if tagNewer r.tag x.tag then { x with tag := r.tag, data := r.data, poison := r.poison } else x)
  else if (match x.words with | some w => tagNewer r.tag w.1 | none => true) then { x with words := some (r.tag, r.data, r.poison) }
  else x

/-- The words that a reply brings to the copy that it makes: its own, or newer ones that have come before it. -/
def newestWords (r : Req) : Req :=
  match r.words with
  | some w => if tagNewer w.1 r.tag then { r with tag := w.1, data := w.2.1, poison := w.2.2 } else r
  | none => r

/-- A reply or acknowledgement with a tag newer than the copy that its source would read makes that copy apply its words, on their
way to the copy or in it (R176, R179, R326); a `.dram` load, whose bytes may be older than its tag, does not (R184). -/
def refreshCopy (s : State) (r : Req) : State :=
  -- the words of a reply that places the copy reach it by their own way (R288)
  if (r.pol == 3 && !(reqWrites r)) || (r.nest != 0 && !r.stay) then s else
  let s1 := { s with reqs := s.reqs.map (keepWords r) }
  match r.src with
  | .host _ => { s1 with hostCopies := s.hostCopies.map (fun p => if p.1 = r.line then (p.1, freshen r p.2) else p) }
  | _ =>
    let a := copyHome s r
    if ((tileAt? (armAt s a) (r.line / 8)).map (·.copy)) = some true then updArm s1 a (fun x => updTileLine x r.line (freshen r)) else s1

/-! ### Spiral requests (R294 to R299) -/

/-- The result of `hdist` (R295) for a tile found or not. -/
def hdistWord (s : State) (r : Req) : DWord :=
  let arm := r.arm
  let (d, sc, a) := logArm s r.ctx r.home
  let t := tileAt? (armAt s arm) (r.line / 8)
  let moving := betweenSlots (armAt s arm) (r.line / 8)
  let dirty := match t with
    | some t => !t.copy && t.lines.any (fun p => p.2.dirty)
    | none => false
  let pin := match t with
    | some t => t.pin.isSome
    | none => false
  let dist := match t with
    | some t => if moving then 0xFFF else t.slot
    | none => 0xFFF
  let copy := r.arm != r.home
  let b (x : Bool) (n : Nat) : Nat := if x then 2 ^ n else 0
  BitVec.ofNat 64 (d * 2 ^ 22 + sc * 2 ^ 20 + a * 2 ^ 16 + b copy 15 + b dirty 14 + b moving 13 + b pin 12 + dist)

/-- The result of `hocc` (R299). -/
def hoccWord (s : State) (r : Req) : DWord :=
  let (d, sc, n) := logArm s r.ctx r.home
  let a := armAt s r.home
  let k := occNumber a r.ctx
  let e := occEntry a k
  BitVec.ofNat 64 (d * 2 ^ 54 + sc * 2 ^ 52 + n * 2 ^ 48 + k * 2 ^ 44 + (if e.valid then 2 ^ 42 else 0) + e.pinlim * 2 ^ 33 +
    occPins a k * 2 ^ 24 + e.limit * 2 ^ 12 + occCount a k)

/-- Pin a present tile for the context of an `hpin` (R296). -/
def setPin (s : State) (arm : Nat) (r : Req) : State :=
  updArm s arm (fun a => updTile a (r.line / 8) (fun t => { t with pin := some r.ctx }))

/-- The spiral request that has set its tile in motion is answered when the tile has landed or left; it takes no landing register
(R285). Where nothing moves it is answered at once. -/
def awaitMotion (s : State) (arm : Nat) (r : Req) : State :=
  if inMotion (armAt s arm) (r.line / 8) then updReq s r.id (fun r => { r with phase := .parked, acked := true })
  else setReply s r 24

/-- The spiral requests that have set a tile in motion are answered, as requests performed in the clk after the landing are
(R285, R294). -/
def answerRiders (s : State) (arm tile : Nat) : State :=
  (s.reqs.filter (fun r => r.phase == .parked && r.acked && asksSpiral r.ask && r.arm == arm && r.line / 8 == tile &&
    !((armAt s arm).parked.any (fun p => p.2 == r.id)))).foldl (fun st r => setReply st r 25) s

/-- A spiral request that leaves its tile where it is: an entry that it has taken at its service is given up. -/
def leaveInPlace (s : State) (arm : Nat) (r : Req) : State :=
  setReply (if leadsMotion (armAt s arm) r then endTravel s arm (r.line / 8) else s) r 24

/-- An `hpin` for a present tile that it finds unpinned is granted or refused in the order of service (R296). -/
def grantPin (s : State) (arm : Nat) (r : Req) (t : Tile) : State :=
  if r.ask == .hpin && (pinAfter s arm t).isNone then
    updReq s r.id (fun x => if pinAllowed s arm r.ctx then { x with acked := true } else { x with result := 1 })
  else s

/-- A spiral request at a present tile that its wave has found, or that is performed after a landing (R294 to R299). -/
def spiralAct (s : State) (arm : Nat) (r : Req) (t : Tile) : State :=
  match r.ask with
  | .hdist _ => setReply (updReq s r.id (fun x => { x with result := hdistWord s r })) r 24
  | .hocc => setReply (updReq s r.id (fun x => { x with result := hoccWord s r })) r 24
  | .hunpin =>
    setReply (if t.pin = some r.ctx then updArm s arm (fun a => updTile a t.tile (fun t => { t with pin := none })) else s) r 24
  | .hpin =>
    if t.pin.isSome || !r.acked then leaveInPlace s arm r
    else
      let s1 := travelTo s arm r t
      if inMotion (armAt s1 arm) t.tile then awaitMotion s1 arm r else setReply (setPin s1 arm r) r 24
  | .hdemote true =>
    if t.pin.isSome || !(leadsMotion (armAt s arm) r) then leaveInPlace s arm r else awaitMotion (startLeave s arm t.tile) arm r
  | .hpre _ | .hdemote _ =>
    if t.pin.isSome || !(leadsMotion (armAt s arm) r) then leaveInPlace s arm r else awaitMotion (travelTo s arm r t) arm r
  | _ => setReply s r 24

/-- Whether a spiral request may need a motion-table entry (R294). -/
def asksMotion : Ask → Bool
  | .hpin | .hpre _ | .hdemote _ => true
  | _ => false

/-- Whether a spiral request needs a motion-table entry at the tile it names, which is at rest or absent (R294). -/
def needsEntry (s : State) (arm : Nat) (r : Req) : Bool :=
  asksMotion r.ask &&
  (match tileAt? (armAt s arm) (r.line / 8) with
    | some t => wouldMove s arm r t
    | none => (match r.ask with | .hpin => pinAllowed s arm r.ctx | .hpre _ => true | _ => false))

/-! ### Copies that replies place (R288) -/

/-- A line of a copy takes what a reply brings: a renewed lease, or words and a lease; newer words that it has stay (R178, R179,
R288). -/
def placeLine (r : Req) (l : LineSt) : LineSt :=
  let later := r.lease.map (fun e => max e (l.expiry.getD 0))
  if r.renew.isSome then (if l.expiry.isSome && !(tagNewer r.tag l.tag) then { l with valid := true, expiry := later } else l)
  else if (l.valid || l.expiry.isSome) && tagNewer l.tag r.tag then
    (if r.lease.isSome then { l with valid := true, expiry := later } else l)
  else { l with valid := true, tag := r.tag, data := r.data, expiry := r.lease, poison := r.poison }

/-- A sector keeps one copy of a line: one at another arm, from before a change of the home's number, is dropped (R175). -/
def dropOthers (s : State) (arm line : Nat) : State :=
  { s with arms := s.arms.map (fun p =>
      if p.1 != arm && armSector p.1 == armSector arm &&
        (match tileAt? p.2 (line / 8) with | some t => t.copy && (tileLine t line).valid | none => false) then
        (p.1, updTileLine p.2 line (fun l => { l with valid := false, expiry := none })) else p) }

/-- The words of a home's reply, kept for the copy as a request of the front itself, are applied to it (R288). -/
def placeWords (s : State) (arm : Nat) (r : Req) : State :=
  if ((tileAt? (armAt s arm) (r.line / 8)).map (·.copy)) = some true then
    let s1 := dropOthers (updArm s arm (fun a => updTileLine a r.line (placeLine r))) arm r.line
    match r.lease with
    | none => s1
    | some e => addDue s1 (.ns (e - guardNs s r.line)) 0 (.leaseExpiry arm r.line)
  else s

/-- The words of a reply have found the copy tile: they are applied, and the tile moves by the policy (R288). -/
def applyWords (s : State) (arm : Nat) (r : Req) (t : Tile) : State := travelTo (delReq (placeWords s arm r) r.id) arm r t

/-- Whether the words of a reply for a line are on their way to the copy in an arm, so that the line counts as valid (R288). -/
def wordsComing (s : State) (arm line : Nat) : Bool := s.reqs.any (fun r => r.src == .cp && r.arm == arm && r.line == line && r.copy)

/-! ### Serving -/

/-- The sector's bit joins a line's sharer mask where a read makes a write-update copy in another sector of the die; a lease copy is
not tracked (R288). -/
def addSharer (arm : Nat) (r : Req) (l : LineSt) : LineSt :=
  if r.copy && !r.stay && r.sector / 3 == armDie arm && decide (r.port < 54) then
    { l with sharers := l.sharers ||| sharerBit (armSector arm) r.sector }
  else l

/-- A request at a present tile at rest: read or applied, answered 24 clk from now, and the tile moved by its policy (R283,
R284). -/
def actPresent (s : State) (arm : Nat) (r : Req) (t : Tile) : State :=
  if asksSpiral r.ask then spiralAct s arm r t
  else if arm != r.home then (if r.src == .cp then applyWords s arm r t else copyServe s arm r)
  else if r.pol == 3 then toMemory s r
  else
    let s0 := updArm s arm (fun a => updTileLine a r.line (fun l => addSharer arm r { l with dirty := l.dirty || reqWrites r }))
    travelTo (setReply s0 r 24) arm r t

/-- A request that moves the present tile takes a motion-table entry for it (R302). -/
def startWave (s : State) (arm : Nat) (r : Req) (t : Tile) : State :=
  let now := (reqAt? s r.id).getD r
  if wouldMove s arm now t && motionFree (armAt s arm) then takeEntry s arm t.tile (.travel (moveTarget r)) r.served r.id else s

/-- A parked request is taken after a landing or a leaving (R285): one for a present tile is performed, and moves the tile where a
motion-table entry is free. One that had started the tile's fetch is answered. -/
def resumeReq (s : State) (arm : Nat) (r : Req) : State :=
  match tileAt? (armAt s arm) (r.line / 8) with
  | some t =>
    if r.acked && asksSpiral r.ask then setReply s r 24
    else
      let s1 := startWave (grantPin s arm r t) arm r t
      actPresent s1 arm ((reqAt? s1 r.id).getD r) t
  | none =>
    if r.acked && asksSpiral r.ask then setReply s r 24
    else if arm != r.home then (if r.src == .cp then delReq s r.id else copyServe s arm r)
    else if r.pol == 3 then toMemory s r
    else placeAbsent s arm r

/-- Take parked requests of a tile in parking order until one sets the tile in motion again, or waits for a motion-table entry
(R294): two in a clk after a landing, all of them after the tile has left (R285). -/
def takeParked (s : State) (arm tile : Nat) : State :=
  let all := ((armAt s arm).parked.filter (fun p => p.1 == tile)).map (·.2)
  let ids := if (tileAt? (armAt s arm) tile).isSome then all.take 2 else all
  unpark (ids.foldl (fun (acc : State × Bool) id =>
    if acc.2 || inMotion (armAt acc.1 arm) tile then acc
    else
      match reqAt? acc.1 id with
      | none => (updArm acc.1 arm (fun a => { a with parked := a.parked.filter (fun p => p.2 != id) }), false)
      | some r =>
        if !r.acked && needsEntry acc.1 arm r && !(motionFree (armAt acc.1 arm)) then (acc.1, true)
        else (resumeReq (updArm acc.1 arm (fun a => { a with parked := a.parked.filter (fun p => p.2 != id) })) arm r, false))
    (s, false)).1 arm tile

/-- Whether the home grants a renewal (R178): the carried tag is current and the old expiry has not passed. -/
def checkRenew (s : State) (r : Req) : State :=
  match r.renew with
  | none => s
  | some tg =>
    let arm := copyHome s r
    let alive := match tileAt? (armAt s arm) (r.line / 8) with
      | none => false
      | some t => (match (tileLine t r.line).expiry with | some e => decide (timeNs s < e) | none => false)
    if tg = r.tag && alive then s else updReq s r.id (fun r => { r with renew := none })

/-- A request that finds no motion-table entry for the tile it would fetch or move is served as `.stay` (R283, R302), and makes
no copy; at the arm of a copy it reads the copy, or goes on to the home as `.stay`. A spiral request never is (R294). -/
def settleServed (s : State) (arm : Nat) (r : Req) : State :=
  let a := armAt s arm
  let tile := r.line / 8
  let want := match tileAt? a tile with
    | some t => wouldMove s arm r t
    | none => arm == r.home
  if polMoves r && !(asksSpiral r.ask) && !(inMotion a tile) && !(hasParked a tile) && want && !(motionFree a) then
    updReq s r.id (fun x => if arm == r.home then { x with pol := 1, stay := true, renew := none } else { x with pol := 1 })
  else s

/-- A served request leaves the queue; at its home its value takes its place in the line order (R282). -/
def performServed (s : State) (arm id : Nat) : State :=
  match reqAt? s id with
  | none => s
  | some r =>
    let (n, s0) := newId (updArm s arm (fun a => { a with queue := a.queue.filter (· != id) }))
    let s1 := updReq s0 id (fun r => { r with since := armClk s arm, phase := .wave, served := n })
    if arm != r.home then s1
    else
      let s2 := performReq s1 arm r (r.pol == 3)
      match reqAt? s2 id with
      | none => s2
      | some r => checkRenew s2 r

/-- What follows for a served request (R283 to R285): it is parked on a tile in motion, its lookup wave starts, or the
tile is absent. -/
def placeServed (s : State) (arm id : Nat) : State :=
  match reqAt? s id with
  | none => s
  | some r =>
    let tile := r.line / 8
    let a := armAt s arm
    let dist := match r.ask with | .hdist _ => true | _ => false
    let waitsLock := match r.ask with | .lock _ => r.result == 2 | _ => false
    if waitsLock then
      { updReq s id (fun r => { r with phase := .parked }) with
        lockq := s.lockq ++ (match r.ask with | .lock cell => [(cell, id)] | _ => []) }
    else if dist && betweenSlots a tile then setReply (updReq s id (fun x => { x with result := hdistWord s r })) r 24
    else if inMotion a tile || hasParked a tile then parkReq s arm r
    else
      match r.ask, tileAt? a tile with
      | .hocc, _ => setReply (updReq s id (fun x => { x with result := hoccWord s r })) r 24
      | .hdist _, none => setReply (updReq s id (fun x => { x with result := hdistWord s r })) r 24
      | _, some t =>
        if asksSpiral r.ask then startWave (grantPin s arm r t) arm r t
        else if arm = r.home then (if r.pol == 3 then toMemory s r else startWave s arm r t)
        else if asksLoad r.ask && (copyUsable s r.line (tileLine t r.line) || wordsComing s arm r.line) then startWave s arm r t
        else forwardHome s arm r
      | _, none =>
        if arm != r.home && !(asksSpiral r.ask) then forwardHome s arm r
        else if r.pol == 3 then toMemory s r
        else placeAbsent s arm r

def serveOne (s : State) (arm id : Nat) : State :=
  match reqAt? s id with
  | none => s
  | some r => placeServed (performServed (settleServed s arm r) arm id) arm id

/-- Whether the front can serve a queued request now (R285, R294): no earlier request of its source stands in its way (R166), a
landing register for a request that is parked, and a motion entry for a spiral request that needs one. -/
def servable (s : State) (arm : Nat) (r : Req) : Bool :=
  let a := armAt s arm
  let tile := r.line / 8
  let room := decide (a.parked.length < 64)
  let dist := match r.ask with | .hdist _ => betweenSlots a tile | _ => false
  let fetches := (tileAt? a tile).isNone && arm == r.home &&
    (needsEntry s arm r || (polMoves r && !(asksSpiral r.ask) && motionFree a))
  !(earlierUnserved s r) &&
  (dist || (if inMotion a tile || hasParked a tile then room
    else (!(needsEntry s arm r) || motionFree a) && (!fetches || room)))

/-- Order of service (R282): those that have waited 95 clk, then by age stamp, then by port. -/
def serveBefore (s : State) (arm : Nat) (x y : Req) : Bool :=
  let old (r : Req) : Bool := decide (r.since + 95 ≤ armClk s arm)
  if old x != old y then old x
  else if x.stamp != y.stamp then decide (x.stamp < y.stamp)
  else if x.port != y.port then decide (x.port < y.port)
  else decide (x.id < y.id)

/-- The queued request that the front serves next, if one can be served: first those that have waited for a motion-table entry,
in the order of their arrival (R294). -/
def nextServed (s : State) (arm : Nat) : Option Req :=
  let rs := ((armAt s arm).queue.filterMap (reqAt? s)).filter (servable s arm)
  match rs.find? (·.waits) with
  | some r => some r
  | none => rs.foldl (fun best r =>
    match best with
    | none => some r
    | some b => if serveBefore s arm r b then some r else some b) none

/-- A queued request that its front cannot serve waits on: the clk does not count against its bound, and one for want of a
motion-table entry is noted (R282, R285, R294). -/
def waitOn (s : State) (r : Req) : Req :=
  if r.phase == .queued && (armAt s r.arm).queue.contains r.id && !(servable s r.arm r) then
    { r with since := r.since + 1,
             waits := r.waits || (!(inMotion (armAt s r.arm) (r.line / 8)) && needsEntry s r.arm r && !(motionFree (armAt s r.arm))) }
  else r

def serveNext (s : State) (arm : Nat) : State :=
  match nextServed s arm with
  | none => s
  | some r => serveOne s arm r.id

/-- FRONT_SERVE: up to two requests of the queue in this clk (R282). -/
def execFrontServe (arm : Nat) (s : State) : Host.Outcome State Fault Refusal :=
  .next (updArm (serveNext (serveNext s arm) arm) arm (fun a => { a with served := true }))

/-- A request enters the queue of its front, or is held at a block's new home until the old one is empty (R282, R188). -/
def enterFront (s : State) (id : Nat) (r : Req) : State :=
  let block := localLine r.line / 512
  let s1 := updReq s id (fun r => { r with phase := .queued, since := armClk s r.arm })
  if heldBlock s r.arm block && r.arm == r.home then holdReq s1 r.arm block id
  else updArm s1 r.arm (fun a => { a with queue := a.queue ++ [id], accepted := a.accepted + 1 })

/-- Whether a request for another module leaves its post queue now, by its die's link unit (R320). -/
def awayReady (s : State) (r : Req) : Bool := r.phase == .travel && r.away && whenDue s r.due

/-- Send a request on from the old home of its block to the new one (R188). -/
def forwardReq (s : State) (r : Req) (toArm : Nat) : Req :=
  let due := arriveAt s (armSector r.arm) (armSector toArm) 0
  let stamp := match due with
    | .clk _ n => if armDie r.arm = armDie toArm then r.stamp else n
    | .ns n => n
  { r with arm := toArm, home := toArm, due := due, stamp := stamp, fwd := true, port := forwardPort r r.arm toArm
           stay := r.stay || armNumber s r.arm != armNumber s toArm, phase := .travel }

/-- FRONT_ACCEPT: a request reaches a front and enters its queue (R282), is forwarded by an old home, or is held at a new
one until the old one is empty (R188); one for another module goes out by a link (R320). -/
def execFrontAccept (id : Nat) (s : State) : Host.Outcome State Fault Refusal :=
  .next (match reqAt? s id with
    | none => s
    | some r =>
      if r.away then (if awayReady s r then sendAway s r else s) else
      let a := armAt s r.arm
      let block := localLine r.line / 512
      match a.forwards.find? (fun f => f.block == block && r.arm == r.home) with
      | some f => updReq s id (fun r => forwardReq s r f.toArm)
      | none =>
        enterFront s id r)

/-- WAVE_FIND: the lookup wave finds the tile; the data are read or the write applied, and the reply leaves as R281 gives
(R284). -/
def execWaveFind (id : Nat) (s : State) : Host.Outcome State Fault Refusal :=
  .next (match reqAt? s id with
    | none => s
    | some r =>
      match tileAt? (armAt s r.arm) (r.line / 8) with
      | none => resumeReq s r.arm r
      | some t => actPresent s r.arm r t)

/-- A tile that ends its fetch is inserted (R283), where the arm was full in the slot that a victim has left. -/
def putTile (s : State) (arm tile target owner : Nat) (copy : Bool) (hole : Nat) : State :=
  updArm s arm (fun a => { endMotion (insertAt a ⟨tile, 0, 0, copy, owner, none, []⟩ target hole) tile with inserted := true })

/-- Whether the insertion of a tile waits for its victim to leave (R287). -/
def waitsForSlot (a : ArmSt) (tile : Nat) : Bool :=
  a.motion.any (fun m => match m.kind with | .leave _ heir => heir == tile + 1 | _ => false)

/-- A fetched tile, or a copy tile whose reply has come, lands in an empty slot, or in a full arm in place of a victim, for which it
waits where the victim has drops or a write-back to complete (R287). An arm removes one tile a clk (R283), so that the landing
may have to wait. -/
def landTile (s : State) (arm tile target owner : Nat) (copy : Bool) : State :=
  let a := armAt s arm
  if waitsForSlot a tile then s
  else if !(armFull a) then putTile s arm tile target owner copy (firstEmpty a)
  else
    match (if a.removed then none else victimOf s arm owner) with
    | none => afterClk s (armDie arm) 1 3 (.tileLand arm tile)
    | some v =>
      if leavesAtOnce v then putTile (evictNow s arm v) arm tile target owner copy v.slot
      else if motionFree a then evictFor s arm v tile
      else putTile (evictSwap s arm v) arm tile target owner copy v.slot

/-- Re-pin a fetched tile that lost its pin in a home change, where the new arm's limits allow (R291). -/
def repin (s : State) (arm tile : Nat) : State :=
  match (armAt s arm).repins.find? (fun p => p.1 == tile) with
  | none => s
  | some p =>
    let s1 := updArm s arm (fun a => { a with repins := a.repins.filter (fun q => q.1 != tile) })
    if pinAllowed s1 arm p.2 then
      updArm s1 arm (fun a => updTile a tile (fun t => { t with pin := some p.2, owner := p.2 }))
    else s1

/-- Pin a landed tile for the `hpin` request that started its motion (R296). -/
def pinLanded (s : State) (arm tile : Nat) : State :=
  (s.reqs.filter (fun r => r.ask == .hpin && r.acked && r.phase == .parked && r.arm == arm && r.line / 8 == tile)).foldl (fun st r =>
    setPin st arm r) s

/-- The words of the replies that brought a copy tile are applied at its landing (R288). -/
def wordsLanded (s : State) (arm tile : Nat) : State :=
  (s.reqs.filter (fun r => r.src == .cp && r.copy && r.arm == arm && r.line / 8 == tile && r.phase == .memory)).foldl (fun st r =>
    delReq (placeWords st arm r) r.id) s

/-- The other landings of an arm that are due in this clk are deferred (R303). -/
def deferLandings (s : State) (arm : Nat) : State :=
  let late := s.agenda.filterMap (fun d => match d.ev with
    | .tileLand a t => if a == arm && landsLater (armAt s arm) t && whenDue s d.moment then some t else none
    | _ => none)
  updArm s arm (fun a => { a with late := (a.late ++ late).dedup })

/-- What follows the landing of a tile: copies' words are applied, pins set, the requests that moved it answered, and its parked
requests are taken from the next clk on (R285, R288, R291, R296). -/
def landed (s : State) (arm tile : Nat) : State :=
  unpark (answerRiders (pinLanded (repin (wordsLanded (deferLandings s arm) arm tile) arm tile) arm tile) arm tile) arm tile

/-- TILE_LAND (R285): a tile lands; for a tile at rest the parked requests of this clk are taken. -/
def execTileLand (arm tile : Nat) (s : State) : Host.Outcome State Fault Refusal :=
  .next (match motionOf? (armAt s arm) tile with
    | some (.travel target) =>
      landed (updArm s arm (fun a => { endMotion (moveTile a tile target) tile with inserted := true })) arm tile
    | some (.fetch target owner copy) =>
      let s1 := landTile s arm tile target owner copy
      if inMotion (armAt s1 arm) tile then s1 else landed s1 arm tile
    | some (.leave _ _) => s
    | none => takeParked s arm tile)

/-- MEMORY_REPLY: memory has returned the data or acknowledged the write (R281, R283). -/
def execMemoryReply (_arm _tile id : Nat) (s : State) : Host.Outcome State Fault Refusal :=
  .next (match reqAt? s id with
    | none => s
    | some r => setReply s r 24)

/-- A sector no longer holds a copy of a line: its bit leaves the line's sharers (R289), which name the two other sectors of
the home's die. -/
def unshare (s : State) (arm line sector : Nat) : State :=
  if sector / 3 != armDie arm then s
  else updArm s arm (fun a => updTileLine a line (fun l => { l with sharers := l.sharers &&& ~~~(sharerBit (armSector arm) sector) }))

/-- Whether a sector has made a new copy of a line since it dropped the old one, or has one under way: its bit stays (R289). -/
def sharesAgain (s : State) (arm line sector : Nat) : Bool :=
  (match tileAt? (armAt s (armOfNumber s sector (armNumber s arm))) (line / 8) with
    | some t => t.copy && (tileLine t line).valid
    | none => false) || s.reqs.any (fun r => copyUnderWay r line && r.sector == sector)

/-- Whether a drop of a tile's lines is on its way to a copy, or its acknowledgement back (R289). -/
def dropsLeft (s : State) (arm tile : Nat) : Bool :=
  s.updates.any (fun u => u.drop && u.home == arm && u.line / 8 == tile) ||
  s.agenda.any (fun d => match d.ev with | .sharerDropAck a line _ => a == arm && line / 8 == tile | _ => false)

/-- SHARER_DROP_ACK: a sector has dropped its copy of a line (R289); a leaving tile of which no drop is left writes its
dirty lines back, or has left. -/
def execSharerDropAck (arm line sector : Nat) (s : State) : Host.Outcome State Fault Refusal :=
  .next (match motionOf? (armAt s arm) (line / 8) with
    | some (.leave w _) =>
      let s2 := unshare s arm line sector
      if dropsLeft s2 arm (line / 8) then s2
      else if w then
        addDue { s2 with freeCount := s2.freeCount + 1 } (.ns (upNs s2 + dramNs s2)) 3 (.tileLeaveComplete arm (line / 8))
      else afterClk s2 (armDie arm) 0 3 (.tileLeaveComplete arm (line / 8))
    | _ => if sharesAgain s arm line sector then s else unshare s arm line sector)

/-- An update leaves the list, and its request waits for one update less. -/
def takeUpdate (s : State) (u : Update) : State :=
  updReq { s with updates := s.updates.filter (fun x => x.id != u.id) } u.req (fun r => { r with updates := r.updates - 1 })

/-- The copy a sector holds takes an update's words and poison mark, or is dropped; words of the whole line clear the mark (R292). An
update older than the copy changes nothing (R288). -/
def applyUpdate (s : State) (u : Update) : State :=
  match tileAt? (armAt s u.arm) (u.line / 8) with
  | none => takeUpdate s u
  | some t =>
    if !t.copy then takeUpdate s u
    else if u.drop then
      updArm (takeUpdate s u) u.arm (fun a => updTileLine a u.line (fun l => { l with valid := false, expiry := none }))
    else if (tileLine t u.line).valid && tagNewer u.tag (tileLine t u.line).tag then
      let whole := (List.range 128).all (fun i => u.bytes.any (fun p => p.1 == i))
      updArm (takeUpdate s u) u.arm (fun a => updTileLine a u.line (fun l =>
        { l with tag := u.tag, data := msetAll 0 u.bytes (tileLine t u.line).data, poison := u.poison || (l.poison && !whole) }))
    else takeUpdate s u

/-- Whether earlier words for a copy of a line are still to be applied, so that later ones wait (R288: tag order). -/
def olderUpdate (s : State) (u : Update) : Bool :=
  s.updates.any (fun x => x.arm == u.arm && x.line == u.line && decide (x.id < u.id))

/-- WRITE_UPDATE_WORDS: new words, or a drop, reach the copy of a sector and are applied in tag order (R288); a copy tile
in motion takes them when it has landed. -/
def execWriteUpdateWords (id : Nat) (s : State) : Host.Outcome State Fault Refusal :=
  .next (match s.updates.find? (fun u => u.id == id) with
    | none => s
    | some u =>
      if inMotion (armAt s u.arm) (u.line / 8) || olderUpdate s u || s.reqs.any (fun r => copyUnderWay r u.line && r.sector == u.sector) then
        afterClk s (armDie u.arm) 1 3 (.writeUpdateWords id)
      else if u.drop then
        afterClk (applyUpdate s u) (armDie u.home) (1 + transitClk (armSector u.arm) (armSector u.home)) 3
          (.sharerDropAck u.home u.line u.sector)
      else applyUpdate s u)

/-- Whether the words of a reply would need a landing register at the arm of the copy and none is free, so that the reply waits
(R285, R288). -/
def wordsWait (s : State) (r : Req) : Bool :=
  let a := armAt s (copyHome s r)
  let tile := r.line / 8
  !r.stay && decide (64 ≤ a.parked.length) &&
    (match motionOf? a tile with
      | some (.fetch _ _ true) => false
      | some _ => true
      | none => (tileAt? a tile).isSome && hasParked a tile)

/-- The home's reply reaches the arm of the copy (R288): its words, or the lease that it renews, land with the tile they brought,
find the present tile by a wave of their own, or are parked on a tile in motion; where the copy tile is gone they make none. -/
def bringWords (s : State) (arm : Nat) (r0 : Req) : State :=
  let r := newestWords r0
  let tile := r.line / 8
  let a := armAt s arm
  let (id, s1) := newId s
  let w : Req := { r with id := id, src := .cp, uid := 0, op := 0, arm := arm, since := armClk s arm, acked := false, served := id }
  let add (p : ReqPhase) : State := { s1 with reqs := s1.reqs ++ [{ w with phase := p }] }
  match motionOf? a tile, tileAt? a tile with
  | some (.fetch _ _ true), _ =>
    if r.renew.isSome then s
    else if waitsForSlot a tile || s.agenda.any (fun d => d.ev == .tileLand arm tile) then add .memory
    else afterClk (add .memory) (armDie arm) 0 3 (.tileLand arm tile)
  | some _, _ => parkReq (add .wave) arm w
  | none, some t => if hasParked a tile then parkReq (add .wave) arm w else startWave (add .wave) arm w t
  | none, none => s

/-- The arm of a copy learns that the reply makes none: the motion-table entry is freed, and what was parked on it goes on
(R283, R288). -/
def endNest (s : State) (arm : Nat) (r : Req) : State :=
  match motionOf? (armAt s arm) (r.line / 8) with
  | some (.fetch _ _ true) => endTravel s arm (r.line / 8)
  | _ => s

/-- A first copy of a line of another module takes its motion-table entry when the reply comes, which is what names the home's arm
(R288, R325; DESIGN CHOICE, log 88). -/
def openNest (s : State) (arm : Nat) (r : Req) : State :=
  let a := armAt s arm
  let tile := r.line / 8
  if lineModule r.line != s.module && (tileAt? a tile).isNone && !(inMotion a tile) && !(hasParked a tile) && motionFree a &&
    armInColour s r.part arm then takeEntry s arm tile (.fetch (policySlot r.pol) r.ctx true) r.served 0
  else s

/-- COPY_TILE_REPLY: the home's reply reaches the requesting sector and makes or refreshes its copy, unless it was served as
`.stay` (R288). -/
def execCopyTileReply (id : Nat) (s : State) : Host.Outcome State Fault Refusal :=
  .next (match reqAt? s id with
    | none => s
    | some r =>
      let arm := copyHome s r
      let s1 := updReq s id (fun r => { r with copy := false, nest := arm + 1 })
      match r.src with
      | .host _ =>
        if r.stay then s1
        else { s1 with hostCopies := mput r.line (placeLine (newestWords r) ((mfind r.line s.hostCopies).getD LineSt.clean)) s.hostCopies }
      | _ => if r.stay then endNest s1 arm r else bringWords (openNest s1 arm r) arm r)

/-- LEASE_RENEWAL: the home grants a new expiry without data where the carried tag is current and the renewal came before
the old expiry (R178); it finds the copy tile by a wave as any reply does, and the copy's words stay (R288). -/
def execLeaseRenewal (id : Nat) (s : State) : Host.Outcome State Fault Refusal :=
  .next (match reqAt? s id with
    | none => s
    | some r =>
      let arm := copyHome s r
      bringWords (updReq s id (fun x => { x with copy := false, nest := arm + 1, renew := none })) arm r)

/-- LEASE_EXPIRY: a copy's lease has run out by the holder's clock (R177). -/
def execLeaseExpiry (arm line : Nat) (s : State) : Host.Outcome State Fault Refusal :=
  .next (match tileAt? (armAt s arm) (line / 8) with
    | none => s
    | some t =>
      match (tileLine t line).expiry with
      | some e =>
        if e ≤ timeNs s + guardNs s line then updArm s arm (fun a => updTileLine a line (fun l => { l with valid := false })) else s
      | none => s)

end Sys2Proof.Machine
end

