-- ==== Sys2Proof/Machine/Memory.lean ====
section
/-!
DEFINITION. Memory instructions of 07 (R158 to R172): addresses and their checks, scratchpad accesses (R160 to R162),
translation of an instruction's accesses and its requests (R163, R190), fences (R169), atomics and reductions (R170 to
R172).
-/
namespace Sys2Proof.Machine

/-- Consecutive words of a wide form, 1 otherwise (R160, R163). -/
def wideCount (o : Op) (f : ExtWord) : Nat :=
  match o with
  | .vldw | .vstw | .vldsw | .vstsw => (imm8 f.sc).toNat
  | _ => 1

/-- The access size in bytes (R158). -/
def accSize (o : Op) (f : ExtWord) : Nat :=
  match o with
  | .vldk | .vstk => 4
  | .vprf => 1
  | _ => wideCount o f * (tyWidth f.ty.toNat / 8)

/-- The offset of a lane (R158): a vector element, a scalar's full value, `%lane`, or an immediate. A form with one address for
every lane takes the lowest selected lane's `%lane` (DESIGN CHOICE, log 85). A scalar's 64 bits count as unsigned in the exact sum of a
scratchpad address, so that a negative offset lies far above the allocation (DESIGN CHOICE, log 91). -/
def memOffset (s : State) (c : Ctx) (vec : Bool) (l : Nat) : Int :=
  let r := c.f.sb.toNat
  match kindOf c.f 2 with
  | 0 => if vec then (vread c.g r l).toNat else (sread c.g r).toNat
  | 1 => if r = 0x40 then (if vec then l else (lanesOf c.sel).headD 0) else (kind1 s c r).toNat
  | _ => (srcS s c 2).toInt

/-- The virtual address of a lane's access (R158). -/
def globalAddr (s : State) (c : Ctx) (vec : Bool) (l : Nat) : Nat :=
  wrapN 64 ((srcS s c 1).toNat + memOffset s c vec l)

/-- The scratchpad address of a lane's access, an exact integer (R158). -/
def spadAddr (s : State) (c : Ctx) (vec : Bool) (l : Nat) : Int :=
  ((srcS s c 1).toNat % 2 ^ 32 : Nat) + memOffset s c vec l

/-! ### Scratchpad -/

/-- The bytes of the data allocation that a group may access (R94, R101). -/
def spadBytes (s : State) (g : Group) : Nat :=
  if g.moved then 0 else ((teamAt? s g.team).map (fun t => t.spadKiB * 1024)).getD 0

/-- Whether bytes lo to hi (not included) overlap a guard entry of a core that forbids the access (R271): any entry for a
write, a write entry for a read. -/
def guarded (s : State) (core team lo hi : Nat) (write : Bool) : Bool :=
  (coreAt s core).guards.any (fun g => g.team == team && (write || g.write) && decide (lo < g.hi) && decide (g.lo < hi))

/-- The first check of R159 that fails for a list of scratchpad accesses: fault code and lanes. -/
def spadCheck (s : State) (c : Ctx) (accs : List (Nat × Int)) (size : Nat) (write : Bool) : Option (Nat × Word × Nat) :=
  let mis := accs.filter (fun p => p.2 % (size : Int) != 0)
  let out := accs.filter (fun p => decide (p.2 < 0) || decide ((spadBytes s c.g : Int) < p.2 + (size : Int)))
  let grd := accs.filter (fun p => guarded s c.g.core c.g.team p.2.toNat (p.2.toNat + size) write)
  let rec_ (code : Nat) (l : List (Nat × Int)) : Nat × Word × Nat :=
    (code, maskOf (l.map (·.1)), wrapN 64 ((l.map (·.2)).headD 0))
  if !mis.isEmpty then some (rec_ 0x06 mis)
  else if !out.isEmpty then some (rec_ 0x05 out)
  else if !grd.isEmpty then some (rec_ 0x07 grd)
  else none

/-- The number of passes P (R161): the most distinct words that the accesses touch in one bank, at least 1. -/
def passCount (words : List Nat) : Nat :=
  let ws := words.dedup
  max 1 (((List.range 64).map (fun b => (ws.filter (fun w => w % 64 == b)).length)).foldl max 0)

/-- The words that accesses of a size touch. -/
def wordsTouched (accs : List (Nat × Int)) (size : Nat) : List Nat :=
  (accs.map (fun p => (List.range ((size + 3) / 4)).map (fun i => p.2.toNat / 4 + i))).flatten

/-- The lane value that a load of a type makes of its bytes (R159). -/
def loadExtend (t x : Nat) : Nat :=
  let w := tyWidth t
  if w < 32 && tySigned t then wrapN 32 (intOf true w x) else x % 2 ^ w

/-- Register writes of a load: (register, lane, word) for one lane's bytes as a number of words or one element. -/
def loadWords (o : Op) (f : ExtWord) (lane : Nat) (x : Nat) : List (Nat × Nat × Word) :=
  let d := f.d.toNat
  let n := wideCount o f
  if n > 1 || tyWidth f.ty.toNat = 64 then
    (List.range (max n (tyWidth f.ty.toNat / 32))).map (fun i => (d + i, lane, BitVec.ofNat 32 (x / 2 ^ (32 * i))))
  else [(d, lane, BitVec.ofNat 32 (loadExtend f.ty.toNat x))]

/-- The bytes that a store writes for one lane (R159, R160). -/
def storeBytes (c : Ctx) (l : Nat) : List Byte :=
  let d := c.f.d.toNat
  let n := wideCount c.op c.f
  let words := if n > 1 then n else (tyWidth c.f.ty.toNat + 31) / 32
  ((List.range words).map (fun i => leBytes 4 (vread c.g (d + i) l).toNat)).flatten.take (accSize c.op c.f)

/-- Put a scratchpad access in flight (R144, R161): the port is held for P clk, and the access completes `base` + P clk
after issue. -/
def spadFlight (s : State) (c : Ctx) (f : Flight) (base p : Nat) : State :=
  let s1 := holdUnit (launchFlight s c f) c.g.core .spad p
  afterClk s1 (coreDie c.g.core) (base + p - 1) 3 (.spadAccessComplete c.id)

/-- The scratchpad accesses of an instruction: selected lane and address (R158, R160). -/
def spadAccs (s : State) (c : Ctx) (vec : Bool) : List (Nat × Int) := (lanesOf c.sel).map (fun l => (l, spadAddr s c vec l))

/-- The scratchpad of a group's team (R94). -/
def teamSpad (s : State) (team : Nat) : SMap Byte := ((teamAt? s team).map (·.spad)).getD []

/-- What a vector scratchpad load has read, one word per register and lane (R160). -/
def spadLoaded (c : Ctx) (s : State) : List (Nat × Nat × Word) :=
  ((spadAccs s c true).map (fun p =>
    loadWords c.op c.f p.1 (readNat (teamSpad s c.g.team) p.2.toNat (accSize c.op c.f)))).flatten

/-- A vector scratchpad load (R160): the bytes are those of the stores that issued before it (R162). -/
def loadSpad (c : Ctx) (s : State) : State :=
  spadFlight s c { newFlight c .spad with
    dests := destRegs c.op c.f
    data := (spadLoaded c s).map (fun w => (32 * w.1 + w.2.1, w.2.2.setWidth 64)) } 6
    (passCount (wordsTouched (spadAccs s c true) (accSize c.op c.f)))

def ownSpadLoad (c : Ctx) (s : State) : Verdict :=
  match spadCheck s c (spadAccs s c true) (accSize c.op c.f) false with
  | some (code, m, a) => .raise code 0 m a
  | none => .act (loadSpad c s)

/-- The bytes that a vector scratchpad store writes, lane by lane (R160). -/
def spadStored (c : Ctx) (s : State) : List (Nat × Byte) :=
  ((spadAccs s c true).map (fun p => bytesAt p.2.toNat (storeBytes c p.1))).flatten

/-- Write bytes into a team's scratchpad in their order. -/
def putSpad (s : State) (team : Nat) (bs : List (Nat × Byte)) : State :=
  updTeam s team (fun t => { t with spad := writeBytes t.spad bs })

/-- A scratchpad store of P passes: it is performed in the clk of its last pass (R161), which for one pass is the clk of its
issue. -/
def spadStore (s : State) (c : Ctx) (bs : List (Nat × Byte)) (p : Nat) : State :=
  if p ≤ 1 then spadFlight (putSpad s c.g.team bs) c { newFlight c .spad with at1 := c.clk } 2 p
  else
    afterClk (spadFlight s c { newFlight c .spad with at1 := c.clk + p - 1, at2 := c.g.team, mems := bs } 2 p) (coreDie c.g.core)
      (p - 1) 3 (.spadAccessComplete c.id)

/-- A vector scratchpad store (R160): the highest-numbered lane's byte stays. -/
def storeSpad (c : Ctx) (s : State) : State :=
  spadStore s c (spadStored c s) (passCount (wordsTouched (spadAccs s c true) (accSize c.op c.f)))

def ownSpadStore (c : Ctx) (s : State) : Verdict :=
  match spadCheck s c (spadAccs s c true) (accSize c.op c.f) true with
  | some (code, m, a) => .raise code 0 m a
  | none => .act (storeSpad c s)

/-- The one address of `vldk` and `vstk`, for every selected lane. -/
def maskAccs (s : State) (c : Ctx) : List (Nat × Int) := (lanesOf c.sel).map (fun l => (l, spadAddr s c false 0))

/-- `vldk` (R160): the bits of the selected lanes of kD. -/
def loadMask (c : Ctx) (s : State) : State :=
  spadFlight s c { newFlight c .spad with
    dests := destRegs c.op c.f
    vals := [BitVec.ofNat 64 (readNat (teamSpad s c.g.team) (spadAddr s c false 0).toNat 4)] } 6 1

def ownVldk (c : Ctx) (s : State) : Verdict :=
  match spadCheck s c (maskAccs s c) 4 false with
  | some (code, m, x) => .raise code 0 m x
  | none => .act (loadMask c s)

/-- `vstk` (R160). -/
def storeMask (c : Ctx) (s : State) : State :=
  spadStore s c (bytesAt (spadAddr s c false 0).toNat (leBytes 4 (kread c.g c.f.d.toNat).toNat)) 1

def ownVstk (c : Ctx) (s : State) : Verdict :=
  match spadCheck s c (maskAccs s c) 4 true with
  | some (code, m, x) => .raise code 0 m x
  | none => .act (storeMask c s)

def execVlds (f : BaseWord) (s : State) : Host.Outcome State Fault Refusal := issue .vlds (.base f) ownSpadLoad s
def execVldsExt (f : XWord) (s : State) : Host.Outcome State Fault Refusal := issue .vlds f.toWord3 ownSpadLoad s
def execVldsw (f : ExtWord) (s : State) : Host.Outcome State Fault Refusal := issue .vldsw (.ext f) ownSpadLoad s
def execVsts (f : BaseWord) (s : State) : Host.Outcome State Fault Refusal := issue .vsts (.base f) ownSpadStore s
def execVstsExt (f : XWord) (s : State) : Host.Outcome State Fault Refusal := issue .vsts f.toWord3 ownSpadStore s
def execVstsw (f : ExtWord) (s : State) : Host.Outcome State Fault Refusal := issue .vstsw (.ext f) ownSpadStore s
def execVldk (f : ExtWord) (s : State) : Host.Outcome State Fault Refusal := issue .vldk (.ext f) ownVldk s
def execVstk (f : ExtWord) (s : State) : Host.Outcome State Fault Refusal := issue .vstk (.ext f) ownVstk s

/-- SPAD_ACCESS_COMPLETE: the last pass of a store is performed, or a scratchpad access ends; a load's registers become full
(R161). -/
def execSpadAccessComplete (op : Nat) (s : State) : Host.Outcome State Fault Refusal :=
  .next (match flightAt? s op with
    | none => s
    | some f =>
      if !(f.mems.isEmpty) then putSpad (updFlight s op (fun f => { f with mems := [] })) f.at2 f.mems
      else
      let s1 := updGroup s f.uid (fun g =>
        let g1 := f.data.foldl (fun g p => ownWrite g op (p.1 / 32) (p.1 % 32) (p.2.setWidth 32)) g
        match f.vals with
        | [x] => if ownsReg g1 ⟨.k, f.f.d.toNat⟩ op then kwrite g1 f.f.d.toNat (f.sel &&& g.alive) (x.setWidth 32) else g1
        | _ => g1)
      completeFlight s1 f)

/-! ### Translation of an instruction's accesses (R190) -/

/-- Context, partition and core of a flight's group. -/
def flightPart (s : State) (f : Flight) : Nat := (f.origin.map (·.part)).getD (((anyGroup? s f.uid).map (groupPart s)).getD 0)
def flightCtx (s : State) (f : Flight) : Nat := (f.origin.map (·.ctx)).getD (((anyGroup? s f.uid).map (groupCtx s)).getD 0)
def flightCore (s : State) (f : Flight) : Nat := (f.origin.map (·.core)).getD (((anyGroup? s f.uid).map (·.core)).getD 0)
def flightSlot (s : State) (f : Flight) : Nat := (f.origin.map (·.slot)).getD (((anyGroup? s f.uid).map (·.slot)).getD 0)

/-- Permissions that an access needs: read, write (R353). -/
def needsRead (f : Flight) : Bool :=
  match f.work with
  | .store => false
  | _ => true
def needsWrite (f : Flight) : Bool :=
  match f.work with
  | .store | .reduce | .atomic => true
  | .promise => !(f.op == .ppoll || f.op == .pfind)
  | _ => false

/-- The cause for which a lane's translation fails, if it does (R353). -/
def laneCause (f : Flight) (a : LaneAcc) : Option Nat :=
  if badVa a.va then some 2 else (f.failT.find? (fun p => p.1 == a.lane)).map (·.2)

/-- Whether the mapping forbids a lane's access. -/
def laneForbidden (s : State) (part : Nat) (f : Flight) (a : LaneAcc) : Bool :=
  match tlbFind s part a.va with
  | none => false
  | some e => (needsRead f && !e.r) || (needsWrite f && !e.w)

/-- Abandon an instruction whose translation or permission fails: registers and flag are released (R198), NR is as if it
had not issued (R196). -/
def abandonFlight (s : State) (f : Flight) : State :=
  updGroup (completeFlight s f) f.uid (fun g => { g with nrMay := g.nrMay.filter (· != f.id) })

/-- An instruction that may no longer fault on its own counts for NR (R196). -/
def settleNr (s : State) (f : Flight) : State :=
  updGroup s f.uid (fun g => if g.nrMay.contains f.id then { g with nr := true, nrMay := g.nrMay.filter (· != f.id) } else g)

/-- Abandon an instruction for a fault of its own that R196 does not exempt (a data error, an unreachable peer): it counts for
NR. -/
def loseFlight (s : State) (f : Flight) : State := abandonFlight (settleNr s f) f

/-- The faults of an instruction's lanes, one entry per code (R190). -/
def faultLanes (s : State) (f : Flight) (code detail : Nat) (ls : List LaneAcc) : State :=
  match ls with
  | [] => s
  | a :: _ => flightFault s f code detail (maskOf (ls.map (·.lane))) a.va

/-- POL, ORD and SCOPE of a memory OPX (R69). -/
def opxPol (f : ExtWord) : Nat := f.opx.toNat % 4
def opxOrd (f : ExtWord) : Nat := f.opx.toNat / 4 % 8
def opxScope (f : ExtWord) : Nat := f.opx.toNat / 32 % 8

/-- The read-modify-write operation of an opcode (R170, R171). -/
def rmwOf (o : Op) (f : ExtWord) : Rmw :=
  match o with
  | .vamin | .vrmin => .min
  | .vamax | .vrmax => .max
  | .vaand => .and
  | .vaor => .or
  | .vaxor => .xor
  | .vaxch => .xch
  | .vacas => .cas
  | .vrbit => if f.sc == 0 then .and else if f.sc == 1 then .or else .xor
  | _ => .add

/-- A lane's access with its translation. -/
structure PhysAcc where
  lane : Nat
  va : Nat
  pa : Nat
  pol : Nat
  dl : Bool

/-- The accesses of a flight that translate, in ascending lane order, with the policy a mapping may force (R184). -/
def physAccs (s : State) (f : Flight) (ls : List LaneAcc) : List PhysAcc :=
  ls.filterMap (fun a =>
    match tlbFind s (flightPart s f) a.va with
    | none => none
    | some e => some ⟨a.lane, a.va, entryPa e a.va, if e.fpol = 3 then 3 else opxPol f.f, e.dl⟩)

/-- Lines of accesses by the lowest lane that touches each (R163). -/
def linesOf (as : List PhysAcc) : List Nat := (as.map (fun a => a.pa / 128)).foldl (fun l x => if l.contains x then l else l ++ [x]) []

/-- What a request for one line asks, for the lanes that touch it (R163, R170, R171). -/
def lineAsk (f : Flight) (as : List PhysAcc) : Ask :=
  let size := accSize f.op f.f
  match f.work with
  | .store =>
    .store (as.foldl (fun acc a =>
      msetAll' (bytesAt (a.pa % 128) (leBytes size ((mget 0 a.lane f.data).toNat + 2 ^ 64 *
        ((mget 0 (32 + a.lane) f.data).toNat + 2 ^ 64 * ((mget 0 (64 + a.lane) f.data).toNat + 2 ^ 64 *
          (mget 0 (96 + a.lane) f.data).toNat))))) acc) [])
  | .reduce =>
    let op := rmwOf f.op f.f
    let t := f.f.ty.toNat
    let offs := (as.map (fun a => a.pa % 128)).dedup
    .reduce op t size (offs.map (fun o =>
      let xs := (as.filter (fun a => a.pa % 128 == o)).map (fun a => (mget 0 a.lane f.data).toNat)
      (o, BitVec.ofNat 64 (tree (fun x y => rmwApply op t x y 0) (rmwIdentity op t) xs))))
  | .prefetch => .prefetch
  | _ => .load (as.map (fun a => (a.lane, 0, a.pa % 128, size)))
where
  msetAll' (bs : List (Nat × Byte)) (acc : List (Nat × Byte)) : List (Nat × Byte) :=
    bs.foldl (fun l b => if l.any (fun x => x.1 == b.1) then listUpd (fun x => x.1 == b.1) (fun _ => b) l else l ++ [b]) acc

/-- A request of a flight. -/
def flightReq (s : State) (f : Flight) (id : Nat) (ask : Ask) (line pol va : Nat) (dl : Bool) : Req :=
  let core := flightCore s f
  { blankReq id (.core f.id core) ask line with
    uid := f.uid
    op := f.id
    pol := pol
    scope := opxScope f.f
    ctx := flightCtx s f
    part := flightPart s f
    va := va
    sector := coreSector core
    slot := flightSlot s f
    gen := f.gen
    dl := dl }

/-- The request that a reduction combines with at its cluster's port (R172): of another core of the cluster, leaving in
the same clk, for the same line with the same opcode, TYPE and OPX. A `vrbit` combines with one of the same operation, which SC
names (DESIGN CHOICE, log 90), and none combines with a request that an earlier one of its group for the line, of the same clk, must
precede (R166). -/
def combineWith (s : State) (f : Flight) (r : Req) (left : Nat) : Option Req :=
  let core := flightCore s f
  if s.reqs.any (fun x => sameSource x r && x.line == r.line && x.left == left && x.id != r.id) then none else
  s.reqs.find? (fun x => x.phase == .travel && x.line == r.line && x.left == left && x.pol == r.pol &&
    (match x.src, x.ask, flightAt? s x.op with
      | .core _ k, .reduce _ _ _ _, some g => coreCluster k == coreCluster core && k != core && g.op == f.op &&
          g.f.ty == f.f.ty && g.f.opx == f.f.opx && g.f.sc == f.f.sc && !(x.combine.any (fun p => p.2.1 == core))
      | _, _, _ => false))

/-- The clk from now in which a core's post queue sends its next request: two leave per clk, in the order of the instructions that
send them (R163), and one per clk of a spiral instruction (R294). -/
def postSlot (s : State) (core : Nat) (alone : Bool) : Nat × State :=
  let c := coreAt s core
  let now := coreClk s core
  let put (clk n : Nat) : Nat × State := (clk - now, updCore s core (fun c => { c with postClk := clk, postN := n }))
  if c.postClk < now || c.postN = 0 then put now (if alone then 2 else 1)
  else if c.postN < 2 && !alone then put c.postClk (c.postN + 1)
  else put (c.postClk + 1) (if alone then 2 else 1)

/-- Send one request of a flight by its core's post queue. -/
def sendFlightReq (s0 : State) (f : Flight) (ask : Ask) (line pol va : Nat) (dl : Bool) : State :=
  let core := flightCore s0 f
  let (k, s) := postSlot s0 core false
  let (id, s1) := newId s
  let r := flightReq s1 f id ask line pol va dl
  let lc := (logCore s (flightCtx s f) core).2.2.2
  let s2 :=
    match ask with
    | .reduce _ _ _ ws =>
      let left := dieClk s1 (coreDie core) + k
      (match combineWith s1 f r left with
        | some x =>
          let s2 := updReq s1 x.id (fun x => { x with combine := x.combine ++ [(lc, core, ws)] })
          { s2 with reqs := s2.reqs ++ [{ r with phase := .forward, left := left, renew := some x.id }] }
        | none => sendReq s1 { r with combine := [(lc, core, ws)] } k)
    | _ => sendReq s1 r k
  updFlight s2 f.id (fun x => { x with reqs := x.reqs ++ [id] })

/-- Send the requests of an instruction whose lanes are translated (R163, R170). -/
def sendFlight (s : State) (f : Flight) (ls : List LaneAcc) : State :=
  let as := physAccs s f ls
  let s1 := settleNr (updFlight s f.id (fun x => { x with sent := true })) f
  match f.work with
  | .atomic =>
    let op := rmwOf f.op f.f
    let size := accSize f.op f.f
    as.foldl (fun st a =>
      sendFlightReq st f (.atomic op f.f.ty.toNat size a.lane (a.pa % 128) (mget 0 a.lane f.data)
        (mget 0 (32 + a.lane) f.data)) (a.pa / 128) a.pol a.va a.dl) s1
  | _ =>
    (linesOf as).foldl (fun st line =>
      let mine := as.filter (fun a => a.pa / 128 == line)
      match mine with
      | [] => st
      | a :: _ => sendFlightReq st f (lineAsk f mine) line a.pol a.va (mine.any (·.dl))) s1

/-- The lines a group has stored to since its last `.dram` fence (R169). -/
def noteWrites (s : State) (f : Flight) : State :=
  match f.work with
  | .store | .reduce =>
    let ls := ((s.reqs.filter (fun r => r.op == f.id)).map (fun r => r.line))
    updGroup s f.uid (fun g => { g with wrote := (g.wrote ++ ls).dedup })
  | _ => s

/-- The lanes whose line lies on a module to which no route leads (R321). -/
def unreachable (s : State) (part : Nat) (ls : List LaneAcc) : List LaneAcc :=
  ls.filter (fun a => match tlbFind s part a.va with
    | none => false
    | some e => let m := lineModule (entryPa e a.va / 128); m != s.module && (routeLink s m).isNone)

/-- An instruction's lanes are all translated: its faults are raised and it sends nothing, or it sends its requests
(R190); `vldnf` marks the failing lanes instead (R167) and `vprf` drops them (R168). -/
def finishTranslate (s : State) (f : Flight) : State :=
  let part := flightPart s f
  let badT := f.lanes.filter (fun a => (laneCause f a).isSome)
  let okT := f.lanes.filter (fun a => (laneCause f a).isNone)
  let badP := okT.filter (laneForbidden s part f)
  let good := okT.filter (fun a => !(laneForbidden s part f a))
  let lost := unreachable s part good
  match f.work with
  | .prefetch =>
    let s1 := sendFlight s f (good.filter (fun a => !(lost.any (fun b => b.lane == a.lane))))
    let n := (s1.reqs.filter (fun r => r.op == f.id)).length
    -- `vprf` completes in the clk after its last request is sent (R168)
    let last := (coreAt s1 (flightCore s f)).postClk + 1 - coreClk s1 (flightCore s f)
    let s2 := if f.setf = 0 then s1
      else later s1 (flightCore s f) f.uid (if n = 0 then 1 else last + 1) (.flag (f.setf - 1) f.id)
    delFlight s2 f.id
  | .load true =>
    if !lost.isEmpty then faultLanes (loseFlight s f) f 0x63 1 lost
    else
      let bad := maskOf ((badT ++ badP).map (·.lane))
      let s1 := updGroup s f.uid (fun g =>
        let g1 := (lanesOf bad).foldl (fun g l => f.dests.foldl (fun g r =>
          if r.c == .v then ownWrite g f.id r.n l 0 else g) g) g
        if ownsReg g1 ⟨.k, f.f.sc.toNat⟩ f.id then kwrite g1 f.f.sc.toNat (f.sel &&& g.alive) bad else g1)
      let s2 := sendFlight s1 f good
      if good.isEmpty then completeFlight s2 f else s2
  | _ =>
    if !badT.isEmpty || !badP.isEmpty then
      let s1 := abandonFlight s f
      let cause := (badT.head?.bind (laneCause f)).getD 0
      faultLanes (faultLanes s1 f 0x08 cause badT) f 0x09 0 badP
    else if !lost.isEmpty then faultLanes (loseFlight s f) f 0x63 1 lost
    else noteWrites (sendFlight s f good) f

/-- Whether an address has a failed translation recorded in a flight. -/
def lanePending (s : State) (f : Flight) (a : LaneAcc) : Bool :=
  (laneCause f a).isNone && needsWalk s (flightPart s f) a.va

/-- Work that sends requests for lines which the order of one group's accesses covers (R166, R173, R294). -/
def orderedWork : Work → Bool
  | .load _ | .store | .reduce | .atomic | .prefetch | .spiral => true
  | _ => false

/-- Work that a restore sends again (R200). -/
def replaying (s : State) (f : Flight) : Bool := match groupAt? s f.uid with | some g => g.replays.contains f.id | none => false

/-- Whether an earlier memory instruction of the group has not sent its requests yet: a later one waits behind it, so that no
request overtakes an earlier one to the same line (R166, R173; the whole instruction waits: DESIGN CHOICE, log 85). What a restore sends
again goes in the order of the original issues (R200). -/
def heldBack (s : State) (f : Flight) : Bool :=
  s.flights.any (fun x => x.uid == f.uid && decide (x.id < f.id) && !x.sent &&
    ((orderedWork f.work && orderedWork x.work) || (replaying s f && replaying s x)))

/-- Whether only an earlier instruction keeps a flight from sending its requests. -/
def sendReady (s : State) (f : Flight) : Bool :=
  !f.sent && (orderedWork f.work || replaying s f) && !(heldBack s f) && f.lanes.all (fun a => !(lanePending s f a))

/-- Go on with an instruction's translation: walks for the pages still missing, else the requests (R190). The last step
is the instruction's own: `fin`. -/
def advanceOn (fin : State → Flight → State) (s : State) (f : Flight) : State :=
  if f.sent then s
  else
    let pages := ((f.lanes.filter (lanePending s f)).map (fun a => a.va / 2 ^ 16)).dedup
    if pages.isEmpty then (if heldBack s f then s else fin s f)
    else pages.foldl (fun st p =>
      if st.walks.any (fun w => w.ops.contains f.id && w.va / 2 ^ 16 == p) then st
      else startWalk st (flightPart s f) (p * 2 ^ 16) (some f.id) none) s

/-- The same for an instruction in flight, by its number. -/
def advanceWith (fin : State → Flight → State) (s : State) (op : Nat) : State :=
  match flightAt? s op with
  | none => s
  | some f => advanceOn fin s f

/-! ### Issue of the global forms -/

/-- Lanes whose global address is not a multiple of the access size (R159). -/
def globalMis (vec : Bool) (c : Ctx) (s : State) : List Nat :=
  (lanesOf c.sel).filter (fun l => globalAddr s c vec l % accSize c.op c.f != 0)

/-- Whether a write of this kind must wait for the group's earlier writes (R165). -/
def releaseHolds (w : Work) (c : Ctx) (s : State) : Bool :=
  (match w with | .store | .reduce | .atomic => true | _ => false) && (opxOrd c.f == 2 || opxOrd c.f == 3) &&
    !(releaseReady s c.g c.id (opxScope c.f))

/-- The issue of a global memory instruction: the port (R144), the acquire (R165), translation (R190). -/
def startGlobal (w : Work) (vec : Bool) (data : Nat → List (Nat × DWord)) (c : Ctx) (s : State) : State :=
  let ls := lanesOf c.sel
  let va (l : Nat) : Nat := globalAddr s c vec l
  let ord := opxOrd c.f
  let f := { newFlight c w with
    dests := destRegs c.op c.f
    lanes := ls.map (fun l => ⟨l, va l⟩)
    data := (ls.map data).flatten }
  let lines := match w with | .atomic => ls.length | _ => ((ls.map (fun l => va l / 128)).dedup).length
  let s1 := holdUnit (launchFlight s c f) c.g.core .global ((lines + 1) / 2)
  let s2 := if (ord == 1 || ord == 3) then updGroup s1 c.g.uid (fun g => { g with acq := g.acq ++ [c.id] }) else s1
  advanceOn finishTranslate s2 f

/-- The checks of a global memory instruction: alignment (R159), the release condition (R165). -/
def globalOwn (w : Work) (vec : Bool) (data : Nat → List (Nat × DWord)) (c : Ctx) (s : State) : Verdict :=
  let mis := globalMis vec c s
  if !mis.isEmpty then .raise 0x06 0 (maskOf mis) (globalAddr s c vec (mis.headD 0))
  else if releaseHolds w c s then .hold
  else .act (startGlobal w vec data c s)

/-- A store's data registers, read at issue: up to eight words as four numbers of 64 bits keyed 32 × i + lane. -/
def storeData (c : Ctx) (l : Nat) : List (Nat × DWord) :=
  let x := leNat (storeBytes c l)
  (List.range 4).map (fun i => (32 * i + l, BitVec.ofNat 64 (x / 2 ^ (64 * i))))

/-- An element of the type's width from register field i. -/
def laneElem (s : State) (c : Ctx) (i l : Nat) : DWord :=
  let t := c.f.ty.toNat
  BitVec.ofNat 64 (srcV s c t i l)

def atomicData (c : Ctx) (s : State) (l : Nat) : List (Nat × DWord) := [(l, laneElem s c 3 l), (32 + l, laneElem s c 0 l)]
def reduceData (c : Ctx) (s : State) (l : Nat) : List (Nat × DWord) := [(l, laneElem s c 0 l)]

def ownVld : Ctx → State → Verdict := globalOwn (.load false) true (fun _ => [])
def ownVldb : Ctx → State → Verdict := globalOwn (.load false) false (fun _ => [])
def ownVldnf : Ctx → State → Verdict := globalOwn (.load true) true (fun _ => [])
def ownVst (c : Ctx) (s : State) : Verdict := globalOwn .store true (storeData c) c s
def ownVprf : Ctx → State → Verdict := globalOwn .prefetch true (fun _ => [])
/-- Returning atomics (R170): the operand, and for `vacas` the comparand, read at issue. -/
def ownAtomic (c : Ctx) (s : State) : Verdict := globalOwn .atomic true (atomicData c s) c s
/-- Non-returning reductions (R171). -/
def ownReduce (c : Ctx) (s : State) : Verdict := globalOwn .reduce true (reduceData c s) c s

def execVld (f : BaseWord) (s : State) : Host.Outcome State Fault Refusal := issue .vld (.base f) ownVld s
def execVldExt (f : XWord) (s : State) : Host.Outcome State Fault Refusal := issue .vld f.toWord3 ownVld s
def execVst (f : BaseWord) (s : State) : Host.Outcome State Fault Refusal := issue .vst (.base f) ownVst s
def execVstExt (f : XWord) (s : State) : Host.Outcome State Fault Refusal := issue .vst f.toWord3 ownVst s
def execVldw (f : ExtWord) (s : State) : Host.Outcome State Fault Refusal := issue .vldw (.ext f) ownVld s
def execVstw (f : ExtWord) (s : State) : Host.Outcome State Fault Refusal := issue .vstw (.ext f) ownVst s
def execVldb (f : ExtWord) (s : State) : Host.Outcome State Fault Refusal := issue .vldb (.ext f) ownVldb s
def execVldnf (f : ExtWord) (s : State) : Host.Outcome State Fault Refusal := issue .vldnf (.ext f) ownVldnf s
def execVprf (f : ExtWord) (s : State) : Host.Outcome State Fault Refusal := issue .vprf (.ext f) ownVprf s
def execVaadd (f : BaseWord) (s : State) : Host.Outcome State Fault Refusal := issue .vaadd (.base f) ownAtomic s
def execVaaddExt (f : XWord) (s : State) : Host.Outcome State Fault Refusal := issue .vaadd f.toWord3 ownAtomic s
def execVamin (f : ExtWord) (s : State) : Host.Outcome State Fault Refusal := issue .vamin (.ext f) ownAtomic s
def execVamax (f : ExtWord) (s : State) : Host.Outcome State Fault Refusal := issue .vamax (.ext f) ownAtomic s
def execVaand (f : ExtWord) (s : State) : Host.Outcome State Fault Refusal := issue .vaand (.ext f) ownAtomic s
def execVaor (f : ExtWord) (s : State) : Host.Outcome State Fault Refusal := issue .vaor (.ext f) ownAtomic s
def execVaxor (f : ExtWord) (s : State) : Host.Outcome State Fault Refusal := issue .vaxor (.ext f) ownAtomic s
def execVaxch (f : ExtWord) (s : State) : Host.Outcome State Fault Refusal := issue .vaxch (.ext f) ownAtomic s
def execVacas (f : ExtWord) (s : State) : Host.Outcome State Fault Refusal := issue .vacas (.ext f) ownAtomic s
def execVradd (f : BaseWord) (s : State) : Host.Outcome State Fault Refusal := issue .vradd (.base f) ownReduce s
def execVraddExt (f : XWord) (s : State) : Host.Outcome State Fault Refusal := issue .vradd f.toWord3 ownReduce s
def execVrmin (f : ExtWord) (s : State) : Host.Outcome State Fault Refusal := issue .vrmin (.ext f) ownReduce s
def execVrmax (f : ExtWord) (s : State) : Host.Outcome State Fault Refusal := issue .vrmax (.ext f) ownReduce s
def execVrbit (f : ExtWord) (s : State) : Host.Outcome State Fault Refusal := issue .vrbit (.ext f) ownReduce s

/-- `fence` (R169): the group's next instruction waits until it completes. -/
def startFence (c : Ctx) (s : State) : State :=
  updGroup (launchFlight s c (newFlight c .fence)) c.g.uid (fun g => { g with busy := some c.id })

def ownFence (c : Ctx) (s : State) : Verdict := .act (startFence c s)

def execFence (f : ExtWord) (s : State) : Host.Outcome State Fault Refusal := issue .fence (.ext f) ownFence s

/-- The conditions under which a fence completes (R169). -/
def fenceReady (s : State) (f : Flight) : Bool :=
  match groupAt? s f.uid with
  | none => true
  | some g =>
    let ord := opxOrd f.f
    let scope := opxScope f.f
    decide (f.clk < coreClk s g.core) &&
    (!(ord == 2 || ord == 3) || (writesAcked s f.uid f.id scope && (decide (scope < 6) || decide (g.horizon < timeNs s)))) &&
    (!(ord == 1 || ord == 3) || s.flights.all (fun x => !(x.uid == f.uid && decide (x.id < f.id) && flightLoads x))) &&
    (opxPol f.f != 3 || writesAcked s f.uid f.id 1) &&
    s.reqs.all (fun r => r.op != f.id || r.phase == .done)

/-- A dirty line of a home tile is written back to memory and stays in the tile (R169, R184). -/
def writeBack (s : State) (line : Nat) : State :=
  let g := s.module * 2 ^ 41 + line
  match s.arms.find? (fun p => (homeTile? p.2 g).any (fun t => (tileLine t g).dirty)) with
  | none => s
  | some (arm, _) =>
    updArm (fillDram s line (lineData s.mem line) (mget 0 line s.tags)) arm (fun a =>
      updTileLine a g (fun l => { l with dirty := false }))

/-- Perform at memory what a group has stored to some lines (R169): a line of this module is written back; one of another
module is written back there by a `.dram` store of no bytes, whose acknowledgement the fence awaits (R184; DESIGN CHOICE, log 85). -/
def performDeep (s : State) (f : Flight) (lines : List Nat) : State :=
  let here := (lines.filter (fun l => lineModule l == s.module)).foldl (fun st l => writeBack st (localLine l)) s
  (lines.filter (fun l => lineModule l != s.module)).foldl (fun st l =>
    let (id, s1) := newId st
    sendReq s1 (flightReq s1 f id (.store []) l 3 0 false) 0) here

/-- FENCE_COMPLETE (R169): with POL 3 every line the group has stored to is performed at memory; to lines of another module
goes a store of no bytes that is performed at memory there (DESIGN CHOICE, log 85). -/
def execFenceComplete (op : Nat) (s : State) : Host.Outcome State Fault Refusal :=
  .next (match flightAt? s op, (flightAt? s op).bind (fun f => groupAt? s f.uid) with
    | none, _ => s
    | some f, g =>
      if !(fenceReady s f) then s
      else
        let lines := if opxPol f.f != 3 then [] else (g.map (·.wrote)).getD []
        let s1 := performDeep s f lines
        if lines.all (fun l => lineModule l == s.module) then completeFlight (updGroup s1 f.uid (fun g => { g with wrote := if opxPol f.f = 3 then [] else g.wrote })) f
        else updGroup s1 f.uid (fun g => { g with wrote := [] }))

end Sys2Proof.Machine
end

