-- ==== Sys2Proof/Machine/BarRing.lean ====
section
/-!
DEFINITION. Team and outer-level barriers (R128 to R133), pending bytes (R29), rings (R134 to R136).
-/
namespace Sys2Proof.Machine

def TeamBar.none_ : TeamBar := ⟨false, 0, 0, 0, 0, 0⟩
def teamBar (s : State) (team b : Nat) : TeamBar := ((teamAt? s team).map (fun t => mget TeamBar.none_ b t.bars)).getD TeamBar.none_
def updBar (s : State) (team b : Nat) (f : TeamBar → TeamBar) : State := updTeam s team (fun t => { t with bars := madj b f t.bars })

/-- The launch record of a team. -/
def teamRecord? (s : State) (t : Team) : Option LaunchRec := (launchAt? s t.launch).map (·.record)

/-- Groups of a team that take part in barriers (R16). -/
def recGroups (r : LaunchRec) : Nat := r.nvec + r.nmat + r.ncopy

/-- The index of the team level (R84). -/
def coreLevel (r : LaunchRec) : Nat := (r.levels.findIdx? (fun l => l.domain == 2)).getD 0

/-- The level that LEVEL n of a barrier instruction selects (R132). -/
def barLevel? (s : State) (g : Group) (lev : Nat) : Option Level :=
  match teamAt? s g.team with
  | none => none
  | some t =>
    match teamRecord? s t with
    | none => none
    | some r => r.levels[coreLevel r + lev]?

/-- The scope of a barrier: the SCOPE of its level (R131); team scope where the record is gone. -/
def barScope (s : State) (g : Group) (key : Nat) : Nat := ((barLevel? s g (key / 16)).map (·.scope)).getD 1

/-- The instance of a level that holds a team (R85). -/
def teamInst (s : State) (t : Team) (lev : Nat) : Nat × Nat :=
  (t.launch, t.num / levelTeams (((teamRecord? s t).map (·.levels)).getD []) lev)

/-- The instance of a level that holds a group's team. -/
def barInst (s : State) (g : Group) (lev : Nat) : Nat × Nat := ((teamAt? s g.team).map (fun t => teamInst s t lev)).getD (0, 0)

/-- EXP of an outer-level barrier at first: the groups of all teams of the instance (R132). -/
def outerExp (s : State) (g : Group) (lev : Nat) : Nat :=
  match teamAt? s g.team with
  | none => 0
  | some t =>
    match teamRecord? s t with
    | none => 0
    | some r => recGroups r * levelTeams r.levels lev

/-- The outer-level barrier of a group's instance, made with its first state where nothing has used it (R132). -/
def withOuter (s : State) (g : Group) (key : Nat) : State :=
  let (l, i) := barInst s g (key / 16)
  if s.outer.any (fun b => b.launch == l && b.inst == i && b.key == key) then s
  else { s with outer := s.outer ++ [⟨l, i, key, false, outerExp s g (key / 16), 0, 0⟩] }

def updOuter (s : State) (g : Group) (key : Nat) (f : OuterBar → OuterBar) : State :=
  let (l, i) := barInst s g (key / 16)
  let s1 := withOuter s g key
  { s1 with outer := listUpd (fun b => b.launch == l && b.inst == i && b.key == key) f s1.outer }

/-- The barrier key of an instruction: 16 × LEVEL + number (R132). -/
def barKey (c : Ctx) : Nat := 16 * (c.f.opx.toNat % 8) + c.f.d.toNat

/-- The faults that every barrier instruction checks first (R128, R132): a callee slot, and a level beyond NLEV − 1 or
not co-resident. -/
def barCheck (s : State) (c : Ctx) : Option Nat :=
  if c.g.callee then some 0x0C
  else
    match barLevel? s c.g (c.f.opx.toNat % 8) with
    | none => some 0x0E
    | some l => if l.cor then none else some 0x0E

/-- One arrival of a group, counted later (R131): DROPS or ARV and APH are set now. -/
def arriveNow (c : Ctx) (key : Nat) (s : State) : State :=
  let f := { newFlight c (.arrive key) with
    setf := 0
    at1 := if key < 16 then c.clk + 1 else c.clk + 1 + Config.transit s.freeCount }
  { s with flights := s.flights ++ [f], freeCount := s.freeCount + (if key < 16 then 0 else 1) }

/-- The three bits of the issuing group for a barrier, as they stand after a `bar.sync` has been matched. -/
def bitsNow (s : State) (c : Ctx) (key : Nat) : BarBits :=
  ((groupAt? s c.g.uid).map (fun g => barBits g key)).getD ⟨false, false, false⟩

def setBits (s : State) (c : Ctx) (key : Nat) (b : BarBits) : State := updGroup s c.g.uid (fun g => setBarBits g key b)

/-- The group has arrived: ARV := 1 and APH := PHASE now, COUNT later; under `bar.sync` it then waits (R129, R131). An arrival or a drop
at an outer level completes, and sets its SETF flag, at issue like one at the team barrier (DESIGN CHOICE, log 94: R132 names no moment
for its variable latency). -/
def arriveAtBar (sync : Bool) (c : Ctx) (s : State) : State :=
  let key := barKey c
  let s0 := if key < 16 then s else withOuter s c.g key
  let s1 := arriveNow c key (setBits s0 c key { bitsNow s c key with arv := true, aph := barPhase s0 c.g key })
  finishAt (if sync then updGroup s1 c.g.uid (fun g => { g with sync := some key }) else s1) c 1

/-- `bar.arrive` and `bar.sync` (R129, R130). -/
def ownArrive (sync : Bool) (c : Ctx) (s : State) : Verdict :=
  let key := barKey c
  match barCheck s c with
  | some k => .raise k 0 c.sel 0
  | none =>
    let b := bitsNow s c key
    if b.arv then .raise 0x0C 0 c.sel 0
    else if b.drop then .raise 0x0D 0 c.sel 0
    else .act (arriveAtBar sync c s)

/-- The group passes the barrier: ARV := 0 (R129). -/
def passBar (c : Ctx) (s : State) : State :=
  finishAt (setBits s c (barKey c) { bitsNow s c (barKey c) with arv := false }) c 1

/-- `bar.wait` (R129, R130). -/
def ownBarWait (c : Ctx) (s : State) : Verdict :=
  let key := barKey c
  match barCheck s c with
  | some k => .raise k 0 c.sel 0
  | none =>
    let b := bitsNow s c key
    if !b.arv then .raise 0x0C 0 c.sel 0
    else if barPhase s c.g key == b.aph then .hold
    else .act (passBar c s)

/-- The group has left: DROP := 1, DROPS rises, and an arrival not yet made is made (R129, R130). -/
def dropFromBar (c : Ctx) (s : State) : State :=
  let key := barKey c
  let b := bitsNow s c key
  let s1 := setBits s c key ⟨false, b.aph, true⟩
  let s2 := if key < 16 then updBar s1 c.g.team key (fun x => { x with drops := x.drops + 1 })
            else updOuter s1 c.g key (fun x => { x with drops := x.drops + 1 })
  finishAt (if b.arv then s2 else arriveNow c key s2) c 1

/-- `bar.drop` (R129, R130). -/
def ownBarDrop (c : Ctx) (s : State) : Verdict :=
  let key := barKey c
  match barCheck s c with
  | some k => .raise k 0 c.sel 0
  | none =>
    let b := bitsNow s c key
    if b.drop then .raise 0x0D 0 c.sel 0
    else .act (dropFromBar c s)

def execBarArrive (f : BaseWord) (s : State) : Host.Outcome State Fault Refusal :=
  issue .barArrive (.base f) (ownArrive false) s
def execBarArriveExt (f : XWord) (s : State) : Host.Outcome State Fault Refusal :=
  issue .barArrive f.toWord3 (ownArrive false) s
def execBarSync (f : BaseWord) (s : State) : Host.Outcome State Fault Refusal :=
  issue .barSync (.base f) (ownArrive true) s
def execBarSyncExt (f : XWord) (s : State) : Host.Outcome State Fault Refusal :=
  issue .barSync f.toWord3 (ownArrive true) s
def execBarWait (f : BaseWord) (s : State) : Host.Outcome State Fault Refusal := issue .barWait (.base f) ownBarWait s
def execBarWaitExt (f : XWord) (s : State) : Host.Outcome State Fault Refusal := issue .barWait f.toWord3 ownBarWait s
def execBarDrop (f : BaseWord) (s : State) : Host.Outcome State Fault Refusal := issue .barDrop (.base f) ownBarDrop s
def execBarDropExt (f : XWord) (s : State) : Host.Outcome State Fault Refusal := issue .barDrop f.toWord3 ownBarDrop s

/-- Whether an arrival may be counted at the end of this clk (R131, R132): the group's earlier global writes are
acknowledged, its vector stores into scratchpad have made their last pass, its matrix stores (R217) are complete. -/
def arrivalReady (s : State) (f : Flight) : Bool :=
  match f.work, groupAt? s f.uid with
  | .arrive key, some g =>
    let scope := barScope s g key
    decide (f.at1 ≤ coreClk s g.core) && writesAcked s f.uid f.id scope &&
    s.flights.all (fun x => !(x.uid == f.uid && decide (x.id < f.id)) ||
      ((x.work != .spad || decide (x.at1 ≤ coreClk s g.core)) && x.op != .mst)) &&
    (decide (scope < 6) || decide (g.horizon < timeNs s))
  | _, _ => true

/-- ARRIVAL_COUNTED (R131). -/
def execArrivalCounted (op : Nat) (s : State) : Host.Outcome State Fault Refusal :=
  .next (match flightAt? s op with
    | none => s
    | some f =>
      if !(arrivalReady s f) then s
      else
        match f.work, groupAt? s f.uid with
        | .arrive key, some g =>
          let s1 := if key < 16 then updBar s g.team key (fun x => { x with count := x.count + 1 })
                    else updOuter s g key (fun x => { x with count := x.count + 1 })
          delFlight s1 op
        | _, _ => delFlight s op)

/-- The end of a clk at a team barrier (R29, R129): PEND takes the clk's changes; the barrier opens if COUNT = EXP and
PEND = 0. -/
def openBar (b : TeamBar) : TeamBar :=
  let p := ((b.pend : Int) + b.delta).toNat
  if b.count = b.exp && p = 0 && b.exp != 0 then ⟨!b.phase, b.exp - b.drops, 0, 0, 0, 0⟩
  else { b with pend := p, delta := 0 }

/-- The same at an outer-level barrier, which has no PEND (R132). -/
def openOuter (b : OuterBar) : OuterBar :=
  if b.count = b.exp && b.exp != 0 then { b with phase := !b.phase, exp := b.exp - b.drops, count := 0, drops := 0 } else b

/-- Add bytes to PEND (R29): none where the counter would leave its range. -/
def addPend (s : State) (team b : Nat) (n : Int) : Option State :=
  let x := teamBar s team b
  let p := (x.pend : Int) + x.delta + n
  if p < 0 || 16777215 < p then none else some (updBar s team b (fun x => { x with delta := x.delta + n }))

/-- The word of `bar.test` (R133). -/
def barWord (b : TeamBar) (x : BarBits) : DWord :=
  let n (v : Bool) (k : Nat) : Nat := if v then 2 ^ k else 0
  BitVec.ofNat 64 (n b.phase 56 + b.exp * 2 ^ 48 + b.count * 2 ^ 40 + n x.drop 26 + n x.aph 25 + n x.arv 24 + b.pend)

/-- `bar.test` (R133): the barrier and the group's bits as they stood at the start of the clk, before this issue matches a
`bar.sync`. -/
def ownBarTest (c : Ctx) (s : State) : Verdict :=
  if c.g.callee then .raise 0x0C 0 c.sel 0
  else scWrite c 2 (barWord (teamBar s c.g.team c.f.sa.toNat) (barBits c.g c.f.sa.toNat)) s

/-- `bar.add` (R133). -/
def ownBarAdd (c : Ctx) (s : State) : Verdict :=
  if c.g.callee then .raise 0x0C 0 c.sel 0
  else
    match addPend s c.g.team c.f.d.toNat (intOf true 32 (srcS s c 1).toNat) with
    | none => .raise 0x0B 0 c.sel 0
    | some s1 => .act (finishAt s1 c 1)

def execBarTest (f : ExtWord) (s : State) : Host.Outcome State Fault Refusal := issue .barTest (.ext f) ownBarTest s
def execBarAdd (f : ExtWord) (s : State) : Host.Outcome State Fault Refusal := issue .barAdd (.ext f) ownBarAdd s

/-! ### Rings -/

/-- Entries that wait (R26). -/
def ringWait (r : Ring) : Nat :=
  if r.popix = r.pushix then (if r.popph = r.pushph then 0 else r.depth) else (r.pushix + r.depth - r.popix) % r.depth

/-- Write one entry (R19, R25). -/
def ringPush (r : Ring) (x : Word) : Ring :=
  let w := r.pushix + 1 = r.depth
  { r with
    ents := mset 0 r.pushix x r.ents
    pushix := if w then 0 else r.pushix + 1
    pushph := if w then !r.pushph else r.pushph
    pushed := r.pushed + 1 }

/-- Take the oldest entry (R19, R25). -/
def ringPop (r : Ring) : Word × Ring :=
  let w := r.popix + 1 = r.depth
  (mget 0 r.popix r.ents,
   { r with
     popix := if w then 0 else r.popix + 1
     popph := if w then !r.popph else r.popph
     popped := r.popped + 1 })

def ringPops : Nat → Ring → List Word × Ring
  | 0, r => ([], r)
  | n + 1, r =>
    let (x, r1) := ringPop r
    let (xs, r2) := ringPops n r1
    (x :: xs, r2)

/-- The start of a clk at a ring (R26). -/
def ringTick (r : Ring) : Ring :=
  { r with start := ringWait r, pushed := 0, popped := 0, pushShut := false, popShut := false }

/-- Entries enter the ring in their order (R134). -/
def pushInto (c : Ctx) (s : State) (xs : List Word) : State :=
  finishAt (updRing s c.g.team c.f.d.toNat (fun r => xs.foldl ringPush r)) c 1

/-- Push values as one request (R26, R134, R135), not while an `xhand` of the group to the ring is incomplete (R269):
judged by the header at the start of the clk and the pushes served since. -/
def pushValues (c : Ctx) (s : State) (xs : List Word) : Verdict :=
  let q := c.f.d.toNat
  match ringOf? s c.g.team q with
  | none => .hold
  | some r =>
    if s.cmds.any (fun x => x.uid == c.g.uid && x.op == .xhand && x.f.d.toNat == q) then .hold
    else if r.depth < xs.length then .raise 0x0F 0 c.sel 0
    else if r.depth < r.start + xs.length then .hold
    else if r.pushShut then .hold
    else if r.depth < r.start + r.pushed + xs.length then .block c.g.team q true
    else .act (pushInto c s xs)

/-- The n oldest entries leave the ring for consecutive scalar registers (R134). -/
def popInto (c : Ctx) (s : State) (n : Nat) (r : Ring) : State :=
  let (xs, r1) := ringPops n r
  let s1 := updRing s c.g.team c.f.sa.toNat (fun _ => r1)
  let s2 := ((List.range n).zip xs).foldl (fun st p =>
    later st c.g.core c.g.uid 2 (.s (c.f.d.toNat + p.1) (p.2.setWidth 64))) s1
  finishAt s2 c 2

/-- Pop n entries into consecutive scalar registers as one request (R26, R134, R135). -/
def popValues (c : Ctx) (s : State) (n : Nat) : Verdict :=
  let q := c.f.sa.toNat
  match ringOf? s c.g.team q with
  | none => .hold
  | some r =>
    if r.depth < n then .raise 0x0F 0 c.sel 0
    else if r.start < n then .hold
    else if r.popShut then .hold
    else if r.start < r.popped + n then .block c.g.team q false
    else .act (popInto c s n r)

def ownQpush (c : Ctx) (s : State) : Verdict := pushValues c s [(srcS s c 1).setWidth 32]
def ownQpop (c : Ctx) (s : State) : Verdict := popValues c s 1
def ownQpushn (c : Ctx) (s : State) : Verdict :=
  pushValues c s ((List.range (imm8 c.f.sb).toNat).map (fun i => (sread c.g (c.f.sa.toNat + i)).setWidth 32))
def ownQpopn (c : Ctx) (s : State) : Verdict := popValues c s (imm8 c.f.sb).toNat

/-- `qlen` (R136). -/
def ownQlen (c : Ctx) (s : State) : Verdict :=
  scWrite c 2 (BitVec.ofNat 64 (((ringOf? s c.g.team c.f.sa.toNat).map (·.start)).getD 0)) s

/-- The oldest entry of a ring as its header stood at the start of the clk (R136). -/
def ringOldest (r : Ring) : Word := mget 0 ((r.popix + r.depth - r.popped % r.depth) % r.depth) r.ents

/-- `qpeek` (R136). -/
def ownQpeek (c : Ctx) (s : State) : Verdict :=
  match ringOf? s c.g.team c.f.sa.toNat with
  | none => .hold
  | some r =>
    if r.start = 0 then .hold
    else scWrite c 2 ((ringOldest r).setWidth 64) s

def execQpush (f : BaseWord) (s : State) : Host.Outcome State Fault Refusal := issue .qpush (.base f) ownQpush s
def execQpushExt (f : XWord) (s : State) : Host.Outcome State Fault Refusal := issue .qpush f.toWord3 ownQpush s
def execQpop (f : BaseWord) (s : State) : Host.Outcome State Fault Refusal := issue .qpop (.base f) ownQpop s
def execQpopExt (f : XWord) (s : State) : Host.Outcome State Fault Refusal := issue .qpop f.toWord3 ownQpop s
def execQpushn (f : ExtWord) (s : State) : Host.Outcome State Fault Refusal := issue .qpushn (.ext f) ownQpushn s
def execQpopn (f : ExtWord) (s : State) : Host.Outcome State Fault Refusal := issue .qpopn (.ext f) ownQpopn s
def execQlen (f : ExtWord) (s : State) : Host.Outcome State Fault Refusal := issue .qlen (.ext f) ownQlen s
def execQpeek (f : ExtWord) (s : State) : Host.Outcome State Fault Refusal := issue .qpeek (.ext f) ownQpeek s

end Sys2Proof.Machine
end

