-- ==== Sys2Proof/Machine/Special.lean ====
section
/-!
DEFINITION. The special functions of R56, correctly rounded under RNE: each is bracketed between two dyadic numbers by
integer arithmetic at a working precision, and the precision rises until both ends round to the same FP32 number.
-/
namespace Sys2Proof.Machine

/-- Sum of the series Σ term_k with term_(k+1) = term_k × num / den_k at fixed point, with fuel; `den` gives the divisor
of step k. -/
def seriesSum (num : Int) (den : Nat → Nat) : Nat → Nat → Int → Int → Int
  | 0, _, _, acc => acc
  | f + 1, k, t, acc =>
    let t1 := t * num / (den k : Int)
    if t1 = 0 || t1 = -1 then acc + t1 else seriesSum num den f (k + 1) t1 (acc + t1)

/-- Σ (1/q)^(2k+1) / (2k+1) × sgn^k at scale 2^p: atanh(1/q) for sgn = 1 and atan(1/q) for sgn = −1. -/
def atanSum (q : Nat) (alt : Bool) : Nat → Nat → Nat → Int → Int
  | 0, _, _, acc => acc
  | f + 1, k, pw, acc =>
    let t : Int := pw / (2 * k + 1)
    let acc1 := if alt && k % 2 == 1 then acc - t else acc + t
    if pw = 0 then acc else atanSum q alt f (k + 1) (pw / (q * q)) acc1

/-- ln 2 and π at scale 2^p, each within p units. -/
def ln2At (p : Nat) : Int := 2 * atanSum 3 false (p + 4) 0 (2 ^ p / 3) 0
def piAt (p : Nat) : Int := 16 * atanSum 5 true (p + 4) 0 (2 ^ p / 5) 0 - 4 * atanSum 239 true (p + 4) 0 (2 ^ p / 239) 0

/-- A dyadic m × 2^e at scale 2^p, rounded down. -/
def atScale (p : Nat) (z : Int) (e : Int) : Int :=
  let k := e + p
  if 0 ≤ k then z * pow2 k else z / (pow2 (-k) : Int)

/-- e^r for |r| ≤ 1 at scale 2^p: an approximation within 8p units. -/
def expAt (p : Nat) (r : Int) : Int :=
  2 ^ p + seriesSum r (fun k => k * 2 ^ p) (2 * p) 1 (2 ^ p) 0

/-- Σ z^(2k+1)/(2k+1) at scale 2^p for |z| ≤ 1/2. -/
def atanhAt (p : Nat) (z : Int) : Nat → Nat → Int → Int → Int
  | 0, _, _, acc => acc
  | f + 1, k, pw, acc =>
    if pw = 0 || pw = -1 then acc
    else atanhAt p z f (k + 1) (pw * z / 2 ^ p * z / 2 ^ p) (acc + pw / (2 * k + 1))

/-- A bracket of a positive or negative real: lo and hi at scale 2^p. -/
abbrev Bracket := Int × Int × Nat

/-- sin and cos of |r| ≤ 1 at scale 2^p, within 8p units. -/
def sinAt (p : Nat) (r : Int) : Int :=
  let r2 := -(r * r / 2 ^ p)
  r + seriesSum r2 (fun k => 2 * k * (2 * k + 1) * 2 ^ p) (2 * p) 1 r 0
def cosAt (p : Nat) (r : Int) : Int :=
  let r2 := -(r * r / 2 ^ p)
  2 ^ p + seriesSum r2 (fun k => (2 * k - 1) * (2 * k) * 2 ^ p) (2 * p) 1 (2 ^ p) 0

/-- The functions of R56 that need a bracket. -/
inductive SpFn where
  | exp2 | exp | log2 | log | sin | cos | tanh | sigm
  deriving DecidableEq, Repr

/-- e^x for x = z / 2^p as (mantissa at scale 2^p, power of two), with an error within 2000 p units. -/
def expSplit (p : Nat) (x : Int) : Int × Int :=
  let l := ln2At p
  let n := x / l
  (expAt p (x - n * l), n)

/-- A bracket of fn at ± m × 2^e (m > 0), at a precision of about p bits below the magnitude. -/
def bracketFn (fn : SpFn) (neg : Bool) (m : Nat) (e : Int) (p0 : Nat) : Bracket :=
  let z : Int := if neg then -(m : Int) else m
  let mag : Int := e + Nat.log2 m
  let small : Nat := if mag < 0 then (-mag).toNat else 0
  let big : Nat := if mag > 0 then mag.toNat else 0
  match fn with
  | .exp2 =>
    let p := p0 + small + 16
    let x := atScale p z e
    let n := x / 2 ^ p
    let r := (x - n * 2 ^ p) * ln2At p / 2 ^ p
    let v := expAt p r
    let err : Int := 64 * p
    if n ≥ 0 then ((v - err) * pow2 n, (v + err) * pow2 n, p) else (v - err, v + err, p + (-n).toNat)
  | .exp =>
    let p := p0 + small + big + 24
    let (v, n) := expSplit p (atScale p z e)
    let err : Int := 4000 * p
    if n ≥ 0 then ((v - err) * pow2 n, (v + err) * pow2 n, p) else (v - err, v + err, p + (-n).toNat)
  | .log2 | .log =>
    let p := p0 + 64
    let k : Int := mag
    let y := atScale p m (e - k)
    let w := (y - 2 ^ p) * 2 ^ p / (y + 2 ^ p)
    let ln := 2 * atanhAt p w (p + 4) 0 w 0 + k * ln2At p
    let err : Int := 4000 * p
    if fn == .log then (ln - err, ln + err, p)
    else
      let v := ln * 2 ^ p / ln2At p
      (v - 4 * err, v + 4 * err, p)
  | .sin | .cos =>
    let p := p0 + small + big + 72
    let x := atScale p z e
    let pw := p + big + 16
    let hp := piAt pw / 2
    let xw := x * 2 ^ (pw - p)
    let n := (2 * xw + hp) / (2 * hp)
    let r := (xw - n * hp) / 2 ^ (pw - p)
    let quad := (n % 4).toNat
    let sinV := sinAt p r
    let cosV := cosAt p r
    let q := if fn == .sin then quad else (quad + 1) % 4
    let v := match q with
      | 0 => sinV
      | 1 => cosV
      | 2 => -sinV
      | _ => -cosV
    let err : Int := 64 * p
    (v - err, v + err, p)
  | .tanh =>
    let p := p0 + 2 * small + 24
    if big > 6 then
      let one : Int := 2 ^ p
      if neg then (-one, -one + 2, p) else (one - 2, one, p)
    else
      let (v, n) := expSplit p (2 * atScale p m e)
      let ex : Int := v * pow2 n
      let t := (ex - 2 ^ p) * 2 ^ p / (ex + 2 ^ p)
      let err : Int := 8000 * p
      if neg then (-t - err, -t + err, p) else (t - err, t + err, p)
  | .sigm =>
    let p := p0 + small + 24
    if big > 7 then
      (if neg then (0, 1, 200) else (2 ^ 200 - 1, 2 ^ 200, 200))
    else
      let (v, n) := expSplit (p + 200) (-(atScale (p + 200) z e))
      let pp := p + 200
      let ex : Int := if n ≥ 0 then v * pow2 n else v / pow2 (-n)
      let t := 2 ^ (2 * pp) / (ex + 2 ^ pp)
      (t - 8000 * p, t + 8000 * p, pp)

/-- One end of a bracket as an exact value strictly inside the reals. -/
def endValue (z : Int) (p : Nat) : Xr := .fin (decide (z < 0)) z.natAbs (-(p : Int)) true

/-- Round a bracketed function to FP32: the first precision at which both ends round alike decides. -/
def roundBracket (fn : SpFn) (neg : Bool) (m : Nat) (e : Int) : List Nat → Word
  | [] => 0
  | p :: rest =>
    let (lo, hi, s) := bracketFn fn neg m e p
    let a := e32 (endValue lo s)
    let b := e32 (endValue hi s)
    if a == b || rest.isEmpty then a else roundBracket fn neg m e rest

/-- Working precisions tried in turn. -/
def spPrecisions : List Nat := [64, 128, 256]

/-- The FP32 number one. -/
def oneF32 : Word := 0x3F800000

/-- The functions of R56 with their special cases, on FP32 encodings. -/
def specialF32 (fn : SpFn) (x : Word) : Word :=
  match d32 x with
  | .nan => 0x7FC00000
  | .inf neg =>
    match fn with
    | .exp2 | .exp => if neg then 0 else 0x7F800000
    | .log2 | .log => if neg then 0x7FC00000 else 0x7F800000
    | .sin | .cos => 0x7FC00000
    | .tanh => if neg then 0xBF800000 else oneF32
    | .sigm => if neg then 0 else oneF32
  | .fin neg m e _ =>
    if m == 0 then
      match fn with
      | .exp2 | .exp | .cos => oneF32
      | .log2 | .log => 0xFF800000
      | .sin | .tanh => x
      | .sigm => 0x3F000000
    else
      let mag : Int := e + Nat.log2 m
      let isPow := 2 ^ Nat.log2 m == m
      match fn with
      | .exp2 =>
        if mag ≥ 8 then (if neg then 0 else 0x7F800000)
        else if 0 ≤ e || m % pow2 (-e) == 0 then
          let n : Int := if 0 ≤ e then m * pow2 e else m / pow2 (-e)
          e32 (.fin false 1 (if neg then -n else n) false)
        else roundBracket fn neg m e spPrecisions
      | .exp =>
        if mag ≥ 8 then (if neg then 0 else 0x7F800000) else roundBracket fn neg m e spPrecisions
      | .log2 =>
        if neg then 0x7FC00000
        else if isPow then (if mag = 0 then 0 else e32 (ofInt mag 0))
        else roundBracket fn neg m e spPrecisions
      | .log =>
        if neg then 0x7FC00000
        else if isPow && mag = 0 then 0
        else roundBracket fn neg m e spPrecisions
      | _ => roundBracket fn neg m e spPrecisions

def rcpF32 (x : Word) : Word := e32 (xdiv (.fin false 1 0 false) (d32 x))
def rsqrtF32 (x : Word) : Word := e32 (xrsqrt (d32 x))
def sqrtF32 (x : Word) : Word := e32 (xsqrt (d32 x))
def divF32 (x y : Word) : Word := e32 (xdiv (d32 x) (d32 y))

end Sys2Proof.Machine
end

