-- ==== Sys2Proof/Machine/Spiral.lean ====
section
/-!
DEFINITION. The spiral instructions (R293 to R299): their checks, translation, requests and replies.
-/
namespace Sys2Proof.Machine

/-- One access per page that a range touches, numbered from 0: what an instruction that executes once translates. -/
def pageAccs (a n : Nat) : List LaneAcc :=
  if n = 0 then [] else
  (List.range ((a + n - 1) / 2 ^ 16 + 1 - a / 2 ^ 16)).map (fun i => ⟨i, if i = 0 then a else (a / 2 ^ 16 + i) * 2 ^ 16⟩)

/-- The translation and permission faults of an instruction that executes once: they name every selected lane (R190,
R294). -/
def onceFaults (s : State) (f : Flight) : Option State :=
  let badT := f.lanes.filter (fun a => (laneCause f a).isSome)
  let badP := (f.lanes.filter (fun a => (laneCause f a).isNone)).filter (laneForbidden s (flightPart s f) f)
  match badT, badP with
  | [], [] => none
  | _, _ =>
    let s1 := abandonFlight s f
    let s2 := match badT with
      | [] => s1
      | a :: _ => flightFault s1 f 0x08 ((laneCause f a).getD 0) f.sel a.va
    some (match badP with
      | [] => s2
      | a :: _ => flightFault s2 f 0x09 0 f.sel a.va)

/-- The issue of an instruction that may still prove to have no effect: its flag and registers keep their earlier owners until
its translation is known, and how the group stood is kept (R28, R74, R294). -/
def keepUndo (c : Ctx) (g : Group) : Group :=
  let n := c.f.setf.toNat - 1
  let g1 := if c.f.setf = 0 then g else
    { g with flags := (g.flags &&& ~~~(flagBit n)) ||| (c.g.flags &&& flagBit n)
             flagOwner := match mfind n c.g.flagOwner with
               | some o => mput n o g.flagOwner
               | none => mdel n g.flagOwner }
  { g1 with undo := some ⟨c.g.splits, c.g.stamps, c.g.lastIssue, c.g.lastPlace, c.g.issued, c.g.sync⟩ }

/-- The instruction takes its flag and its registers, as at its issue (R28, R74); nothing has issued from its group since. -/
def takeOwn (s : State) (f : Flight) : State :=
  updGroup s f.uid (fun g =>
    match g.undo with
    | none => g
    | some _ =>
      let g1 := if f.setf = 0 then g else takeFlag (f.setf - 1) f.id g
      { f.dests.foldl (takeReg f.id) g1 with undo := none })

/-- A split as it stood before the issue, but for a `callv` whose lanes have returned since (R99): it goes on when the split that
holds those lanes now may. -/
def undoSplit (now : List Split) (sp : Split) : Split :=
  match sp.calling with
  | none => sp
  | some o =>
    if now.any (fun x => x.calling == some o) then sp
    else { sp with calling := none
                   earliest := ((now.find? (fun x => x.mask &&& sp.mask != 0)).map (·.earliest)).getD sp.earliest }

/-- The `bar.sync` that the issue matched is pending again, with its ARV (R129). -/
def undoSync (g : Group) : Option Nat → Group
  | none => g
  | some key => { setBarBits g key { barBits g key with arv := true } with sync := some key }

/-- The group stands as before the issue: what other instructions have done since stays done. -/
def undoIssue (g : Group) : Group :=
  match g.undo with
  | none => g
  | some u =>
    { undoSync g u.sync with splits := normSplits (u.splits.map (undoSplit g.splits)), stamps := u.stamps,
                             lastIssue := u.lastIssue, lastPlace := u.lastPlace, issued := u.issued, undo := none }

/-- A precise fault that only a translation could show (R189, R294): the instruction has no effect, and stands again at its own
address (log 17). -/
def undoFault (s : State) (f : Flight) (code detail : Nat) : State :=
  flightFault (updGroup (abandonFlight s f) f.uid (fun g => undoIssue (if g.busy = some f.id then { g with busy := none } else g))) f
    code detail f.sel 0

/-- Addresses of the tiles of a virtual range (R294). -/
def rangeTiles (a n : Nat) : List Nat :=
  (List.range ((a + n - 1) / 1024 + 1 - a / 1024)).map (fun i => (a / 1024 + i) * 1024)

/-- What a spiral instruction asks of each tile's front. -/
def spiralAsk (f : Flight) : Ask :=
  match f.op with
  | .hdist => .hdist (f.f.opx.getLsbD 0)
  | .hpin => .hpin
  | .hunpin => .hunpin
  | .hpre => .hpre f.at2
  | .hdemote => .hdemote (f.f.opx.getLsbD 0)
  | _ => .hocc

/-- A spiral instruction whose pages are translated sends one request per tile, one per clk, in ascending address
(R294). -/
def finishSpiral (s : State) (f : Flight) : State :=
  let s0 := takeOwn s f
  match onceFaults s0 f with
  | some s1 => s1
  | none =>
    let part := flightPart s0 f
    let pa (va : Nat) : Nat := ((tlbFind s0 part va).map (fun e => entryPa e va)).getD 0
    let remote := f.lanes.any (fun a => lineModule (pa a.va / 128) != s0.module)
    if remote && f.op != .hdist then undoFault s f 0x50 3
    else if remote && (unreachable s0 part f.lanes).length != 0 then flightFault (abandonFlight s0 f) f 0x63 1 f.sel f.acc
    else
      let s1 := updGroup s0 f.uid (fun g => { g with busy := if g.busy = some f.id then none else g.busy })
      let s2 := settleNr (updFlight s1 f.id (fun x => { x with sent := true })) f
      let tiles := if f.op == .hdist || f.op == .hocc then [f.acc] else rangeTiles f.acc f.at1
      tiles.foldl (fun st0 va =>
        let (k, st1) := postSlot st0 (flightCore s0 f) true
        let (id, st) := newId st1
        let r := flightReq st f id (spiralAsk f) (pa va / 128) 1 va false
        updFlight (sendReq st r k) f.id (fun x => { x with reqs := x.reqs ++ [id] })) s2

/-- The byte count of a spiral instruction: 1 for the forms that name one address (R294). -/
def spiralCount (c : Ctx) (s : State) : Nat := if c.op == .hdist || c.op == .hocc then 1 else (srcS s c 2).toNat
/-- The target slot of `hpre` (R298). -/
def spiralSlot (c : Ctx) (s : State) : Nat := if c.op == .hpre then (srcS s c 3).toNat else 0

/-- An instruction with a scalar destination that is answered at issue (R137, R138, R294): it becomes the owner of its register, so
that an earlier owner's data are discarded (R74), and the answer makes the register full. -/
def answerNow (s : State) (c : Ctx) (x : DWord) : State :=
  writeAt (updGroup s c.g.uid (fun g => (destRegs c.op c.f).foldl (fun g r => fillReg c.id (takeReg c.id g r) r) g)) c 1
    (.s c.f.d.toNat x)

/-- A spiral instruction without bytes completes at once; any other is in flight, and the group does not go on while its
translation may still find a precise fault (R294). -/
def startSpiral (c : Ctx) (s : State) : State :=
  let a := (srcS s c 1).toNat
  let n := spiralCount c s
  if n = 0 then (if c.op == .hpin then answerNow s c 0 else finishAt s c 1)
  else
    let f := { newFlight c .spiral with dests := destRegs c.op c.f, lanes := pageAccs a n, acc := a, at1 := n, at2 := spiralSlot c s }
    let s1 := if c.op == .hdist then launchFlight s c f
      else updGroup { s with flights := s.flights ++ [f] } c.g.uid (fun g => { keepUndo c g with busy := some c.id })
    advanceOn finishSpiral s1 f

/-- The issue of a spiral instruction (R294): the count and target checks. -/
def spiralOwn (c : Ctx) (s : State) : Verdict :=
  if 1048576 < spiralCount c s || 2 ^ 64 < (srcS s c 1).toNat + spiralCount c s then .raise 0x50 1 c.sel 0
  else if 2047 < spiralSlot c s then .raise 0x50 2 c.sel 0
  else .act (startSpiral c s)

def execHdist (f : ExtWord) (s : State) : Host.Outcome State Fault Refusal := issue .hdist (.ext f) spiralOwn s
def execHpin (f : ExtWord) (s : State) : Host.Outcome State Fault Refusal := issue .hpin (.ext f) spiralOwn s
def execHunpin (f : ExtWord) (s : State) : Host.Outcome State Fault Refusal := issue .hunpin (.ext f) spiralOwn s
def execHpre (f : ExtWord) (s : State) : Host.Outcome State Fault Refusal := issue .hpre (.ext f) spiralOwn s
def execHdemote (f : ExtWord) (s : State) : Host.Outcome State Fault Refusal := issue .hdemote (.ext f) spiralOwn s
def execHocc (f : ExtWord) (s : State) : Host.Outcome State Fault Refusal := issue .hocc (.ext f) spiralOwn s

/-- The copy fields of `hdist.copy` for a line homed on another module, read at the requesting sector's arm (R295). -/
def remoteCopyWord (s : State) (r : Req) : Nat :=
  let a := armAt s (copyHome s r)
  let moving := betweenSlots a (r.line / 8)
  match tileAt? a (r.line / 8) with
  | none => 2 ^ 15 + (if moving then 2 ^ 13 else 0) + 0xFFF
  | some t =>
    2 ^ 15 + (if moving then 2 ^ 13 else 0) + (if t.pin.isSome then 2 ^ 12 else 0) + (if moving then 0xFFF else t.slot)

/-- Whether the reply to an `hdist.copy` of a line of another module waits for its copy tile, which travels, to land (R295). -/
def copyTravels (s : State) (r : Req) : Bool :=
  r.ask == .hdist true && lineModule r.line != s.module &&
    (match motionOf? (armAt s (copyHome s r)) (r.line / 8) with | some (.travel _) => true | _ => false)

/-- The result of an `hdist` reply as the issuing core writes it (R295). -/
def hdistResult (s : State) (r : Req) (cp : Bool) : DWord :=
  if lineModule r.line = s.module then r.result
  else
    let x := r.result.toNat % 2 ^ 24
    let y := if cp then x / 2 ^ 16 * 2 ^ 16 + remoteCopyWord s r else x
    BitVec.ofNat 64 (2 ^ 32 + lineModule r.line * 2 ^ 24 + y)

/-- A reply to a spiral request: results gather, and the instruction completes with its last request (R294). -/
def spiralReply (s : State) (r : Req) : State :=
  let s1 := delReq s r.id
  match flightAt? s1 r.op with
  | none => s1
  | some f =>
    let x : DWord := match r.ask with
      | .hdist cp => hdistResult s r cp
      | .hocc => r.result
      | .hpin => (f.vals.headD 0) + r.result
      | _ => 0
    let f1 := { f with reqs := f.reqs.filter (· != r.id), vals := [x] }
    let s2 := updFlight s1 f.id (fun _ => f1)
    if f1.reqs.isEmpty then
      let s3 := if f.dests.isEmpty then s2 else updGroup s2 f.uid (fun g => ownWriteS g f.id f.f.d.toNat x)
      completeFlight s3 f1
    else s2

end Sys2Proof.Machine
end

