-- ==== Sys2Proof/Machine/System.lean ====
section
/-!
DEFINITION. Trap and system instructions (R139 to R141), device-side launches (R137, R138) and migration (R101, R122).
-/
namespace Sys2Proof.Machine

/-- The service block of a group's context (R340); the reset block where no virtual device names the context. -/
def groupVd? (s : State) (g : Group) : Option Nat := vdOfCtx? s (groupCtx s g)
def groupBlock (s : State) (g : Group) : VdSt := ((groupVd? s g).map (vdAt s)).getD VdSt.reset

/-- A trap: the instruction completes, and the group stops with the next instruction as its resume address (R139,
R189). -/
def takeTrap (s : State) (c : Ctx) (code detail : Nat) : State :=
  raiseFault (finishAt s c 1) c.g.uid (mkEntry code detail c.sel 0 c.pc c.sp.place c.sp.stamp c.id (c.next % 2 ^ 19))

def ownTrap (c : Ctx) (s : State) : Verdict := .act (takeTrap s c 0x14 ((srcS s c 1).toNat % 2 ^ 16))
/-- `brk` traps where the context's debug bit is set (R139). -/
def breakpoint (c : Ctx) (s : State) : State := if (groupBlock s c.g).dbg then takeTrap s c 0x15 0 else finishAt s c 1

def ownBrk (c : Ctx) (s : State) : Verdict := .act (breakpoint c s)

/-- `rgn` (R140, R196). -/
def enterRegion (c : Ctx) (s : State) : State :=
  let x := BitVec.ofNat 64 ((c.rgn.toNat / 2 ^ 32 + 1) % 2 ^ 32 * 2 ^ 32 + c.pc % 2 ^ 19)
  writeAt (updGroup s c.g.uid (fun g => { g with nr := false, nrMay := [] })) c 2 (.sp 0x44 x)

def ownRgn (c : Ctx) (s : State) : Verdict :=
  match c.g.splits with
  | [sp] => if !sp.arms.isEmpty then .raise 0x04 0 c.sel 0 else .act (enterRegion c s)
  | _ => .raise 0x04 0 c.sel 0

/-- The 32 bytes of a trace record (R141). -/
def traceRecord (s : State) (c : Ctx) : List Byte :=
  leBytes 8 (timeNs s) ++ leBytes 8 (groupTeamNum s c.g) ++ leBytes 4 (placeWord s c.g).toNat ++ leBytes 4 c.pc ++
    leBytes 4 ((srcS s c 1).toNat % 2 ^ 32) ++ leBytes 4 0

/-- `mark` (R141, R340). -/
def traceMark (c : Ctx) (s : State) : State :=
  let s1 := match groupVd? s c.g with
    | none => s
    | some v =>
      let b := vdAt s v
      if b.trn = 0 then s
      else
        updVd (directWrite s (groupPart s c.g) (b.trbase + 32 * (b.trcnt % b.trn)) (traceRecord s c)) v (fun b =>
          { b with trcnt := (b.trcnt + 1) % 2 ^ 64 })
  finishAt s1 c 1

def ownMark (c : Ctx) (s : State) : Verdict := .act (traceMark c s)

/-- `evt` (R141). -/
def countEvent (c : Ctx) (s : State) : State :=
  let n := c.f.sa.toNat
  finishAt (updTeam s c.g.team (fun t => { t with evts := mset 0 n (mget 0 n t.evts + srcS s c 2) t.evts })) c 1

def ownEvt (c : Ctx) (s : State) : Verdict := .act (countEvent c s)

/-- The physical dies of a partition, for a context (R347, R102). -/
def partDies (s : State) (ctx part : Nat) : List Nat :=
  let p := partAt s part
  ((List.range 4).filter (fun d => decide (p.base / 24 ≤ d) && decide (d ≤ p.limit / 24))).map (physDie s ctx)

/-- `opt` (R141, R375): a granted request of a context stands until its next one. -/
def requestPoint (c : Ctx) (s : State) : State :=
  let n := c.f.sa.toNat
  let s1 := if !(groupBlock s c.g).optok then s
    else match groupVd? s c.g with
      | none => s
      | some v => updVd s v (fun b => { b with opt := n })
  finishAt s1 c 1

def ownOpt (c : Ctx) (s : State) : Verdict := .act (requestPoint c s)

/-- `prio` (R141). -/
def setPrio (c : Ctx) (s : State) : State := finishAt (updGroup s c.g.uid (fun g => { g with prio := c.f.sa.toNat })) c 1

def ownPrio (c : Ctx) (s : State) : Verdict := .act (setPrio c s)

def execTrap (f : ExtWord) (s : State) : Host.Outcome State Fault Refusal := issue .trap (.ext f) ownTrap s
def execBrk (f : ExtWord) (s : State) : Host.Outcome State Fault Refusal := issue .brk (.ext f) ownBrk s
def execRgn (f : ExtWord) (s : State) : Host.Outcome State Fault Refusal := issue .rgn (.ext f) ownRgn s
def execMark (f : ExtWord) (s : State) : Host.Outcome State Fault Refusal := issue .mark (.ext f) ownMark s
def execEvt (f : ExtWord) (s : State) : Host.Outcome State Fault Refusal := issue .evt (.ext f) ownEvt s
def execOpt (f : ExtWord) (s : State) : Host.Outcome State Fault Refusal := issue .opt (.ext f) ownOpt s
def execPrio (f : ExtWord) (s : State) : Host.Outcome State Fault Refusal := issue .prio (.ext f) ownPrio s

/-! ### Device-side launches -/

/-- A device-side launch enters the queue of its front end, and its record's pages are translated (R137, R346). -/
def queueLaunch (c : Ctx) (s : State) : State :=
  let a := (srcS s c 1).toNat
  let f := { newFlight c .launch with dests := destRegs c.op c.f, lanes := pageAccs a 512, acc := a }
  let vd := (groupVd? s c.g).getD 64
  let s1 := launchFlight s c f
  let s2 := updFe s1 (groupFe s c.g) (fun x => { x with devq := x.devq ++ [⟨c.id, c.g.uid, a, c.g.prio, vd⟩] })
  advanceOn (fun st f => updFlight st f.id (fun x => { x with sent := true })) s2 f

/-- `launch` (R137): a misaligned record and a full queue are answered at issue; otherwise the record is translated and
the front end takes the launch when it is its turn. -/
def askLaunch (c : Ctx) (s : State) : State :=
  if (srcS s c 1).toNat % 64 != 0 then answerNow s c 0x20
  else if 4096 ≤ (feAt s (groupFe s c.g)).devq.length then answerNow s c 0x22
  else queueLaunch c s

def ownLaunch (c : Ctx) (s : State) : Verdict := .act (askLaunch c s)

/-- `launch.wait` (R138): until every team of the launch has ended it holds the group's later global accesses, as the acquire
that its completion is (R182, R343). -/
def awaitLaunch (c : Ctx) (s : State) : State :=
  let w := srcS s c 1
  if w.toNat % 256 != 0 then answerNow s c w
  else
    match s.launches.find? (fun l => l.id == w.toNat / 256 && l.part == groupPart s c.g && l.kind == 1) with
    | none => answerNow s c 0x23
    | some l =>
      updGroup (launchFlight s c { newFlight c (.launchWait l.id) with dests := destRegs c.op c.f }) c.g.uid
        (fun g => { g with acq := g.acq ++ [c.id] })

def ownLaunchWait (c : Ctx) (s : State) : Verdict := .act (awaitLaunch c s)

def execLaunch (f : ExtWord) (s : State) : Host.Outcome State Fault Refusal := issue .launch (.ext f) ownLaunch s
def execLaunchWait (f : ExtWord) (s : State) : Host.Outcome State Fault Refusal :=
  issue .launchWait (.ext f) ownLaunchWait s

/-- A flight with a scalar result completes (R74). -/
def completeWith (s : State) (f : Flight) (x : DWord) : State :=
  completeFlight (updGroup s f.uid (fun g => ownWriteS g f.id f.f.d.toNat x)) f

/-- The launch word of R137. -/
def launchWord (id status : Nat) : DWord := BitVec.ofNat 64 (id * 256 + status)

/-- LAUNCH_WAIT_DONE (R138): every team of the launch has ended. -/
def launchWaitReady (s : State) (f : Flight) : Bool :=
  match f.work with
  | .launchWait id => (match launchAt? s id with | some l => l.phase == .ended || l.phase == .listing | none => true)
  | _ => false

def execLaunchWaitDone (op : Nat) (s : State) : Host.Outcome State Fault Refusal :=
  .next (match flightAt? s op with
    | none => s
    | some f =>
      if !(launchWaitReady s f) then s
      else
        match f.work with
        | .launchWait id => completeWith s f (launchWord id (((launchAt? s id).map (·.status)).getD 0))
        | _ => s)

/-! ### Migration -/

/-- The logical (die, sector, cluster) that an address names for `migrate` (R101); none where its home arm is on another
module. -/
def migrateTarget (s : State) (ctx part pa : Nat) : Option (Nat × Nat × Nat) :=
  if pa / 2 ^ 48 != s.module then none
  else
    let (d, sc, a) := logArm s ctx (homeArm s part (pa % 2 ^ 48))
    some (d, sc, a / 2)

/-- Whether a logical cluster lies in a partition (R347). -/
def clusterIn (p : PartSt) (d sc c : Nat) : Bool :=
  let n := 24 * d + 8 * sc + c
  decide (p.base ≤ n) && decide (n ≤ p.limit)

/-- `migrate` with its address translated: a translation fault, no move, or the wait for the drain (R101, R122). -/
def finishMigrate (s : State) (f : Flight) : State :=
  match f.lanes, groupAt? s f.uid with
  | a :: _, some g =>
    (match laneCause f a with
      | some k => flightFault (abandonFlight s f) f 0x08 k f.sel a.va
      | none =>
        let pa := ((tlbFind s (groupPart s g) a.va).map (fun e => entryPa e a.va)).getD 0
        let s1 := settleNr s f
        match migrateTarget s (groupCtx s g) (groupPart s g) pa with
        | none => completeFlight s1 f
        | some (d, sc, c) =>
          if !(clusterIn (partAt s (groupPart s g)) d sc c) || physCluster s (groupCtx s g) d sc c + 9 * (3 * physDie s (groupCtx s g) d + sc) == coreCluster g.core
          then completeFlight s1 f
          else updFlight s1 f.id (fun x => { x with sent := true, vals := [BitVec.ofNat 64 d, BitVec.ofNat 64 sc, BitVec.ofNat 64 c] }))
  | _, _ => s

/-- A `migrate` holds its group while its address is translated and its earlier work drains (R101). -/
def beginMigrate (c : Ctx) (s : State) : State :=
  let f := { newFlight c (.migrate (srcS s c 1).toNat) with lanes := [⟨0, (srcS s c 1).toNat⟩] }
  let s1 := updGroup (launchFlight s c f) c.g.uid (fun g => { g with busy := some c.id })
  advanceOn finishMigrate s1 f

def ownMigrate (c : Ctx) (s : State) : Verdict :=
  if c.g.splits.length != 1 || c.sp.mask != 0xFFFFFFFF || !c.sp.arms.isEmpty then .raise 0x04 0 c.sel 0
  else
    .act (beginMigrate c s)

def execMigrate (f : ExtWord) (s : State) : Host.Outcome State Fault Refusal := issue .migrate (.ext f) ownMigrate s

/-- Vector registers per lane of a group (R83). -/
def groupRegs (s : State) (g : Group) : Nat := ((teamAt? s g.team).map (·.vregs)).getD 0

/-- Slots of ended groups that the teams of a core still keep (R90, R107). -/
def heldSlots (s : State) (core : Nat) : List Nat := (s.teams.filter (fun t => t.core == core)).flatMap (·.held)

/-- Registers per lane that those slots keep. -/
def heldRegs (s : State) (core : Nat) : Nat := ((s.teams.filter (fun t => t.core == core)).map (fun t => t.held.length * t.vregs)).sum

/-- The free group slots of a core, ascending. -/
def freeSlots (s : State) (core : Nat) : List Nat :=
  (List.range 64).filter (fun n => !((heldSlots s core).contains n) && !(s.groups.any (fun g => g.core == core && g.slot == n)))

/-- The lowest free group slot of a core beside some that are taken, if it has one (R90). -/
def freeSlot (s : State) (core : Nat) (taken : List Nat) : Option Nat :=
  (freeSlots s core).find? (fun n => !(taken.contains n))

/-- Whether a core has room for a group's registers beside those it holds (R89, R101). -/
def regRoom (s : State) (core v : Nat) : Bool :=
  decide (((s.groups.filter (fun g => g.core == core)).map (groupRegs s)).sum + heldRegs s core + v ≤ 4096)

/-- Whether a slot's next generation is one for which no request is in flight, so that a group may be placed there (R201). -/
def genFree (s : State) (core slot : Nat) : Bool :=
  s.reqs.all (fun r => match r.src with
    | .core _ k | .prom _ k => !(k == core && r.slot == slot && r.gen == BitVec.ofNat 16 (nextGen s core slot))
    | _ => true)

/-- The group leaves every team barrier as `bar.drop` would remove it (R101). -/
def leaveBars (s : State) (g : Group) : State :=
  if g.callee then s
  else
    (List.range 16).foldl (fun st b =>
      match groupAt? st g.uid with
      | none => st
      | some x =>
        let bits := barBits x b
        if bits.drop then st
        else
          let s1 := updGroup st g.uid (fun x => setBarBits x b ⟨false, bits.aph, true⟩)
          let s2 := updBar s1 g.team b (fun t => { t with drops := t.drops + 1 })
          if bits.arv then s2
          else updBar s2 g.team b (fun t => { t with count := t.count + 1 })) s

/-- The writes of a group that device scope has not acknowledged stay with its launch (R343). -/
def leaveWrites (s : State) (u : Nat) (g : Group) : State :=
  let left := (s.reqs.filter (fun r => r.uid == u && asksWrite r.ask && !(ackedAt s r 6))).map (·.id)
  updLaunch s (((teamAt? s g.team).map (·.launch)).getD 0) (fun l => { l with outstanding := l.outstanding ++ left })

/-- Whether a group waiting in a `migrate` has drained (R101): its flights have completed, and the link commands that its
`lput` and `lget` became. -/
def migrateReady (s : State) (g : Group) : Bool :=
  s.flights.any (fun f => f.uid == g.uid && f.sent && (match f.work with | .migrate _ => true | _ => false)) &&
  s.flights.all (fun f => f.uid != g.uid || (match f.work with | .migrate _ => true | _ => false)) &&
  s.cmds.all (fun x => x.uid != g.uid) && g.stop.isNone && !g.halted

/-- A migrating group takes the lowest free slot of its new core and leaves its barriers and its team's storage (R101); its
`migrate` waits for the group's next instruction (R122), which its `at2` names by the group's count of issues. -/
def moveGroup (s : State) (u : Nat) (g : Group) (f : Flight) (k : Nat) : State :=
  let slot := (freeSlot s k []).getD 0
  let gen := nextGen s k slot
  let arrive := coreClk s k + transitClk (coreSector g.core) (coreSector k)
  let run := coreClk s g.core - g.placed
  let s1 := noteGen (leaveBars (leaveWrites (flushPend s u) u g) g) k slot gen
  let s2 := updGroup s1 u (fun g =>
    { g with core := k, slot := slot, gen := BitVec.ofNat 16 gen, lastIssue := arrive, resumed := true,
             placed := coreClk s k - run, moved := true, depart := some (timeNs s),
             splits := g.splits.map (fun sp => { sp with earliest := 0 }) })
  let s3 := updTeam s2 g.team (fun t => { t with left := t.left + 1 })
  updFlight (updGroup s3 u (fun g => { g with busy := none })) f.id (fun f => { f with sent := false, at2 := g.issued + 1 })

/-- Whether a group that has moved has issued an instruction at its target, with which its `migrate` completes (R122). -/
def migrateDone (s : State) (f : Flight) : Bool :=
  f.at2 != 0 && (match groupAt? s f.uid with | some g => decide (f.at2 ≤ g.issued) | none => true)

/-- A flight is a group's `migrate`. -/
def isMigrateOf (u : Nat) (f : Flight) : Bool := f.uid == u && (match f.work with | .migrate _ => true | _ => false)

/-- MIGRATE_MOVE (R101): the group moves to the lowest-numbered core of the target cluster with room, or stays; or the
`migrate` of a group that has moved completes (R122). -/
def execMigrateMove (u : Nat) (s : State) : Host.Outcome State Fault Refusal :=
  .next (match groupAt? s u, s.flights.find? (isMigrateOf u) with
    | some g, some f =>
      if migrateDone s f then completeFlight s f
      else if !(migrateReady s g) then s
      else
        match f.vals with
        | [d, sc, c] =>
          let ctx := groupCtx s g
          let cores := (List.range 6).map (fun k => physCore s ctx d.toNat sc.toNat c.toNat k)
          (match cores.find? (fun k => ((freeSlot s k []).any (genFree s k)) && regRoom s k (groupRegs s g)) with
            | none => completeFlight s f
            | some k =>
              moveGroup s u g f k)
        | _ => s
    | _, _ => s)

/-- DEPARTURE_WINDOW_END (R179): the group's loads may use copies in other sectors again. -/
def departureOver (s : State) (g : Group) : Bool :=
  match g.depart with
  | some d => decide (d + 64 * ((partAt s (groupPart s g)).lt + 1) + 20 < timeNs s)
  | none => false

def execDepartureWindowEnd (u : Nat) (s : State) : Host.Outcome State Fault Refusal :=
  .next (match groupAt? s u with
    | none => s
    | some g => if departureOver s g then updGroup s u (fun g => { g with depart := none }) else s)

end Sys2Proof.Machine
end

