-- ==== Sys2Proof/Machine/Matrix.lean ====
section
/-!
DEFINITION. The matrix engine (R213 to R256): slots and claims, format blocks, the array and its queue, feeds and
accumulator transfers, online softmax, iterations, gangs.
-/
namespace Sys2Proof.Machine

/-! ### The accumulator and the slots -/

/-- −Inf, what mx reads after a reset (R213). -/
def negInf : Word := 0xFF800000
def posInf : Word := 0x7F800000

/-- Row and column of a quarter's origin (R218). -/
def quarterRow (q : Nat) : Nat := 128 * (q / 2)
def quarterCol (q : Nat) : Nat := 128 * (q % 2)

def accAt (m : MatrixSt) (i j : Nat) : Word := mget 0 (256 * i + j) m.acc
/-- Element (i, j) of a quarter. -/
def quarterAt (m : MatrixSt) (q i j : Nat) : Word := accAt m (quarterRow q + i) (quarterCol q + j)
/-- Write elements given as (row, column, value). -/
def accPut (m : MatrixSt) (xs : List (Nat × Nat × Word)) : MatrixSt :=
  { m with acc := xs.foldl (fun a x => mset 0 (256 * x.1 + x.2.1) x.2.2 a) m.acc }
/-- The elements of an n × k block with a function of row and column. -/
def grid {α : Type} (n k : Nat) (f : Nat → Nat → α) : List α :=
  ((List.range n).map (fun i => (List.range k).map (f i))).flatten
/-- Write the r × c corner of a quarter. -/
def quarterPut (m : MatrixSt) (q r c : Nat) (f : Nat → Nat → Word) : MatrixSt :=
  accPut m (grid r c (fun i j => (quarterRow q + i, quarterCol q + j, f i j)))

def mxAt (m : MatrixSt) (i : Nat) : Word := mget negInf i m.mx
def coefAt (m : MatrixSt) (n : Nat) : Word := mget 0 n m.coef

/-- Byte b of an operand that starts in slot o and runs on through the next ones (R240). -/
def slotByte (m : MatrixSt) (o b : Nat) : Byte := mget 0 (32768 * o + b) m.slots
def slotNat (m : MatrixSt) (o b n : Nat) : Nat := leNat ((List.range n).map (fun i => slotByte m o (b + i)))

/-- Whether a group slot holds an operand slot (R215): a claim entry is 1 + the holder's group slot. -/
def slotHeld (s : State) (core o slot : Nat) : Bool := mget 0 o (matAt s core).claims == slot + 1
/-- Slots of a mask (R245). -/
def maskSlots (mask : Nat) : List Nat := (List.range 16).filter (fun o => mask.testBit o)
def fdOf (s : State) (core o : Nat) : Nat := mget 0 o (matAt s core).fd
def rdOf (s : State) (core o : Nat) : Nat := mget 0 o (matAt s core).rd
/-- One interlock count, `k`, rises or falls in clk `t` (R216). -/
def noteMark (t k : Nat) (up : Bool) (m : MatrixSt) : MatrixSt :=
  let m1 := if m.marked = t + 1 then m else { m with marked := t + 1, rose := [], fell := [] }
  if up then { m1 with rose := m1.rose ++ [k] } else { m1 with fell := m1.fell ++ [k] }
def addFd (s : State) (core o : Nat) (up : Bool) : State :=
  updMat s core (fun m => noteMark (coreClk s core) (2 * o) up
    { m with fd := mset 0 o (if up then mget 0 o m.fd + 1 else mget 0 o m.fd - 1) m.fd })
def addRd (s : State) (core o : Nat) (up : Bool) : State :=
  updMat s core (fun m => noteMark (coreClk s core) (2 * o + 1) up
    { m with rd := mset 0 o (if up then mget 0 o m.rd + 1 else mget 0 o m.rd - 1) m.rd })
/-- An interlock count as it stood at the start of the clk (R216). -/
def atStart (s : State) (core k now : Nat) : Nat :=
  let m := matAt s core
  if m.marked = coreClk s core + 1 then now + m.fell.count k - m.rose.count k else now
/-- Whether a slot's FD, and its RD, were 0 at the start of the clk (R216). -/
def fdClear (s : State) (core o : Nat) : Bool := atStart s core (2 * o) (fdOf s core o) == 0
def rdClear (s : State) (core o : Nat) : Bool := atStart s core (2 * o + 1) (rdOf s core o) == 0
/-- Reads of a flight are kept as 16 × core + slot. -/
def readMarks (s : State) (rs : List Nat) (up : Bool) : State := rs.foldl (fun st r => addRd st (r / 16) (r % 16) up) s

/-! ### Format blocks (R43 to R47) -/

/-- A format block. -/
structure FmtBlock where
  raw : Nat
  efmt : Nat
  sfmt : Nat
  blk : Nat
  saddr : Nat
  zaddr : Nat

def blockOf (x : Nat) : FmtBlock := ⟨x, bits x 7 0, bits x 15 12, bits x 19 16, bits x 50 32, bits x 82 64⟩
/-- The pair of blocks in 32 bytes. -/
def blocksOf (bs : List Byte) : FmtBlock × FmtBlock := (blockOf (leNat (bs.take 16)), blockOf (leNat (bs.drop 16)))
/-- Block length along k; 0 for none. -/
def blockLen (b : FmtBlock) : Nat := if b.blk = 0 then 0 else 8 * 2 ^ b.blk

def reservedBad (b : FmtBlock) : Bool := bits b.raw 11 8 != 0 || bits b.raw 31 20 != 0 || bits b.raw 63 51 != 0 || bits b.raw 127 83 != 0
def efmtBad (b : FmtBlock) : Bool := b.efmt == 0 || decide (0x0A < b.efmt)
/-- R44. -/
def scaleBad (b : FmtBlock) : Bool :=
  match b.efmt with
  | 4 | 5 => !((b.sfmt == 0 && b.blk == 0) || (b.sfmt == 1 && decide (1 ≤ b.blk) && decide (b.blk ≤ 4)))
  | 6 => !((b.sfmt == 0 && b.blk == 0) || (b.sfmt == 1 && decide (1 ≤ b.blk) && decide (b.blk ≤ 2)))
  | 7 => !(b.sfmt == 1 && b.blk == 2)
  | 0x0A => !(b.sfmt == 2 && decide (2 ≤ b.blk) && decide (b.blk ≤ 4))
  | _ => !(b.sfmt == 0 && b.blk == 0)
def addrBad (b : FmtBlock) : Bool := (b.efmt != 0x0A && b.zaddr != 0) || (b.sfmt == 0 && b.saddr != 0)

/-- Chunk length and rate of an operand pair (R45). -/
def pairRate (a b : Nat) : Option (Nat × Nat) :=
  let f8 (x : Nat) : Bool := x == 4 || x == 5
  let i8 (x : Nat) : Bool := x == 8 || x == 9
  let f4 (x : Nat) : Bool := x == 6 || x == 7
  if a == 1 && b == 1 then some (8, 1024)
  else if (a == 3 && b == 3) || (a == 2 && b == 2) || (a == 0x0A && b == 3) || (a == 3 && b == 0x0A) then some (16, 4096)
  else if (f8 a && f8 b) || (i8 a && i8 b) then some (32, 8192)
  else if (f4 a && f8 b) || (f8 a && f4 b) || (a == 6 && b == 6) then some (64, 16384)
  else none

/-- The first check of R46 that a pair fails, as the detail of R256; bit 15 names B's block. Of the checks on K, that it is a multiple
of C comes before that on either block's length (DESIGN CHOICE, log 92: R46 orders A's block before B's, and puts C nowhere). -/
def pairFault (a b : FmtBlock) (k : Nat) : Option Nat :=
  let two (n : Nat) (bad : FmtBlock → Bool) : Option Nat := if bad a then some n else if bad b then some (2 ^ 15 + n) else none
  let len (x : FmtBlock) : Bool := x.blk != 0 && k % blockLen x != 0
  let odd (x : FmtBlock) : Bool := x.sfmt == 2 && x.saddr % 2 == 1
  match two 2 reservedBad with
  | some d => some d
  | none => match two 3 efmtBad with
    | some d => some d
    | none => match two 4 scaleBad with
      | some d => some d
      | none => match two 5 addrBad with
        | some d => some d
        | none => match pairRate a.efmt b.efmt with
          | none => some 6
          | some (c, _) =>
            if k % c != 0 || len a then some 7
            else if len b then some (2 ^ 15 + 7)
            else two 8 odd

/-- The EFMT that TYPE names for A (R237). -/
def typeEfmt (t : Nat) : Nat :=
  match t with
  | 11 => 1 | 12 => 2 | 13 => 3 | 14 => 4 | 15 => 5 | 16 => 6 | 17 => 7 | 2 => 8 | 7 => 9 | _ => 0x0A

/-- Bits per element of a format. -/
def efmtWidth (e : Nat) : Nat :=
  match e with
  | 1 => 32 | 2 => 16 | 3 => 16 | 6 => 4 | 7 => 2 | 0x0A => 4 | _ => 8

/-- An element with its scale (R40 to R42, R240): row i of the stored operand, element k; `p` is its block's index
(R47), `cb` the codebook table of the core that computes. -/
def elemVal (m : MatrixSt) (cb : SMap Word) (spad : SMap Byte) (b : FmtBlock) (o kk i k p : Nat) : Xr :=
  let sc := if b.sfmt = 1 then e8m0 (readNat spad (b.saddr + p) 1) else some 0
  let w := efmtWidth b.efmt
  let bit := (i * kk + k) * w
  let raw := slotNat m o (bit / 8) ((w + 7) / 8) / 2 ^ (bit % 8) % 2 ^ w
  match b.efmt with
  | 1 => decodeF fmtF32 raw
  | 2 => decodeF fmtF16 raw
  | 3 => decodeF fmtBf16 raw
  | 4 => scaledBy sc (decodeF fmtE4m3 raw)
  | 5 => scaledBy sc (decodeF fmtE5m2 raw)
  | 6 => scaledBy sc (decodeF fmtE2m1 raw)
  | 7 =>
    let idx := slotNat m o ((i * kk + k) / 8 * 2) 2
    cbElem (mget 0 (idx / 128) cb) idx (k % 8) (readNat spad (b.saddr + p) 1)
  | 8 => ofInt (intOf true 8 raw) 0
  | 9 => ofInt raw 0
  | _ =>
    let z := readNat spad (b.zaddr + p / 2) 1 / (if p % 2 = 0 then 1 else 16) % 16
    int4Weight raw z (readNat spad (b.saddr + 2 * p) 2)

/-- Index of the block that holds element k of row or column i, of `n` columns for B (R47). -/
def blockIdx (b : FmtBlock) (kk i k n : Nat) (isB : Bool) : Nat :=
  if b.blk = 0 then 0 else if isB then k / blockLen b * n + i else i * (kk / blockLen b) + k / blockLen b

/-- Shape of `mmac` and `mgmac` (R236). -/
def macM (f : ExtWord) : Nat := 16 * 2 ^ (f.opx.toNat / 64)
def macN (f : ExtWord) : Nat := 16 * 2 ^ (f.opx.toNat / 8 % 8)
def macK (f : ExtWord) : Nat := 16 * 2 ^ (f.opx.toNat % 8)

/-- Slots that an operand of r rows spans (R240). -/
def spanSlots (o r k w : Nat) : List Nat := List.range' o ((r * k * w / 8 + 32767) / 32768)

/-- The scale and zero-point bytes of an operand: (address, bytes) ranges (R47). -/
def scaleRanges (b : FmtBlock) (r k : Nat) : List (Nat × Nat) :=
  if b.sfmt = 0 then []
  else
    let n := r * (k / blockLen b)
    (b.saddr, n * b.sfmt) :: (if b.efmt = 0x0A then [(b.zaddr, (n + 1) / 2)] else [])

/-- The product of R242 in a tile with its origin. -/
def macTile (ma mb md : MatrixSt) (spad : SMap Byte) (f : ExtWord) (fa fb : FmtBlock) : MatrixSt :=
  let kk := macK f
  let n := macN f
  let c := ((pairRate fa.efmt fb.efmt).map (·.1)).getD 8
  let r0 := quarterRow f.d.toNat
  let c0 := quarterCol f.d.toNat
  accPut md (grid (macM f) n (fun i j =>
    (r0 + i, c0 + j, matrixSum c (accAt md (r0 + i) (c0 + j)) ((List.range kk).map (fun k =>
      xmul (elemVal ma md.cb spad fa f.sa.toNat kk i k (blockIdx fa kk i k n false))
        (elemVal mb md.cb spad fb f.sb.toNat kk j k (blockIdx fb kk j k n true)))))))

/-! ### Issue checks (R235, R241) -/

def isIterOp (o : Op) : Bool := o == .mpoly || o == .miterG || o == .miterS
/-- KIND of an iteration instruction (R223). -/
def iterKind (o : Op) : Nat := if o = .mpoly then 1 else if o = .miterG then 2 else 3

/-- The matrix instruction acts for the whole group (R18). -/
def wholeGroup (c : Ctx) (k : Verdict) : Verdict := if c.sel != 0xFFFFFFFF then .raise 0x04 0 c.sel 0 else k

/-- A precise matrix fault. -/
def mraise (c : Ctx) (code detail : Nat) : Verdict := .raise code detail c.sel 0

/-- A scratchpad range's checks: misaligned, allocation, range guard (R159, R235). -/
def rangeCheck (s : State) (c : Ctx) (align : Nat) (write : Bool) (rs : List (Nat × Nat)) : Option (Nat × Nat) :=
  match rs.find? (fun r => r.1 % align != 0) with
  | some r => some (0x06, r.1)
  | none =>
    match rs.find? (fun r => decide (spadBytes s c.g < r.1 + r.2)) with
    | some r => some (0x05, r.1)
    | none => (rs.find? (fun r => guarded s c.g.core c.g.team r.1 (r.1 + r.2) write)).map (fun r => (0x07, r.1))

/-- Array instructions of a core that have issued and not completed (R241). -/
def arrayCount (s : State) (core : Nat) : Nat :=
  ((matAt s core).queue.filter (fun o => ((flightAt? s o).map (·.work)) == some .array)).length

/-- Whether an iteration is held on a core (R241). -/
def iterHeld (s : State) (core : Nat) : Bool :=
  (matAt s core).loop.kind != 0 || (matAt s core).queue.any (fun o => ((flightAt? s o).map (fun f => isIterOp f.op)).getD false)

/-- Whether an iteration instruction takes up the one that the loop state holds (R227). -/
def resumesIter (s : State) (c : Ctx) : Bool :=
  let l := (matAt s c.g.core).loop
  isIterOp c.op && l.kind == iterKind c.op && l.slot == c.g.slot && (matAt s c.g.core).queue.isEmpty

/-- R241 for an array instruction. -/
def arrayRoom (s : State) (c : Ctx) : Bool :=
  decide (arrayCount s c.g.core < 4) && (!(iterHeld s c.g.core) || resumesIter s c)

/-- Put an array instruction, or a feed from the accumulator, into the core's array order (R219, R238). -/
def enqueueArray (s : State) (c : Ctx) (f : Flight) : State :=
  readMarks (updMat (launchFlight s c f) c.g.core (fun m => { m with queue := m.queue ++ [f.id] })) f.roots true

/-- An array instruction enters the array order with the slots it reads and the bytes and values it has read. -/
def enterArray (reads : List Nat) (mems : List Byte) (vals : List DWord) (c : Ctx) (s : State) : State :=
  enqueueArray s c { newFlight c .array with
    dests := destRegs c.op c.f
    roots := reads
    mems := bytesAt 0 mems
    vals := vals }

/-- Issue an array instruction, where the array has room and no slot it reads is being fed (R216, R241). -/
def arrayIssue (c : Ctx) (reads : List Nat) (mems : List Byte) (vals : List DWord) (s : State) : Verdict :=
  if !(arrayRoom s c) then .hold
  else if reads.any (fun o => !(fdClear s (o / 16) (o % 16))) then .hold
  else .act (enterArray reads mems vals c s)

/-! ### Gangs (R228 to R230, R255) -/

def inGang (m : MatrixSt) : Bool := m.gang.size != 0

/-- The physical cores of a mask of logical cores in a core's logical cluster. -/
def clusterCores (s : State) (ctx core mask : Nat) : List Nat :=
  let (d, sc, c, _) := logCore s ctx core
  ((List.range 6).filter (fun k => mask.testBit k)).map (fun k => physCore s ctx d sc c k)

/-- The members of a core's gang, in ascending logical core. -/
def gangCores (s : State) (ctx core : Nat) : List Nat := clusterCores s ctx core (matAt s core).gang.mask

/-- The member of a core's gang at a grid position. -/
def memberAt (s : State) (ctx core row col : Nat) : Option Nat :=
  (gangCores s ctx core).find? (fun k => (matAt s k).gang.row == row && (matAt s k).gang.col == col)

/-- The gang-state check of `mgmac`, `mgleave` and iterations (R255). -/
def gangState (s : State) (c : Ctx) : Option Nat :=
  let m := matAt s c.g.core
  if inGang m then (if m.member = some c.g.uid then none else some 3)
  else if c.op = .mgmac ∨ c.op = .mgleave then some 1 else none

/-- The latch lets a core's group issue in this clk (R230). -/
def latchLets (c : Ctx) (s : State) : Bool :=
  match (matAt s c.g.core).arrival with
  | some a => a.uid == c.g.uid && a.granted == c.clk + 1
  | none => false

/-- A core's rendezvous latch is empty again. -/
def clearLatch (c : Ctx) (s : State) : State := updMat s c.g.core (fun m => { m with arrival := none })

/-- A ganged instruction that passes its checks: it arrives at the latch, waits there, or issues in the clk in which the
latch lets it (R230). -/
def ganged (c : Ctx) (desc : Nat) (ready : Bool) (go : Verdict) (s : State) : Verdict :=
  match (matAt s c.g.core).arrival with
  | some a =>
    if a.uid = c.g.uid ∧ a.granted = c.clk + 1 then
      (match go with
        | .act s1 => .act (clearLatch c s1)
        | v => v)
    else .hold
  | none => if ready then .arrive ⟨c.g.uid, c.sp.place, c.clk, c.op, c.f, desc, 0, []⟩ else .hold

/-! ### Multiply-accumulate (R242 to R244) -/

/-- Steps 4 to 6 of R235 for a format-block pair: the blocks, or the fault. -/
def pairCheck (s : State) (c : Ctx) : Except Verdict (List Byte) :=
  let a := (srcS s c 3).toNat
  if a % 16 != 0 then .error (mraise c 0x21 1)
  else if spadBytes s c.g < a + 32 then .error (.raise 0x05 0 c.sel a)
  else
    let bs := readBytes (((teamAt? s c.g.team).map (·.spad)).getD []) a 32
    let (fa, fb) := blocksOf bs
    match pairFault fa fb (macK c.f) with
    | some d => .error (mraise c 0x21 d)
    | none =>
      if fa.efmt != typeEfmt c.f.ty.toNat then .error (mraise c 0x21 9)
      else if (fa.efmt == 0x0A || fb.efmt == 0x0A) && coreCap s c.g.core % 2 == 0 then .error (mraise c 0x22 0)
      else
        match rangeCheck s c 1 false (scaleRanges fa (macM c.f) (macK c.f) ++ scaleRanges fb (macN c.f) (macK c.f)) with
        | some (code, x) => .error (.raise code 0 c.sel x)
        | none => .ok bs

/-- The shape checks of R240 and R242. -/
def macShape (c : Ctx) (fa fb : FmtBlock) : Option Nat :=
  let w (f : FmtBlock) : Nat := efmtWidth f.efmt
  if 256 < quarterRow c.f.d.toNat + macM c.f ∨ 256 < quarterCol c.f.d.toNat + macN c.f then some 1
  else if 16 * 32768 < c.f.sa.toNat * 32768 + macM c.f * macK c.f * w fa / 8 ∨
    16 * 32768 < c.f.sb.toNat * 32768 + macN c.f * macK c.f * w fb / 8 then some 2
  else none

/-- Slots that the two operands span. -/
def macSpans (f : ExtWord) (fa fb : FmtBlock) : List Nat × List Nat :=
  (spanSlots f.sa.toNat (macM f) (macK f) (efmtWidth fa.efmt), spanSlots f.sb.toNat (macN f) (macK f) (efmtWidth fb.efmt))

/-- Every slot that the operands of `mmac` span. -/
def macSlots (f : ExtWord) (bs : List Byte) : List Nat :=
  let (xa, xb) := macSpans f (blocksOf bs).1 (blocksOf bs).2
  xa ++ xb

/-- `mmac` (R242). -/
def ownMmac (c : Ctx) (s : State) : Verdict :=
  wholeGroup c (
    let held (o : Nat) : Bool := slotHeld s c.g.core o c.g.slot
    if !(held c.f.sa.toNat && held c.f.sb.toNat) then mraise c 0x20 0
    else
      match pairCheck s c with
      | .error v => v
      | .ok bs =>
        match macShape c (blocksOf bs).1 (blocksOf bs).2 with
        | some d => mraise c 0x23 d
        | none =>
          if !((macSlots c.f bs).all held) then mraise c 0x20 0
          else arrayIssue c ((macSlots c.f bs).dedup.map (fun o => 16 * c.g.core + o)) bs [] s)

/-- The cores that a gang member reads its operands from (R243). -/
def sourceCores (s : State) (g : Group) : Option Nat × Option Nat :=
  let m := matAt s g.core
  (memberAt s (groupCtx s g) g.core m.gang.row 0, memberAt s (groupCtx s g) g.core 0 m.gang.col)

/-- Whether a member's own slots that the product reads are not being fed, and its array has room (R243, R241). -/
def gangMacReady (s : State) (c : Ctx) (bs : List Byte) : Bool :=
  let (xa, xb) := macSpans c.f (blocksOf bs).1 (blocksOf bs).2
  let g := (matAt s c.g.core).gang
  let mine := (if g.col = 0 then xa else []) ++ (if g.row = 0 then xb else [])
  arrayRoom s c && mine.all (fun o => fdClear s c.g.core o)

/-- The slots that a gang member's product reads, as 16 × core + slot (R243). -/
def gangReads (s : State) (c : Ctx) (bs : List Byte) : List Nat :=
  let (xa, xb) := macSpans c.f (blocksOf bs).1 (blocksOf bs).2
  let (sa, sb) := sourceCores s c.g
  (xa.map (fun o => 16 * (sa.getD c.g.core) + o) ++ xb.map (fun o => 16 * (sb.getD c.g.core) + o)).dedup

/-- The format blocks of an `mgmac`: once the latch lets it issue, the bytes that the latch compared (R243). -/
def gangBlocks (s : State) (c : Ctx) : Except Verdict (List Byte) :=
  match (matAt s c.g.core).arrival with
  | some a => if a.uid = c.g.uid ∧ a.granted = c.clk + 1 then .ok a.blocks else pairCheck s c
  | none => pairCheck s c

/-- `mgmac` (R243). Ownership of the source slots is judged at the latch. -/
def ownMgmac (c : Ctx) (s : State) : Verdict :=
  wholeGroup c (
    match gangState s c with
    | some d => mraise c 0x27 d
    | none =>
      match gangBlocks s c with
      | .error v => v
      | .ok bs =>
        match macShape c (blocksOf bs).1 (blocksOf bs).2 with
        | some d => mraise c 0x23 d
        | none => ganged c (srcS s c 3).toNat (gangMacReady s c bs) (arrayIssue c (gangReads s c bs) bs [] s) s)

/-- `mmaci` (R244). -/
def ownMmaci (c : Ctx) (s : State) : Verdict :=
  wholeGroup c (if c.f.d = c.f.sa ∨ c.f.d = c.f.sb then mraise c 0x23 3 else arrayIssue c [] [] [] s)

def iciM (f : ExtWord) : Nat := 16 * 2 ^ (f.opx.toNat / 16 % 4)
def iciN (f : ExtWord) : Nat := 16 * 2 ^ (f.opx.toNat / 4 % 4)
def iciK (f : ExtWord) : Nat := 16 * 2 ^ (f.opx.toNat % 4)

/-- The result of `mmaci` (R244). -/
def mmaciTile (m : MatrixSt) (f : ExtWord) : MatrixSt :=
  let ta := f.opx.getLsbD 8
  let neg := f.opx.getLsbD 7
  let a (i k : Nat) : Xr := d32 (if ta then quarterAt m f.sa.toNat k i else quarterAt m f.sa.toNat i k)
  let b (k j : Nat) : Xr := d32 (quarterAt m f.sb.toNat k j)
  quarterPut m f.d.toNat (iciM f) (iciN f) (fun i j =>
    matrixSum 8 (quarterAt m f.d.toNat i j) ((List.range (iciK f)).map (fun k =>
      let p := xmul (a i k) (b k j)
      if neg then xneg p else p)))

/-! ### Claims and feeds (R215, R245 to R247) -/

/-- The slots that `mclaim` and `mrel` name (R245). -/
def claimMask (c : Ctx) (s : State) : Nat := (srcS s c 1).toNat % 65536

/-- `mclaim` (R245): the group goes on when every named slot has been taken. -/
def startClaim (c : Ctx) (s : State) : State :=
  if claimMask c s = 0 then finishAt s c 1
  else updGroup (launchFlight s c (newFlight c (.claim (claimMask c s)))) c.g.uid (fun g => { g with busy := some c.id })

def ownMclaim (c : Ctx) (s : State) : Verdict := wholeGroup c (.act (startClaim c s))

/-- Whether the group holds every slot that `mrel` names. -/
def claimsHeld (c : Ctx) (s : State) : Bool := (maskSlots (claimMask c s)).all (fun o => slotHeld s c.g.core o c.g.slot)

/-- `mrel` (R245). -/
def startRelease (c : Ctx) (s : State) : State :=
  if claimMask c s = 0 then finishAt s c 1 else launchFlight s c (newFlight c (.release (claimMask c s)))

def ownMrel (c : Ctx) (s : State) : Verdict :=
  wholeGroup c (if claimMask c s != 0 && !(claimsHeld c s) then mraise c 0x20 0 else .act (startRelease c s))

/-- Whether every named slot is unclaimed or already the group's (R215). -/
def claimFree (s : State) (g : Group) (mask : Nat) : Bool :=
  (maskSlots mask).all (fun o => mget 0 o (matAt s g.core).claims == 0 || slotHeld s g.core o g.slot)

/-- Waiting claims of a core in ascending group slot (R215). -/
def claimsWaiting (s : State) (core : Nat) : List Flight :=
  let all := s.flights.filter (fun f => match f.work, groupAt? s f.uid with
    | .claim _, some g => g.core == core
    | _, _ => false)
  ((List.range 64).map (fun n => all.filter (fun f => ((groupAt? s f.uid).map (·.slot)) == some n))).flatten

/-- One waiting claim is taken whole or not at all. -/
def takeClaim (s : State) (f : Flight) : State :=
  match f.work, groupAt? s f.uid with
  | .claim mask, some g =>
    if claimFree s g mask then
      completeFlight (updMat s g.core (fun m =>
        { m with claims := (maskSlots mask).foldl (fun cl o => mset 0 o (g.slot + 1) cl) m.claims })) f
    else s
  | _, _ => s

/-- SLOT_CLAIM_TAKE (R215). -/
def execSlotClaimTake (core : Nat) (s : State) : Host.Outcome State Fault Refusal :=
  .next ((claimsWaiting s core).foldl takeClaim s)

/-- Whether the release of an `mrel` takes effect at the end of this clk: both counts of every slot were 0 in it (R216). -/
def releaseSlotsReady (s : State) (f : Flight) : Bool :=
  match f.work, groupAt? s f.uid with
  | .release mask, some g => (maskSlots mask).all (fun o => fdClear s g.core o && rdClear s g.core o)
  | _, _ => true

/-- SLOT_RELEASE (R216). -/
def execSlotRelease (op : Nat) (s : State) : Host.Outcome State Fault Refusal :=
  .next (match flightAt? s op with
    | none => s
    | some f =>
      match f.work, groupAt? s f.uid with
      | .release mask, some g =>
        if !(releaseSlotsReady s f) then s
        else
          completeFlight (updMat s g.core (fun m =>
            { m with claims := (maskSlots mask).foldl (fun cl o => mset 0 o 0 cl) m.claims })) f
      | _, _ => s)

/-- Bytes that `mfeed` copies (R246). -/
def feedBytes (c : Ctx) (s : State) : Nat := if (srcS s c 2).toNat = 0 then 32768 else (srcS s c 2).toNat

/-- `mfeed` in flight (R246). -/
def startFeed (c : Ctx) (s : State) : State :=
  addFd (launchFlight s c (newFlight c (.feed (srcS s c 1).toNat (feedBytes c s) 0))) c.g.core c.f.d.toNat true

/-- `mfeed` (R246). -/
def ownMfeed (c : Ctx) (s : State) : Verdict :=
  wholeGroup c (
    let o := c.f.d.toNat
    let n := feedBytes c s
    if !(slotHeld s c.g.core o c.g.slot) then mraise c 0x20 0
    else if n % 256 != 0 || decide (32768 < n) then mraise c 0x23 5
    else
      match rangeCheck s c 4 false [((srcS s c 1).toNat, n)] with
      | some (code, x) => .raise code 0 c.sel x
      | none =>
        if !(fdClear s c.g.core o && rdClear s c.g.core o) then .hold
        else .act (startFeed c s))

/-- MFEED_COMPLETE (R246). -/
def execMfeedComplete (op : Nat) (s : State) : Host.Outcome State Fault Refusal :=
  .next (match flightAt? s op with
    | none => s
    | some f => completeFlight (addFd s (flightCore s f) f.f.d.toNat false) f)

/-- `mfeeda` (R247): it takes its place in the array order, and reads the quarter when every earlier array instruction has
completed. -/
def startFeeda (c : Ctx) (s : State) : State := addFd (enqueueArray s c (newFlight c .feeda)) c.g.core c.f.d.toNat true

def ownMfeeda (c : Ctx) (s : State) : Verdict :=
  wholeGroup c (
    let o := c.f.d.toNat
    if !(slotHeld s c.g.core o c.g.slot) then mraise c 0x20 0
    else if !(fdClear s c.g.core o && rdClear s c.g.core o) then .hold
    else .act (startFeeda c s))

/-- The bytes that `mfeeda` writes into its slot. -/
def feedaBytes (m : MatrixSt) (f : ExtWord) : List Byte :=
  let t := f.ty.toNat
  let tr := f.opx.getLsbD 0
  (grid 128 128 (fun i j =>
    let x := if tr then quarterAt m f.sa.toNat j i else quarterAt m f.sa.toNat i j
    leBytes (tyWidth t / 8) (convertTo t 0 f.sat 0 (d32 x)))).flatten

/-- MFEEDA_COMPLETE (R247). -/
def execMfeedaComplete (op : Nat) (s : State) : Host.Outcome State Fault Refusal :=
  .next (match flightAt? s op with
    | none => s
    | some f =>
      let core := flightCore s f
      let s1 := updMat s core (fun m => { m with slots := msetAll 0 (f.mems.map (fun p => (32768 * f.f.d.toNat + p.1, p.2))) m.slots })
      completeFlight (addFd s1 core f.f.d.toNat false) f)

/-! ### The other array instructions (R248 to R252) -/

/-- Bytes that `mld`, `mst` and `mcbload` move (R248). -/
def xferBytes (f : ExtWord) (o : Op) : Nat :=
  if o = .mcbload then 2048 else (f.opx.toNat + 1) * 128 * (tyWidth f.ty.toNat / 8)

/-- `mld`, `mst`, `mcbload` (R248): the address checks; the address is kept with the instruction. -/
def ownXfer (write : Bool) (c : Ctx) (s : State) : Verdict :=
  wholeGroup c (
    let a := (srcS s c 1).toNat
    match rangeCheck s c 4 write [(a, xferBytes c.f c.op)] with
    | some (code, x) => .raise code 0 c.sel x
    | none => arrayIssue c [] [] [BitVec.ofNat 64 a] s)

/-- `msmx` (R250): D is the other quarter of A's row half. -/
def ownMsmx (c : Ctx) (s : State) : Verdict :=
  wholeGroup c (if c.f.d.toNat / 2 = c.f.sa.toNat / 2 ∧ c.f.d ≠ c.f.sa then arrayIssue c [] [] [] s else mraise c 0x23 3)

def ownPlainArray (c : Ctx) (s : State) : Verdict := wholeGroup c (arrayIssue c [] [] [] s)
/-- `mcoef`: the value is read at issue (R249). -/
def coefValue (c : Ctx) (s : State) : DWord :=
  BitVec.ofNat 64 (if kindOf c.f 1 = 2 then constBits tyF32 true (srcS s c 1) else (srcS s c 1).toNat % 2 ^ 32)

def ownMcoef (c : Ctx) (s : State) : Verdict := wholeGroup c (arrayIssue c [] [] [coefValue c s] s)

/-- The order n of an iteration instruction (R251). -/
def iterN (f : ExtWord) : Nat := f.opx.toNat % 256 + 1

/-- The check of an iteration instruction that fails (R235, R251 to R253, R255). -/
def iterFault (c : Ctx) (s : State) : Option (Nat × Nat) :=
  let m := matAt s c.g.core
  match gangState s c with
  | some d => some (0x27, d)
  | none =>
    let gangOk := m.gang.size == 4 && m.gang.grm1 == 1 && m.gang.gcm1 == 1
    if c.op = .mpoly ∧ (imm8 c.f.sb < 1 ∨ 15 < imm8 c.f.sb) then some (0x23, 6)
    else if c.op = .mpoly ∧ c.f.d = c.f.sa then some (0x23, 3)
    else if (inGang m && !gangOk) || (!(inGang m) && decide (128 < iterN c.f)) then some (0x23, 4)
    else none

/-- An iteration enters the array: `%mcap` and `%mres` are captured at issue, and the group goes on when the iteration
ends (R252). -/
def enterIter (c : Ctx) (s : State) : State :=
  updGroup (enterArray [] [] [BitVec.ofNat 64 c.g.mcap, c.g.mres.setWidth 64] c s) c.g.uid (fun g => { g with busy := some c.id })

/-- `mpoly`, `miter.g`, `miter.s` (R251 to R253). -/
def ownIter (c : Ctx) (s : State) : Verdict :=
  wholeGroup c (
    match iterFault c s with
    | some (code, d) => mraise c code d
    | none =>
      let go : Verdict := if arrayRoom s c then .act (enterIter c s) else .hold
      if inGang (matAt s c.g.core) then ganged c 0 (arrayRoom s c) go s else go)

/-- The descriptor of `mgang` (R255). -/
def gangOfWord (x : Nat) : Gang := ⟨bits x 29 27, bits x 26 26, bits x 25 24, bits x 23 23, bits x 22 21, bits x 20 15, 0⟩

/-- Whether a descriptor is invalid for a core (R255). -/
def gangBad (x k : Nat) : Bool :=
  let g := gangOfWord x
  x % 2 ^ 15 != 0 || decide (2 ^ 30 ≤ x) || decide (g.size < 2) || decide (6 < g.size) ||
    ((List.range 6).filter (fun i => g.mask.testBit i)).length != g.size || !(g.mask.testBit k) || g.gcm1 == 3 ||
    decide (g.grm1 < g.row) || decide (g.gcm1 < g.col) || decide ((g.grm1 + 1) * (g.gcm1 + 1) < g.size)

/-- The co-resident levels of a team's launch that are bound to the cluster (R228): one bound to a core cannot hold two. -/
def clusterLevels (s : State) (t : Team) : List Nat :=
  match teamRecord? s t with
  | none => []
  | some r => (List.range 8).filter (fun n => match r.levels[coreLevel r + n]? with
    | some l => l.domain == 3 && l.cor
    | none => false)

/-- Whether the matrix teams of some cores belong with a team to one instance of one of those levels (R228). -/
def gangScope (s : State) (t : Team) (cs : List Nat) : Bool :=
  (clusterLevels s t).any (fun n => cs.all (fun k =>
    ((matAt s k).team.bind (teamAt? s)).map (fun x => teamInst s x n) == some (teamInst s t n)))

/-- The check of `mgang` that fails (R255). -/
def mgangFault (c : Ctx) (s : State) : Option (Nat × Nat) :=
  let (_, _, _, k) := logCore s (groupCtx s c.g) c.g.core
  if inGang (matAt s c.g.core) then some (0x27, 1)
  else if gangBad (srcS s c 1).toNat k then some (0x27, 2)
  else if !(((teamAt? s c.g.team).map (fun t =>
    gangScope s t (clusterCores s t.ctx c.g.core (gangOfWord (srcS s c 1).toNat).mask))).getD false) then some (0x24, 0)
  else none

/-- `mgang` (R255). -/
def ownMgang (c : Ctx) (s : State) : Verdict :=
  wholeGroup c (
    let x := (srcS s c 1).toNat
    match mgangFault c s with
    | some (code, d) => mraise c code d
    | none => ganged c x (arrayRoom s c) (arrayIssue c [] [] [BitVec.ofNat 64 x] s) s)

/-- `mgleave` (R255). -/
def ownMgleave (c : Ctx) (s : State) : Verdict :=
  wholeGroup c (
    match gangState s c with
    | some d => mraise c 0x27 d
    | none => ganged c 0 (arrayRoom s c) (arrayIssue c [] [] [] s) s)

def execMmac (f : ExtWord) (s : State) : Host.Outcome State Fault Refusal := issue .mmac (.ext f) ownMmac s
def execMgmac (f : ExtWord) (s : State) : Host.Outcome State Fault Refusal := issue .mgmac (.ext f) ownMgmac s
def execMmaci (f : ExtWord) (s : State) : Host.Outcome State Fault Refusal := issue .mmaci (.ext f) ownMmaci s
def execMcbload (f : ExtWord) (s : State) : Host.Outcome State Fault Refusal := issue .mcbload (.ext f) (ownXfer true) s
def execMsmx (f : ExtWord) (s : State) : Host.Outcome State Fault Refusal := issue .msmx (.ext f) ownMsmx s
def execMsnorm (f : ExtWord) (s : State) : Host.Outcome State Fault Refusal := issue .msnorm (.ext f) ownPlainArray s
def execMclaim (f : ExtWord) (s : State) : Host.Outcome State Fault Refusal := issue .mclaim (.ext f) ownMclaim s
def execMrel (f : ExtWord) (s : State) : Host.Outcome State Fault Refusal := issue .mrel (.ext f) ownMrel s
def execMfeed (f : ExtWord) (s : State) : Host.Outcome State Fault Refusal := issue .mfeed (.ext f) ownMfeed s
def execMfeeda (f : ExtWord) (s : State) : Host.Outcome State Fault Refusal := issue .mfeeda (.ext f) ownMfeeda s
def execMst (f : ExtWord) (s : State) : Host.Outcome State Fault Refusal := issue .mst (.ext f) (ownXfer true) s
def execMld (f : ExtWord) (s : State) : Host.Outcome State Fault Refusal := issue .mld (.ext f) (ownXfer false) s
def execMzero (f : ExtWord) (s : State) : Host.Outcome State Fault Refusal := issue .mzero (.ext f) ownPlainArray s
def execMpoly (f : ExtWord) (s : State) : Host.Outcome State Fault Refusal := issue .mpoly (.ext f) ownIter s
def execMiterG (f : ExtWord) (s : State) : Host.Outcome State Fault Refusal := issue .miterG (.ext f) ownIter s
def execMiterS (f : ExtWord) (s : State) : Host.Outcome State Fault Refusal := issue .miterS (.ext f) ownIter s
def execMgang (f : ExtWord) (s : State) : Host.Outcome State Fault Refusal := issue .mgang (.ext f) ownMgang s
def execMgleave (f : ExtWord) (s : State) : Host.Outcome State Fault Refusal := issue .mgleave (.ext f) ownMgleave s
def execMcoef (f : ExtWord) (s : State) : Host.Outcome State Fault Refusal := issue .mcoef (.ext f) ownMcoef s
def execMscale (f : ExtWord) (s : State) : Host.Outcome State Fault Refusal := issue .mscale (.ext f) ownPlainArray s
def execMtrans (f : ExtWord) (s : State) : Host.Outcome State Fault Refusal := issue .mtrans (.ext f) ownPlainArray s
def execMstat (f : ExtWord) (s : State) : Host.Outcome State Fault Refusal := issue .mstat (.ext f) ownPlainArray s

/-! ### The rendezvous latch (R230) -/

/-- The arrival of a core that still waits: its group is not stopped. -/
def waitingArrival? (s : State) (core : Nat) : Option Arrival :=
  match (matAt s core).arrival with
  | none => none
  | some a =>
    match groupAt? s a.uid with
    | some g => if a.granted = 0 && g.stop.isNone && !g.halted then some a else none
    | none => none

/-- The arrival of a core that waits with an arrival of kind `op`: `mgang` waits for `mgang` alone, and a gang's instruction
for those of the gang (R230, R255). -/
def partner? (s : State) (op : Op) (core : Nat) : Option Arrival :=
  (waitingArrival? s core).filter (fun a => (a.op == .mgang) == (op == .mgang))

/-- What a core's own arrival is. -/
def latchOp (s : State) (core : Nat) : Op := (((matAt s core).arrival).map (·.op)).getD .mgang

/-- The cores that an arrived member waits for (R230, R255): its gang, or those its descriptor names. -/
def latchCores (s : State) (core : Nat) : List Nat :=
  match (matAt s core).arrival with
  | none => []
  | some a =>
    let ctx := ((groupAt? s a.uid).map (groupCtx s)).getD 0
    if a.op = .mgang then clusterCores s ctx core (gangOfWord a.desc).mask else gangCores s ctx core

/-- Whether a core's array has no earlier work, and may start in this clk (R238, R247). -/
def arrayFree (s : State) (k : Nat) : Bool :=
  let m := matAt s k
  m.queue.isEmpty && !m.running && decide (m.startAt ≤ coreClk s k) && decide (m.endAt ≤ coreClk s k)

/-- Whether the member that has arrived may issue in this clk: its words are delivered, and nothing holds its group (R72, R230). -/
def memberReady (s : State) (k : Nat) : Bool :=
  match (waitingArrival? s k).bind (fun a => (groupAt? s a.uid).map (fun g => (a, g))) with
  | none => false
  | some (a, g) =>
    let clk := coreClk s k
    decide (g.lastIssue < clk) && !(groupWaits s g) &&
      (match splitAt? g a.place with | some sp => sp.calling.isNone && decide (sp.earliest ≤ clk) | none => false)

/-- Whether every member has arrived and may issue, and every member's array is free (R230). -/
def latchReady (s : State) (core : Nat) : Bool :=
  let cs := latchCores s core
  (waitingArrival? s core).isSome && !cs.isEmpty &&
    cs.all (fun k => (partner? s (latchOp s core) k).isSome && arrayFree s k && memberReady s k)

/-- Withdraw the arrivals of some cores with a precise fault in each member (R230, R256). -/
def latchFault (s : State) (op : Op) (cs : List Nat) (code detail : Nat) : State :=
  cs.foldl (fun st k =>
    match partner? st op k with
    | none => st
    | some a =>
      let s1 := updMat st k (fun m => { m with arrival := none })
      match groupAt? s1 a.uid with
      | none => s1
      | some g =>
        match splitAt? g a.place with
        | none => s1
        | some sp => raiseFault s1 a.uid (mkEntry code detail 0xFFFFFFFF 0 sp.pc sp.place sp.stamp (s.opCount + 1) sp.pc)) s

/-- The 32 bytes of an arrived member's format-block pair, as they stand at the latch (R243). -/
def arrivalBlocks (s : State) (b : Arrival) : List Byte :=
  readBytes ((((groupAt? s b.uid).bind (fun g => teamAt? s g.team)).map (·.spad)).getD []) b.desc 32

/-- The mismatch that the latch finds among the members, as fault code and detail (R243, R255). -/
def latchMismatch (s : State) (as : List Arrival) : Option (Nat × Nat) :=
  match as with
  | [] => none
  | a :: _ =>
    if a.op = .mgang then
      let plain (x : Nat) : Gang := { gangOfWord x with row := 0, col := 0 }
      let pos := as.map (fun b => ((gangOfWord b.desc).row, (gangOfWord b.desc).col))
      if as.any (fun b => plain b.desc != plain a.desc) || pos.dedup.length != pos.length then some (0x26, 1) else none
    else if as.any (fun b => b.op != a.op || b.f.opx != a.f.opx || b.f.ty != a.f.ty) then some (0x26, 2)
    else if a.op != .mgmac then none
    else if as.any (fun b => arrivalBlocks s b != arrivalBlocks s a) then some (0x26, 3)
    else
      let bad (b : Arrival) : Bool :=
        match groupAt? s b.uid with
        | none => true
        | some g =>
          let (fa, fb) := blocksOf (arrivalBlocks s b)
          let (xa, xb) := macSpans b.f fa fb
          let ok (k : Option Nat) (xs : List Nat) : Bool :=
            match k with
            | none => false
            | some k =>
              match (matAt s k).member.bind (groupAt? s) with
              | none => false
              | some h => xs.all (fun o => slotHeld s k o h.slot && fdClear s k o)
          let (sa, sb) := sourceCores s g
          !(ok sa xa && ok sb xb)
      if as.any bad then some (0x26, 4) else none

/-- Every member of the gang may issue in this clk, and the gang's rendezvous count rises (R230, R229). -/
def letGang (s : State) (cs : List Nat) : State :=
  cs.foldl (fun st k => updMat st k (fun m =>
    { m with arrival := m.arrival.map (fun a => { a with granted := coreClk s k + 1, blocks := arrivalBlocks s a })
             gang := if inGang m then { m.gang with seq := (m.gang.seq + 1) % 4096 } else m.gang })) s

/-- GANG_RENDEZVOUS (R230): every member may issue in this clk, or the mismatch is raised in every member. -/
def execGangRendezvous (core : Nat) (s : State) : Host.Outcome State Fault Refusal :=
  .next (
    if !(latchReady s core) then s
    else
      let cs := latchCores s core
      match latchMismatch s (cs.filterMap (partner? s (latchOp s core))) with
      | some (code, d) => latchFault s (latchOp s core) cs code d
      | none =>
        letGang s cs)

/-- Whether an arrival has waited too long (R230). -/
def latchLate (s : State) (core : Nat) : Bool :=
  match waitingArrival? s core with
  | some a => decide (a.since + 65536 ≤ coreClk s core)
  | none => false

/-- GANG_TIMEOUT (R230). -/
def execGangTimeout (core : Nat) (s : State) : Host.Outcome State Fault Refusal :=
  .next (if latchLate s core then latchFault s (latchOp s core) (latchCores s core) 0x25 (matAt s core).gang.seq else s)

/-- A gang ends for all its members, when the group of one ends (R255). -/
def endGang (s : State) (g : Group) : State :=
  if (matAt s g.core).member != some g.uid then s
  else (gangCores s (groupCtx s g) g.core).foldl (fun st k => updMat st k (fun m =>
    { m with gang := ⟨0, 0, 0, 0, 0, 0, 0⟩, member := none, arrival := none })) s

/-! ### The array (R238) -/

/-- P for the instructions whose array time is fixed at the start (R238). -/
def arrayTime (f : Flight) : Nat :=
  match f.op with
  | .mmac | .mgmac =>
    let (fa, fb) := blocksOf (f.mems.map (·.2))
    let r := ((pairRate fa.efmt fb.efmt).map (·.2)).getD 1024
    max 16 ((macM f.f * macN f.f * macK f.f + r - 1) / r)
  | .mmaci => max 16 ((iciM f.f * iciN f.f * iciK f.f + 1023) / 1024)
  | .msmx => 80
  | .msnorm => 64
  | .mzero => if f.f.opx.toNat = 2 then 64 else 16
  | .mscale | .mtrans => 16
  | _ => 1

def isXferOp (o : Op) : Bool := o == .mld || o == .mst || o == .mcbload

/-- Time of a phase of an iteration (R251). -/
def phaseTime (m : MatrixSt) : Nat :=
  let n := m.loop.n
  let h := if inGang m then min n 128 else n
  let prod := max 16 ((h * h * n + 1023) / 1024)
  let last := if inGang m then (h * h + 1023) / 1024 + 40 else (n * n + 1023) / 1024 + 24
  match m.loop.kind, m.loop.phase with
  | 1, _ => prod + 8
  | 2, 2 => (h * h + 1023) / 1024 + 8
  | 2, 4 => last
  | 3, 2 => last
  | _, _ => prod

/-- The core that runs the phases of an iteration: the member at (0, 0) of a gang, or the core itself. -/
def phaseCore (s : State) (ctx core : Nat) : Nat := if inGang (matAt s core) then (memberAt s ctx core 0 0).getD core else core

/-- The start of an iteration in the array (R252), or its continuation (R227). -/
def startIter (s : State) (core : Nat) (f : Flight) : State :=
  let m := matAt s core
  let slot := ((groupAt? s f.uid).map (·.slot)).getD 0
  let cont := m.loop.kind == iterKind f.op && m.loop.slot == slot
  let poly := f.op == .mpoly
  let cap := if poly then (imm8 f.f.sb).toNat else (f.vals.headD 0).toNat
  let thr : Word := if poly then 0 else ((f.vals.getD 1 0).setWidth 32)
  let l : LoopSt := ⟨posInf, posInf, posInf, thr, iterN f.f, cap, 0, 0, 0, iterKind f.op, f.f.d.toNat, slot⟩
  let s1 := if cont then s
    else
      updMat s core (fun m =>
        let m1 := { m with loop := l }
        -- `mpoly` starts from c_m on the diagonal of D (R251)
        if poly then
          let r := if inGang m then m.gang.row else 0
          let c := if inGang m then m.gang.col else 0
          let nr := min 128 (l.n - 128 * r)
          let nc := min 128 (l.n - 128 * c)
          quarterPut m1 f.f.d.toNat nr nc (fun i j => if r = c ∧ i = j then coefAt m cap else 0)
        else m1)
  let ctx := flightCtx s f
  if phaseCore s1 ctx core = core then afterClk s1 (coreDie core) (phaseTime (matAt s1 core) - 1) 3 (.iterationPhaseEnd core)
  else s1

/-- ARRAY_START (R238): the next instruction in the array order starts, or a feed reads its quarter. -/
def arrayStartReady (s : State) (core : Nat) : Bool :=
  let m := matAt s core
  match m.queue.head?.bind (flightAt? s) with
  | none => false
  | some f =>
    !m.running && decide (m.endAt ≤ coreClk s core) && (f.work == .feeda || decide (m.startAt ≤ coreClk s core))

/-- The next instruction of the array order starts, or a feed reads its quarter (R238, R247). -/
def startArray (s : State) (core : Nat) (f : Flight) : State :=
  let m := matAt s core
  let t := coreClk s core
  if f.work = .feeda then
    let s1 := updMat s core (fun m => { m with queue := m.queue.drop 1, startAt := max m.startAt (t + 16) })
    afterClk (updFlight s1 f.id (fun f => { f with mems := bytesAt 0 (feedaBytes m f.f) })) (coreDie core) 19 3
      (.mfeedaComplete f.id)
  else
    let s1 := updMat s core (fun m => { m with running := true })
    if isIterOp f.op then startIter s1 core f
    else if isXferOp f.op then
      let n := xferBytes f.f f.op
      let bs := if f.op = .mst then
          (grid (f.f.opx.toNat + 1) 128 (fun i j => leBytes (tyWidth f.f.ty.toNat / 8)
            (convertTo f.f.ty.toNat 0 f.f.sat 0 (d32 (quarterAt m f.f.sb.toNat i j))))).flatten
        else []
      updFlight (updMat s1 core (fun m => { m with left := (n + 255) / 256 })) f.id (fun f => { f with mems := bytesAt 0 bs })
    else afterClk s1 (coreDie core) (arrayTime f + 7) 3 (.arrayComplete core)

def execArrayStart (core : Nat) (s : State) : Host.Outcome State Fault Refusal :=
  .next (
    if !(arrayStartReady s core) then s
    else
      match (matAt s core).queue.head?.bind (flightAt? s) with
      | none => s
      | some f => startArray s core f)

/-- The matrix transfer of a core that is served next: of the earliest issued instruction with bytes to move (R246). -/
def nextXfer (s : State) (core : Nat) : Option Flight :=
  let m := matAt s core
  let running := if m.running && m.left != 0 then m.queue.head?.bind (flightAt? s) else none
  let feeds := s.flights.filter (fun f => match f.work with
    | .feed _ n k => decide (k < n) && flightCore s f == core && decide (f.clk < coreClk s core)
    | _ => false)
  (running.toList ++ feeds).foldl (fun best f => match best with
    | none => some f
    | some b => if f.id < b.id then some f else some b) none

/-- One matrix transfer of at most 256 bytes (R161, R246, R248). -/
def doXfer (s : State) (core : Nat) (f : Flight) : State :=
  let s0 := updCore s core (fun c => { c with xferClk := coreClk s core + 1, lastMatrix := true })
  let team := ((groupAt? s f.uid).map (·.team)).getD 0
  let spad := ((teamAt? s team).map (·.spad)).getD []
  match f.work with
  | .feed a n k =>
    let s1 := updMat s0 core (fun m => { m with slots := msetAll 0 (bytesAt (32768 * f.f.d.toNat + k) (readBytes spad (a + k) 256)) m.slots })
    let s2 := updFlight s1 f.id (fun f => { f with work := .feed a n (k + 256) })
    if n ≤ k + 256 then afterClk s2 (coreDie core) 2 3 (.mfeedComplete f.id) else s2
  | _ =>
    let n := xferBytes f.f f.op
    let done := ((n + 255) / 256 - (matAt s core).left) * 256
    let k := min 256 (n - done)
    let a := (f.vals.headD 0).toNat + done
    let s1 := if f.op = .mst then
        let bs := (List.range k).map (fun i => (a + i, mget 0 (done + i) f.mems))
        updTeam s0 team (fun t => { t with spad := writeBytes t.spad bs })
      else updFlight s0 f.id (fun f => { f with mems := f.mems ++ bytesAt done (readBytes spad a k) })
    let s2 := updMat s1 core (fun m => { m with left := m.left - 1 })
    if (matAt s2 core).left = 0 then afterClk s2 (coreDie core) 8 3 (.arrayComplete core) else s2

/-- One row of an online-softmax step (R250). -/
def softmaxRow (m : MatrixSt) (ca cd ncol : Nat) (sc : Word) (i : Nat) : MatrixSt :=
  let t := (List.range 128).map (fun j => if j < ncol then mulF32 sc (accAt m i (ca + j)) else negInf)
  let mx := maxF32 (mxAt m i) (tree maxF32 negInf t)
  let alpha := if mx = negInf then oneF32 else specialF32 .exp2 (subF32 (mxAt m i) mx)
  let p := t.map (fun x => if mx = negInf then (0 : Word) else specialF32 .exp2 (subF32 x mx))
  let lx := mget 0 i m.lx
  let m1 := accPut m ((List.range 128).map (fun j => (i, ca + j, p.getD j 0)))
  let m2 := accPut m1 ((List.range 128).map (fun j => (i, cd + j, mulF32 alpha (accAt m i (cd + j)))))
  { m2 with lx := mset 0 i (addF32 (mulF32 alpha lx) (tree addF32 0x80000000 p)) m2.lx, mx := mset negInf i mx m2.mx }

/-- The bytes a transfer has read, as a table. -/
def memsNat (f : Flight) (a n : Nat) : Nat := leNat ((List.range n).map (fun i => mget 0 (a + i) f.mems))

/-- The state selected by `mstat` (R249, R223, R225). -/
def mstatWord (m : MatrixSt) (n : Nat) : DWord :=
  let l := m.loop
  match n with
  | 0 => BitVec.ofNat 64 (m.resf.toNat * 2 ^ 32 + m.steps * 2 ^ 24 + m.out)
  | 1 => BitVec.ofNat 64 (l.n * 2 ^ 55 + l.cap * 2 ^ 47 + l.step * 2 ^ 39 + l.phase * 2 ^ 36 + l.rise * 2 ^ 34 + l.kind * 2 ^ 32 +
      l.xq * 2 ^ 30 + l.slot * 2 ^ 24)
  | 2 => BitVec.ofNat 64 (l.res0.toNat * 2 ^ 32 + l.res1.toNat)
  | _ => BitVec.ofNat 64 (l.res2.toNat * 2 ^ 32 + l.thr.toNat)

/-- A scratchpad store of this team whose last pass is still to come, and which issued before an instruction (R161, R162). -/
def spadOwed (team op : Nat) (x : Flight) : Bool := x.work == .spad && x.at2 == team && decide (x.id < op)

/-- The scratchpad of a team as an array instruction sees it: with every store that issued on the core before it issued, performed
yet or not (R47). -/
def arraySpad (s : State) (f : Flight) : SMap Byte :=
  match groupAt? s f.uid with
  | none => []
  | some g => (s.flights.filter (spadOwed g.team f.id)).foldl (fun m x => writeBytes m x.mems) (teamSpad s g.team)

/-- The effect of an array instruction on the engine, at its completion (R238). -/
def arrayEffect (s : State) (core : Nat) (f : Flight) : State :=
  let d := f.f.d.toNat
  let spad := arraySpad s f
  match f.op with
  | .mmac =>
    let (fa, fb) := blocksOf (f.mems.map (·.2))
    updMat s core (fun m => macTile m m m spad f.f fa fb)
  | .mgmac =>
    let (fa, fb) := blocksOf (f.mems.map (·.2))
    let (sa, sb) := match groupAt? s f.uid with
      | some g => sourceCores s g
      | none => (none, none)
    let ma := matAt s (sa.getD core)
    let mb := matAt s (sb.getD core)
    updMat s core (fun m => macTile ma mb m spad f.f fa fb)
  | .mmaci => updMat s core (fun m => mmaciTile m f.f)
  | .mcbload => updMat s core (fun m => { m with cb := (List.range 512).foldl (fun c r => mset 0 r (BitVec.ofNat 32 (memsNat f (4 * r) 4)) c) m.cb })
  | .msmx =>
    let a := f.f.sa.toNat
    updMat s core (fun m => (List.range 128).foldl (fun m i =>
      softmaxRow m (quarterCol a) (quarterCol d) (f.f.opx.toNat + 1) (coefAt m f.f.sb.toNat) (quarterRow a + i)) m)
  | .msnorm => updMat s core (fun m => quarterPut m d 128 128 (fun i j => divF32 (quarterAt m d i j) (mget 0 (quarterRow d + i) m.lx)))
  | .mld =>
    let w := tyWidth f.f.ty.toNat
    updMat s core (fun m => quarterPut m d (f.f.opx.toNat + 1) 128 (fun i j =>
      e32 (decodeF (fmtOf f.f.ty.toNat) (memsNat f ((128 * i + j) * (w / 8)) (w / 8)))))
  | .mzero =>
    updMat s core (fun m =>
      if f.f.opx.toNat = 2 then { m with acc := [], mx := [], lx := [] }
      else
        let m1 := quarterPut m d 128 128 (fun _ _ => 0)
        if f.f.opx.toNat = 0 then m1
        else (List.range 128).foldl (fun m i =>
          { m with mx := mdel (quarterRow d + i) m.mx, lx := mdel (quarterRow d + i) m.lx }) m1)
  | .mscale => updMat s core (fun m => quarterPut m d 128 128 (fun i j => mulF32 (coefAt m f.f.sa.toNat) (quarterAt m d i j)))
  | .mtrans => updMat s core (fun m => quarterPut m d 128 128 (fun i j => quarterAt m f.f.sa.toNat j i))
  | .mcoef => updMat s core (fun m => { m with coef := mset 0 d ((f.vals.headD 0).setWidth 32) m.coef })
  | .mstat => updGroup s f.uid (fun g => ownWriteS g f.id d (mstatWord (matAt s core) f.f.sa.toNat))
  | .mgang => updMat s core (fun m => { m with gang := gangOfWord (f.vals.headD 0).toNat, member := some f.uid })
  | .mgleave => updMat s core (fun m => { m with gang := ⟨0, 0, 0, 0, 0, 0, 0⟩, member := none })
  | _ => s

/-- The head of the array order leaves it; the next instruction may start in the next clk. -/
def leaveArray (s : State) (core : Nat) (f : Flight) : State :=
  let s1 := readMarks s f.roots false
  completeFlight (updMat s1 core (fun m =>
    { m with queue := m.queue.filter (· != f.id), running := false, endAt := coreClk s core + 1,
             startAt := max m.startAt (coreClk s core + 1), left := 0 })) f

/-- ARRAY_COMPLETE (R238): an iteration that has ended completes with KIND 0 (R252). -/
def execArrayComplete (core : Nat) (s : State) : Host.Outcome State Fault Refusal :=
  .next (match (matAt s core).queue.head?.bind (flightAt? s) with
    | none => s
    | some f =>
      if !(matAt s core).running then s
      else
        let s1 := if isIterOp f.op then updMat s core (fun m => { m with loop := { m.loop with kind := 0 } }) else arrayEffect s core f
        leaveArray s1 core f)

/-! ### Iteration phases (R251, R254) -/

/-- The quarter of a core that has a part in its iteration (R251): 0 the iterate, 1 and 2 the workspace, 3 the argument of
`mpoly`. -/
def partQuarter (s : State) (core p : Nat) : Nat :=
  let x := (matAt s core).loop.xq
  let a := (((matAt s core).queue.head?.bind (flightAt? s)).map (fun f => f.f.sa.toNat)).getD 0
  if (matAt s core).loop.kind != 1 then (x + p) % 4
  else if p = 0 then x
  else if p = 3 then a
  else ((List.range 4).find? (fun q => q != x && q != a)).getD 0

/-- Element (i, j) of the matrix that has a part in an iteration, over the blocks of a gang (R253). -/
def wholeAt (s : State) (ctx core p i j : Nat) : Word :=
  let k := if inGang (matAt s core) then (memberAt s ctx core (i / 128) (j / 128)).getD core else core
  quarterAt (matAt s k) (partQuarter s k p) (i % 128) (j % 128)

/-- Write a member's block of an n × n matrix into the quarter that has a part in its iteration. -/
def blockPut (s : State) (k p n : Nat) (f : Nat → Nat → Word) : State :=
  let g := (matAt s k).gang
  updMat s k (fun m => quarterPut m (partQuarter s k p) (min 128 (n - 128 * g.row)) (min 128 (n - 128 * g.col))
    (fun i j => f (128 * g.row + i) (128 * g.col + j)))

/-- A product phase (R251): by R52 from +0 with chunks of 8. -/
def prodAt (n : Nat) (a b : Nat → Nat → Word) (i j : Nat) : Word :=
  matrixSum 8 0 ((List.range n).map (fun k => xmul (d32 (a i k)) (d32 (b k j))))

/-- An exact sum of products, rounded once (R251). -/
def exactSum (ts : List (Word × Word)) : Word := chunkResult (ts.map (fun p => xmul (d32 p.1) (d32 p.2)))

/-- The residual test's verdict (R254): go on, done with OUT, or diverged with a detail. -/
inductive IterEnd where
  | more
  | out (n : Nat)
  | diverge (n : Nat)
  deriving DecidableEq, Repr

/-- R254 on the old and the new iterate: the loop state and the verdict. -/
def residualTest (l : LoopSt) (old new : Nat → Nat → Word) : LoopSt × IterEnd :=
  let n := l.n
  let ds := grid n n (fun i j => let d := subF32 (new i j) (old i j); mulF32 d d)
  let xs := grid n n (fun i j => mulF32 (new i j) (new i j))
  let s1 := tree addF32 0x80000000 ds
  let s2 := tree addF32 0x80000000 xs
  let r : Word := if s1 = 0 ∨ s1 = 0x80000000 then 0 else sqrtF32 (divF32 s1 s2)
  let prev := l.res0
  let l1 := { l with res2 := l.res1, res1 := l.res0, res0 := r, step := l.step + 1 }
  let odd (x : Word) : Bool := x.toNat / 2 ^ 23 % 256 == 255
  let gt (a b : Word) : Bool := !(isNan (d32 a)) && !(isNan (d32 b)) && decide (xcmp (d32 a) (d32 b) > 0)
  if (grid n n new).any odd || s2 == posInf || odd r then (l1, .diverge 1)
  else if gt s2 0x71800000 then (l1, .diverge 2)
  else if gt r prev && l.rise == 2 then (l1, .diverge 3)
  else
    let l2 := { l1 with rise := if gt r prev then l.rise + 1 else 0 }
    if !(gt r l2.thr) then (l2, .out 1)
    else if l2.step = l2.cap then (l2, .out 2)
    else (l2, .more)

/-- What one phase writes (R251): the parts written and their elements, from the loop state, the coefficients and the
parts' elements. -/
def phaseWrite (l : LoopSt) (coef : Nat → Word) (q : Nat → Nat → Nat → Word) : List (Nat × (Nat → Nat → Word)) :=
  let n := l.n
  match l.kind, l.phase with
  | 1, _ =>
    let z := prodAt n (q 0) (q 3)
    [(1, z), (0, fun i j => if i = j then addF32 (z i j) (coef (l.cap - l.step - 1)) else z i j)]
  | 2, 0 => [(1, prodAt n (q 0) (fun k j => q 0 j k))]
  | 2, 1 => [(2, prodAt n (q 1) (q 1))]
  | 2, 2 => [(1, fun i j => exactSum [(coef 1, q 1 i j), (coef 2, q 2 i j)])]
  | 2, 3 => [(2, prodAt n (q 1) (q 0))]
  | 2, _ => [(0, fun i j => exactSum [(coef 0, q 0 i j), (oneF32, q 2 i j)])]
  | 3, 0 => [(1, prodAt n (q 0) (q 0))]
  | 3, 1 => [(2, prodAt n (q 1) (q 0))]
  | _, _ => [(0, fun i j => exactSum [(coef 0, q 0 i j), (coef 1, q 1 i j), (coef 2, q 2 i j)])]

/-- A member computes its block of a phase, by its own coefficients and the captured values of its own loop state, from the
state before the phase (R223, R253). -/
def memberPhase (before : State) (ctx : Nat) (s : State) (k : Nat) : State :=
  let m := matAt before k
  (phaseWrite m.loop (coefAt m) (wholeAt before ctx k)).foldl (fun st w => blockPut st k w.1 m.loop.n w.2) s

/-- The loop state after a phase, and whether the iteration has ended. -/
def phaseNext (l : LoopSt) (old new : Nat → Nat → Word) : LoopSt × IterEnd :=
  match l.kind, l.phase with
  | 1, _ =>
    let l1 := { l with step := l.step + 1 }
    (l1, if l1.step = l1.cap then .out 2 else .more)
  | 2, 4 | 3, 2 =>
    let (l1, e) := residualTest l old new
    ({ l1 with phase := 0 }, e)
  | _, _ => ({ l with phase := l.phase + 1 }, .more)

/-- Set the loop state and, where the iteration ends, the matrix status of a member (R225); what it captured at issue and
its slot stay its own (R223). -/
def settleIter (core : Nat) (l : LoopSt) (e : IterEnd) (s : State) : State :=
  updMat s core (fun m =>
    let m1 := { m with loop := { l with slot := m.loop.slot, cap := m.loop.cap, thr := m.loop.thr, xq := m.loop.xq } }
    let fin (n : Nat) : MatrixSt := { m1 with resf := if l.kind = 1 then 0 else l.res0, steps := l.step, out := n }
    match e with
    | .more => m1
    | .out n => fin n
    | .diverge _ => { fin 3 with loop := { m1.loop with kind := 0 } })

/-- The members whose iteration a core runs. -/
def iterCores (s : State) (ctx core : Nat) : List Nat := if inGang (matAt s core) then gangCores s ctx core else [core]

/-- Whether an iteration must stop at this phase end: its group is halted for a save (R226). -/
def iterStops (s : State) (cs : List Nat) : Bool :=
  cs.any (fun k => match (matAt s k).queue.head?.bind (flightAt? s) with
    | none => true
    | some f => ((groupAt? s f.uid).map (·.halted)).getD true)

/-- A stopped iteration leaves the array; its group stands again at the instruction (R226, R252). -/
def suspendIter (s : State) (core : Nat) : State :=
  match (matAt s core).queue.head?.bind (flightAt? s) with
  | none => s
  | some f =>
    let s1 := updMat s core (fun m => { m with queue := m.queue.filter (· != f.id), running := false })
    updGroup (delFlight s1 f.id) f.uid (fun g => updSplit { g with busy := none } f.place (fun sp => { sp with pc := f.pc }))

/-- The iteration at a core's head ends without converging: fault 0x28, and the flag of SETF stays 0 (R254). -/
def divergeCore (d : Nat) (st : State) (k : Nat) : State :=
  match (matAt st k).queue.head?.bind (flightAt? st) with
  | none => st
  | some g => flightFault (leaveArray st k { g with setf := 0 }) g 0x28 d 0xFFFFFFFF 0

/-- A phase writes its matrix and the loop state moves on; the iteration goes on, ends or is found divergent (R251, R254).
In a gang the member at (0, 0) tests, by the THR and CAP that it captured (DESIGN CHOICE, log 86). -/
def endPhase (s : State) (core : Nat) (f : Flight) : State :=
  let ctx := flightCtx s f
  let cs := iterCores s ctx core
  let s1 := cs.foldl (memberPhase s ctx) s
  let (l, e) := phaseNext (matAt s core).loop (wholeAt s ctx core 0) (wholeAt s1 ctx core 0)
  let s2 := cs.foldl (fun st k => settleIter k l e st) s1
  match e with
  | .more =>
    if iterStops s2 cs then cs.foldl suspendIter s2
    else afterClk s2 (coreDie core) (phaseTime (matAt s2 core)) 3 (.iterationPhaseEnd core)
  | .out _ => cs.foldl (fun st k => afterClk st (coreDie k) 8 3 (.arrayComplete k)) s2
  | .diverge d =>
    cs.foldl (divergeCore d) s2

/-- ITERATION_PHASE_END (R251, R254). -/
def execIterationPhaseEnd (core : Nat) (s : State) : Host.Outcome State Fault Refusal :=
  .next (match (matAt s core).queue.head?.bind (flightAt? s) with
    | none => s
    | some f =>
      if !((matAt s core).running && (matAt s core).loop.kind != 0) then s
      else endPhase s core f)

end Sys2Proof.Machine
end

