-- ==== Sys2Proof/Machine/Copy.lean ====
section
/-!
DEFINITION. The copy engines and their instructions (R24, R259 to R276).
-/
namespace Sys2Proof.Machine

/-! ### Commands -/

/-- DIR of a copy command (R261). -/
def copyDir (o : Op) (f : ExtWord) : Nat := if isLinkOp o then 2 else if o = .xred then 1 else if o = .xslot ∨ o = .xprf then 0 else f.opx.toNat / 128
def copySrcGlobal (o : Op) (f : ExtWord) : Bool := o != .xfill && o != .xhand && copyDir o f != 1
def copySrcSpad (o : Op) (f : ExtWord) : Bool := o != .xfill && o != .xhand && copyDir o f == 1
def copyDstGlobal (o : Op) (f : ExtWord) : Bool := o != .xprf && o != .xslot && o != .xhand && copyDir o f != 0
def copyDstSpad (o : Op) (f : ExtWord) : Bool := o != .xprf && o != .xslot && o != .xhand && copyDir o f == 0
def isDescOp (o : Op) : Bool := o == .xcopy2 || o == .xcopy3 || o == .xgath || o == .xscat
/-- Scope of completion of global writes (R261, R332): team or device, and domain for a link transfer. -/
def copyScope (o : Op) (f : ExtWord) : Nat := if isLinkOp o then 7 else if f.opx.getLsbD 2 then 6 else 1

/-- The engine a copy instruction commands (R24, R261): 4 × sector + number. -/
def engineOf (s : State) (g : Group) (f : ExtWord) : Nat :=
  let (_, _, c, _) := logCore s (groupCtx s g) g.core
  4 * coreSector g.core + (if f.opx.getLsbD 5 then f.opx.toNat / 8 % 4 else c / 2)

/-- Descriptor field i of a command: W, N1, N2, IDX, SS1, DS1, SS2, DS2 (R264). -/
def descField (d : List Nat) (i : Nat) : Nat := d.getD i 0
def descInt (d : List Nat) (i : Nat) : Int := intOf true 64 (d.getD i 0)

/-- Source and destination of row r of a descriptor form, as exact integers (R265); `idx` reads the index list. -/
def rowAddr (o : Op) (d : List Nat) (src dst : Nat) (idx : Nat → Nat) (r : Nat) : Int × Int :=
  let n1 := descField d 1
  match o with
  | .xgath => (src + idx r * descInt d 4, dst + r * descInt d 5)
  | .xscat => (src + r * descInt d 4, dst + idx r * descInt d 5)
  | _ => (src + (r / n1 : Nat) * descInt d 6 + (r % n1 : Nat) * descInt d 4,
          dst + (r / n1 : Nat) * descInt d 7 + (r % n1 : Nat) * descInt d 5)

/-- The word r of an index list in scratchpad (R265). -/
def idxWord (spad : SMap Byte) (d : List Nat) (r : Nat) : Nat := readNat spad (descField d 3 + 4 * r) 4

/-- Source and destination address of byte b of a command. -/
def byteAddr (spad : SMap Byte) (c : CopyCmd) (b : Nat) : Int × Int :=
  if isDescOp c.op then
    let w := descField c.desc 0
    let (x, y) := rowAddr c.op c.desc c.src c.dest (idxWord spad c.desc) (b / w)
    (x + (b % w : Nat), y + (b % w : Nat))
  else (((c.src + b : Nat) : Int), ((c.dest + b : Nat) : Int))

/-! ### Issue (R262) -/

/-- The descriptor's fields (R264). -/
def descOf (x : Nat) : List Nat :=
  [bits x 31 0, bits x 63 32, bits x 95 64, bits x 127 96, bits x 191 128, bits x 255 192, bits x 319 256, bits x 383 320]

/-- The first condition of R265 that a descriptor meets. -/
def descFault (o : Op) (x : Nat) : Option Nat :=
  let d := descOf x
  let n2 := if o = .xcopy3 then descField d 2 else 1
  let rng (n : Nat) : Bool := decide (1 ≤ n) && decide (n ≤ 65536)
  if bits x 511 384 != 0 then some 1
  else if !(rng (descField d 1)) || !(rng n2) then some 2
  else if (o != .xcopy3 && (descField d 2 != 0 || descField d 6 != 0 || descField d 7 != 0)) ||
    (!(o == .xgath || o == .xscat) && descField d 3 != 0) then some 3
  else if descField d 0 = 0 ∨ 16777212 < descField d 0 * descField d 1 * n2 then some 4
  else none

/-- Rows of a command. -/
def rowCount (o : Op) (d : List Nat) : Nat := descField d 1 * (if o = .xcopy3 then descField d 2 else 1)

/-- The scratchpad ranges that a command reads and writes, row by row, as (low, bytes, write) with exact addresses
(R262). -/
def copyRanges (spad : SMap Byte) (o : Op) (f : ExtWord) (d : List Nat) (src dst total : Nat) : List (Int × Nat × Bool) :=
  let rows : List (Int × Int × Nat) :=
    if isDescOp o then
      (List.range (rowCount o d)).map (fun r =>
        let (x, y) := rowAddr o d src dst (idxWord spad d) r
        (x, y, descField d 0))
    else [((src : Int), (dst : Int), total)]
  (if copySrcSpad o f then rows.map (fun r => (r.1, r.2.2, false)) else []) ++
  (if copyDstSpad o f then rows.map (fun r => (r.2.1, r.2.2, true)) else [])

/-- The index list's range. -/
def idxRange (o : Op) (d : List Nat) : List (Int × Nat × Bool) :=
  if o = .xgath ∨ o = .xscat then [((descField d 3 : Nat), 4 * descField d 1, false)] else []

/-- The entry from the lowest to the highest byte of some ranges (R271). -/
def spanOf (rs : List (Int × Nat × Bool)) : Option (Nat × Nat) :=
  match rs with
  | [] => none
  | r :: t =>
    let lo := t.foldl (fun m x => min m x.1) r.1
    let hi := t.foldl (fun m x => max m (x.1 + (x.2.1 : Int))) (r.1 + (r.2.1 : Int))
    some (lo.toNat, hi.toNat)

/-- Whether the global addresses, global strides and row length of a command are multiples of 4 (R262). -/
def globalAligned (o : Op) (f : ExtWord) (d : List Nat) (src dst : Nat) : Bool :=
  let ok (x : Nat) : Bool := x % 4 == 0
  (!(copySrcGlobal o f) || (ok src && (!(isDescOp o) || (ok (descField d 4) && ok (descField d 6))))) &&
  (!(copyDstGlobal o f) || (ok dst && (!(isDescOp o) || (ok (descField d 5) && ok (descField d 7))))) &&
  (!(isDescOp o) || ok (descField d 0))

/-- The link unit of a die takes part as an engine: R331's transfers and the writes of collectives are its commands. -/
def linkEng (die : Nat) : Nat := 48 + die
def isLinkEng (eng : Nat) : Bool := decide (48 ≤ eng)
/-- The die of an engine, and its entries (R259, R331). -/
def engDie (eng : Nat) : Nat := if isLinkEng eng then eng - 48 else eng / 12
def engEntries (eng : Nat) : Nat := if isLinkEng eng then 128 else 32

/-- The lowest free entry of an engine (R259). -/
def freeEntry (s : State) (eng : Nat) : Option Nat :=
  (List.range (engEntries eng)).find? (fun n => !(s.cmds.any (fun c => c.eng == eng && c.entry == n)))

/-- Whether new guard entries may be taken on a core (R271). -/
def guardRoom (s : State) (core : Nat) (es : List Guard) : Bool :=
  let gs := (coreAt s core).guards
  decide (gs.length + es.length ≤ 16) &&
  es.all (fun e => gs.all (fun g => !(g.team == e.team && (g.write || e.write) && decide (e.lo < g.hi) && decide (g.lo < e.hi))))

/-- A command as it issues. -/
def newCmd (s : State) (c : Ctx) (total src dst : Nat) (desc : List Nat) (value : Word) : CopyCmd where
  id := c.id
  eng := engineOf s c.g c.f
  entry := (freeEntry s (engineOf s c.g c.f)).getD 0
  op := c.op
  uid := c.g.uid
  team := c.g.team
  core := c.g.core
  f := c.f
  pc := c.pc
  sel := c.sel
  dest := dst
  src := src
  value := value
  desc := desc
  total := total
  sent := 0
  landed := 0
  issuedClk := c.clk
  bar := if c.f.opx.getLsbD 6 && c.op != .xhand then some c.f.sc.toNat else none
  phase := .waiting
  reads := []
  writes := []
  fails := []
  counted := 0
  got := []
  places := []
  pages := []

/-- The state with a command's bytes added to its barrier, if they fit (R29, R262). -/
def pendFor (s : State) (c : Ctx) (cmd : CopyCmd) : Option State :=
  match cmd.bar with
  | none => some s
  | some b => addPend s c.g.team b cmd.total

/-- A command enters its engine with its guard entries and its slots' feed counts (R262, R271, R216). -/
def enterCmd (c : Ctx) (cmd : CopyCmd) (gs : List Guard) (slots : List Nat) (s1 : State) : State :=
  let s2 := updCore { s1 with cmds := s1.cmds ++ [cmd] } c.g.core (fun x => { x with guards := x.guards ++ gs })
  slots.foldl (fun st o => addFd st c.g.core o true) s2

/-- Whether an engine has an entry and a core has guard entries and free slots for a command (R262, R216). -/
def cmdRoom (s : State) (c : Ctx) (cmd : CopyCmd) (gs : List Guard) (slots : List Nat) : Bool :=
  (freeEntry s cmd.eng).isSome && guardRoom s c.g.core gs &&
    slots.all (fun o => fdClear s c.g.core o && rdClear s c.g.core o)

/-- Take the command entry, the guard entries and the pending bytes (R262), with the interlocks of R216 for slots. -/
def takeCmd (s : State) (c : Ctx) (cmd : CopyCmd) (gs : List Guard) (slots : List Nat) : Verdict :=
  match pendFor s c cmd with
  | none => .raise 0x0B 0 c.sel 0
  | some s1 => if cmdRoom s c cmd gs slots then .act (enterCmd c cmd gs slots s1) else .hold

/-- The byte count of a plain copy, or the address of the descriptor (R261, R264). -/
def copyB (c : Ctx) (s : State) : Nat := (srcS s c 2).toNat

/-- The 64 bytes of the descriptor, 0 for a plain form. -/
def copyDesc (c : Ctx) (s : State) : Nat := if isDescOp c.op then readNat (teamSpad s c.g.team) (copyB c s) 64 else 0

/-- The bytes that a copy moves (R261, R265). -/
def copyTotal (c : Ctx) (s : State) : Nat :=
  let d := descOf (copyDesc c s)
  if isDescOp c.op then descField d 0 * rowCount c.op d else copyB c s

def copySrc (c : Ctx) (s : State) : Nat := if c.op = .xfill then 0 else (srcS s c 1).toNat
def copyDst (c : Ctx) : Nat := (sread c.g c.f.d.toNat).toNat

/-- The scratchpad ranges of a copy's rows, and of its index list. -/
def rowRanges (c : Ctx) (s : State) : List (Int × Nat × Bool) :=
  copyRanges (teamSpad s c.g.team) c.op c.f (descOf (copyDesc c s)) (copySrc c s) (copyDst c) (copyTotal c s)
def listRanges (c : Ctx) (s : State) : List (Int × Nat × Bool) := idxRange c.op (descOf (copyDesc c s))

/-- The first check of R262 that a copy, fill or reduction fails: fault code, detail and address. -/
def copyFault (c : Ctx) (s : State) : Option (Nat × Nat × Nat) :=
  let o := c.op
  let lim := spadBytes s c.g
  let b := copyB c s
  if !(isDescOp o) && (b % 4 != 0 || decide (16777212 < b)) then some (0x40, 1, 0)
  else if isDescOp o && b % 16 != 0 then some (0x06, 0, b)
  else if isDescOp o && decide (lim < b + 64) then some (0x05, 0, b)
  else
    match (if isDescOp o then descFault o (copyDesc c s) else none) with
    | some k => some (0x41, k, 0)
    | none =>
      let rs := rowRanges c s ++ listRanges c s
      match rs.find? (fun r => r.1 % 4 != 0) with
      | some r => some (0x06, 0, wrapN 64 r.1)
      | none =>
        if !(globalAligned o c.f (descOf (copyDesc c s)) (copySrc c s) (copyDst c)) then some (0x40, 2, 0)
        else
          -- a command of no bytes reads and writes none
          (rs.find? (fun r => r.2.1 != 0 && (decide (r.1 < 0) || decide ((lim : Int) < r.1 + r.2.1)))).map (fun r => (0x05, 0, wrapN 64 r.1))

/-- The command of a copy, fill or reduction. -/
def copyCmd (c : Ctx) (s : State) : CopyCmd :=
  newCmd s c (copyTotal c s) (copySrc c s) (copyDst c) (descOf (copyDesc c s))
    (if c.op = .xfill then (srcS s c 1).setWidth 32 else 0)

/-- Its guard entries: the rows from lowest to highest byte, and the index list (R271). -/
def copyGuards (c : Ctx) (s : State) : List Guard :=
  let g (w : Bool) (p : Nat × Nat) : Guard := ⟨c.id, w, c.g.team, p.1, p.2⟩
  ((spanOf (rowRanges c s)).map (g (copyDstSpad c.op c.f))).toList ++ ((spanOf (listRanges c s)).map (g false)).toList

/-- The copies, fills and reductions (R262). -/
def ownCopy (c : Ctx) (s : State) : Verdict :=
  match copyFault c s with
  | some (code, d, a) => .raise code d c.sel a
  | none => if copyTotal c s = 0 then .act (finishAt s c 1) else takeCmd s c (copyCmd c s) (copyGuards c s) []

/-- Bytes that `xslot` copies, and the slots they span (R266). -/
def slotBytes (c : Ctx) (s : State) : Nat := if (srcS s c 2).toNat = 0 then 32768 else (srcS s c 2).toNat
def slotSpan (c : Ctx) (s : State) : List Nat := List.range' c.f.d.toNat ((slotBytes c s + 32767) / 32768)
def slotCmd (c : Ctx) (s : State) : CopyCmd := newCmd s c (slotBytes c s) (srcS s c 1).toNat (32768 * c.f.d.toNat) [] 0

/-- The check of `xslot` that fails (R266). -/
def xslotFault (c : Ctx) (s : State) : Option (Nat × Nat) :=
  let n := slotBytes c s
  let o := c.f.d.toNat
  let cl (x : Nat) : Nat := mget 0 x (matAt s c.g.core).claims
  if (srcS s c 1).toNat % 4 != 0 then some (0x40, 2)
  else if n % 256 != 0 || decide (32768 * (16 - o) < n) then some (0x40, 3)
  else if (matAt s c.g.core).team != some c.g.team || cl o == 0 || (slotSpan c s).any (fun x => cl x != cl o) then some (0x20, 0)
  else none

/-- `xslot` (R266). -/
def ownXslot (c : Ctx) (s : State) : Verdict :=
  match xslotFault c s with
  | some (code, d) => .raise code d c.sel 0
  | none => takeCmd s c (slotCmd c s) [] (slotSpan c s)

/-- `xprf` (R267). -/
def prfCmd (c : Ctx) (s : State) : CopyCmd := newCmd s c (srcS s c 2).toNat (srcS s c 1).toNat 0 [] 0

def ownXprf (c : Ctx) (s : State) : Verdict :=
  let n := (srcS s c 2).toNat
  if n = 0 ∨ 16777215 < n then .raise 0x40 1 c.sel 0 else takeCmd s c (prfCmd c s) [] []

/-- `xhand` (R269). -/
def handCmd (c : Ctx) (s : State) : CopyCmd := newCmd s c 0 0 0 [] ((srcS s c 1).setWidth 32)

def ownXhand (c : Ctx) (s : State) : Verdict := takeCmd s c (handCmd c s) [] []

/-- The group's commands on the engine it names. -/
def myCmds (c : Ctx) (s : State) : List CopyCmd := s.cmds.filter (fun x => x.uid == c.g.uid && x.eng == engineOf s c.g c.f)

/-- `xstat` (R270). -/
def xstatValue (c : Ctx) (s : State) : Nat :=
  match c.f.sa.toNat with
  | 0 => (myCmds c s).length
  | 1 => (coreAt s c.g.core).guards.length
  | 2 => ((myCmds c s).map (fun x => x.total - x.landed)).sum
  | _ => mget 0 (engineOf s c.g c.f % 4) c.g.ended

def ownXstat (c : Ctx) (s : State) : Verdict := scWrite c 2 (BitVec.ofNat 64 (xstatValue c s)) s

/-! ### The end of a command -/

/-- Slots that an `xslot` spans. -/
def cmdSlots (c : CopyCmd) : List Nat := if c.op = .xslot then List.range' (c.dest / 32768) ((c.total + 32767) / 32768) else []

/-- Subtract bytes from a command's barrier (R272). -/
def subPend (s : State) (c : CopyCmd) (n : Nat) : State :=
  match c.bar with
  | none => s
  | some b => updBar s c.team b (fun x => { x with delta := x.delta - n })

/-- Bytes of a command leave its barrier, and are counted (R29, R272). -/
def countDown (s : State) (c : CopyCmd) (n : Nat) : State :=
  updCmd (subPend s c n) c.id (fun x => { x with counted := x.counted + n })

/-- The bytes that a command still has in its barrier (R29). -/
def cmdPend (c : CopyCmd) : Nat := c.total - c.counted

/-- A command leaves its entry: guards, slot interlocks and a link unit's transfer entry are freed and its flag is set
(R271, R272, R331). -/
def freeCmd (s : State) (c : CopyCmd) : State :=
  let s1 := updCore s c.core (fun x =>
    { x with guards := x.guards.filter (fun g => g.cmd != c.id), landings := x.landings.filter (fun l => l.cmd != c.id) })
  let s2 := (cmdSlots c).foldl (fun st o => addFd st c.core o false) s1
  let s3 := updGroup s2 c.uid (doneSetf c.f.setf.toNat c.id)
  let s4 := if isLinkEng c.eng && !(s3.flights.any (fun f => f.id == c.id)) then
      setDie s3 (engDie c.eng) { dieAt s3 (engDie c.eng) with xfers := (dieAt s3 (engDie c.eng)).xfers - 1 } else s3
  { s4 with cmds := s4.cmds.filter (fun x => x.id != c.id) }

/-- End commands as `xcancel` does (R270). -/
def endCmds (s : State) (uid eng : Nat) (cs : List CopyCmd) : State :=
  let s1 := cs.foldl (fun st c => freeCmd (subPend st c (cmdPend c)) c) s
  updGroup s1 uid (fun g => { g with ended := mset 0 (eng % 4) cs.length g.ended })

/-- `xcancel` (R270): no command is inside a block at an issue, so each ended command stops in this clk. -/
def cancelCmds (c : Ctx) (s : State) : State := finishAt (endCmds s c.g.uid (engineOf s c.g c.f) (myCmds c s)) c 1

def ownXcancel (c : Ctx) (s : State) : Verdict := .act (cancelCmds c s)

/-- An abort, a permission fault or a data error ends a command and the group's later ones on its engine (R274); a link
transfer, which waits for no other, alone. -/
def abortCmd (s : State) (c : CopyCmd) (detail addr : Nat) : State :=
  let s1 := if isLinkEng c.eng then freeCmd (subPend s c (cmdPend c)) c
    else endCmds s c.uid c.eng (s.cmds.filter (fun x => x.uid == c.uid && x.eng == c.eng && decide (c.id ≤ x.id)))
  let s2 := updGroup s1 c.uid (fun g => { g with aborts := g.aborts ++ [(detail, c.pc, addr, c.sel)] })
  afterClk s2 (coreDie c.core) 1 0 (.copyAbortFault c.uid)

def execXcopy (f : ExtWord) (s : State) : Host.Outcome State Fault Refusal := issue .xcopy (.ext f) ownCopy s
def execXcopy2 (f : ExtWord) (s : State) : Host.Outcome State Fault Refusal := issue .xcopy2 (.ext f) ownCopy s
def execXcopy3 (f : ExtWord) (s : State) : Host.Outcome State Fault Refusal := issue .xcopy3 (.ext f) ownCopy s
def execXgath (f : ExtWord) (s : State) : Host.Outcome State Fault Refusal := issue .xgath (.ext f) ownCopy s
def execXscat (f : ExtWord) (s : State) : Host.Outcome State Fault Refusal := issue .xscat (.ext f) ownCopy s
def execXslot (f : ExtWord) (s : State) : Host.Outcome State Fault Refusal := issue .xslot (.ext f) ownXslot s
def execXfill (f : ExtWord) (s : State) : Host.Outcome State Fault Refusal := issue .xfill (.ext f) ownCopy s
def execXprf (f : ExtWord) (s : State) : Host.Outcome State Fault Refusal := issue .xprf (.ext f) ownXprf s
def execXred (f : ExtWord) (s : State) : Host.Outcome State Fault Refusal := issue .xred (.ext f) ownCopy s
def execXstat (f : ExtWord) (s : State) : Host.Outcome State Fault Refusal := issue .xstat (.ext f) ownXstat s
def execXcancel (f : ExtWord) (s : State) : Host.Outcome State Fault Refusal := issue .xcancel (.ext f) ownXcancel s
def execXhand (f : ExtWord) (s : State) : Host.Outcome State Fault Refusal := issue .xhand (.ext f) ownXhand s

/-- The split that the round robin of R98 considers first. -/
def firstSplit (g : Group) : Option Split :=
  ((List.range 4).map (fun i => (g.lastPlace + 1 + i) % 4)).findSome? (splitAt? g)

/-- COPY_ABORT_FAULT (R274). -/
def execCopyAbortFault (u : Nat) (s : State) : Host.Outcome State Fault Refusal :=
  .next (match groupAt? s u with
    | none => s
    | some g =>
      match g.aborts with
      | [] => s
      | (d, pc, addr, lanes) :: rest =>
        let s1 := updGroup s u (fun g => { g with aborts := rest })
        match firstSplit g with
        | none => s1
        | some sp => raiseFault s1 u (mkEntry 0x42 d lanes addr pc sp.place sp.stamp (s.opCount + 1) sp.pc))

/-! ### The engines (R259) -/

/-- The engine of a command, in the clk of its core's die. -/
def cmdClk (s : State) (c : CopyCmd) : Nat := coreClk s c.core
def cmdPart (s : State) (c : CopyCmd) : Nat := ((teamAt? s c.team).map (·.part)).getD 0
def cmdCtx (s : State) (c : CopyCmd) : Nat := ((teamAt? s c.team).map (·.ctx)).getD 0
/-- Whether a command must stop for a save of its group (R275); a collective goes on (R337). -/
def cmdHalted (s : State) (c : CopyCmd) : Bool :=
  !(isLinkOp c.op && c.op != .lput && c.op != .lget) && ((groupAt? s c.uid).map (·.halted)).getD true

/-- Earlier commands of the same group on the same engine. -/
def earlierCmds (s : State) (c : CopyCmd) : List CopyCmd := s.cmds.filter (fun x => x.uid == c.uid && x.eng == c.eng && decide (x.id < c.id))

/-- Whether every request of a command has been sent. -/
def allSent (c : CopyCmd) : Bool := c.sent == c.total && (c.reads.isEmpty || !(copyDstGlobal c.op c.f))

/-- Whether a command may start (R259, R269). -/
def cmdStartReady (s : State) (c : CopyCmd) : Bool :=
  c.phase == .waiting && !(cmdHalted s c) &&
  (if isLinkEng c.eng then true else if c.op = .xhand then (earlierCmds s c).isEmpty else (earlierCmds s c).all (fun x => allSent x && x.op != .xhand))

/-- COPY_COMMAND_START (R259). -/
def execCopyCommandStart (id : Nat) (s : State) : Host.Outcome State Fault Refusal :=
  .next (match cmdAt? s id with
    | none => s
    | some c => if cmdStartReady s c then updCmd s id (fun c => { c with phase := .started }) else s)

/-- Whether a command stands at the end of a 4,096-byte portion (R275): a reduction, whose blocks end at lines of its
destination (R268), with the block that ends there or first goes beyond. -/
def atPortion (c : CopyCmd) : Bool :=
  if c.op = .xred then c.sent == 0 || (decide (4096 ≤ c.sent) && decide (c.sent % 4096 < 256)) else c.sent % 4096 == 0

/-- Whether a started command has a block for its engine (R259, R274): past the 8 clk, its translations known, no earlier
command of the group on the engine parked; a halted group's command goes on to the end of its portion (R275). -/
def blockReady (s : State) (c : CopyCmd) : Bool :=
  (c.phase == .started || c.phase == .reading) && decide (c.sent < c.total) && (isLinkEng c.eng || decide (c.issuedClk + 8 ≤ cmdClk s c)) &&
  !(s.walks.any (fun w => w.cmds.contains c.id)) && (isLinkEng c.eng || (earlierCmds s c).all (fun x => x.phase != .parked)) &&
  (!(cmdHalted s c) || !(atPortion c))

/-- The command whose block an engine takes next: round robin over entries (R259). -/
def nextBlock (s : State) (eng : Nat) : Option CopyCmd :=
  let last := ((mfind eng s.engines).getD ⟨31, 0⟩).lastEntry
  let m := engEntries eng
  ((List.range m).map (fun i => (last + 1 + i) % m)).findSome? (fun n =>
    s.cmds.find? (fun c => c.eng == eng && c.entry == n && blockReady s c))

/-- Whether the engine may take a block in this clk. -/
def engineFree (s : State) (eng : Nat) : Bool := ((mfind eng s.engines).getD ⟨31, 0⟩).lastClk < dieClk s (engDie eng) + 1

/-- Bytes of the next block: at most 256; a reduction's blocks end at a line of its destination (R268). -/
def cmdBlock (c : CopyCmd) : Nat :=
  let n := if c.op = .xred then 256 - (c.dest + c.sent) % 128 else 256
  let p := if c.sent % 4096 + n > 4096 then 4096 - c.sent % 4096 else n
  min (if c.op = .xred then n else p) (c.total - c.sent)

/-- Maximal runs of positions with consecutive addresses, each within `m` aligned bytes: (position, address, bytes). -/
def addRun (m : Nat) (addr : Nat → Nat) (acc : List (Nat × Nat × Nat)) (b : Nat) : List (Nat × Nat × Nat) :=
  match acc.getLast? with
  | some (p, a, l) =>
    if addr b = a + l ∧ addr b / m = a / m ∧ b = p + l then acc.dropLast ++ [(p, a, l + 1)] else acc ++ [(b, addr b, 1)]
  | none => [(b, addr b, 1)]

/-- Runs within one line each. -/
def runsOf (addr : Nat → Nat) (ps : List Nat) : List (Nat × Nat × Nat) := ps.foldl (addRun 128 addr) []

/-- Runs of any length (R161). -/
def longRuns (addr : Nat → Nat) (ps : List Nat) : List (Nat × Nat × Nat) := ps.foldl (addRun (2 ^ 64) addr) []

/-- A translation that a front end needs at once (R345): cached, or read from the page tables at their home fronts. -/
def resolveVa (s : State) (part va : Nat) : Option TlbEntry :=
  match tlbFind s part va with
  | some e => some e
  | none =>
    let rd (t lv : Nat) : WalkResult := walkEntry s part va lv (leNat (directRead s (walkAddr t va lv) 8))
    match rd ((partAt s part).ptroot * 2 ^ 12) 2 with
    | .next t1 => (match rd t1 1 with
      | .leaf e => some e
      | .next t0 => (match rd t0 0 with
        | .leaf e => some e
        | _ => none)
      | _ => none)
    | _ => none

/-- The translation by which a command's block was taken: the one that it keeps while its blocks are under way, the latest
first (R274, R354), else the cached one. -/
def cmdTlb (s : State) (c : CopyCmd) (va : Nat) : Option TlbEntry :=
  (c.pages.reverse.find? (fun e => va / 2 ^ e.size == e.page)) <|> tlbFind s (cmdPart s c) va

/-- A request of an engine for one line. -/
def engineReq (s : State) (c : CopyCmd) (id : Nat) (ask : Ask) (va : Nat) : Req :=
  let e := cmdTlb s c va
  let pa := (e.map (fun e => entryPa e va)).getD 0
  -- the remote side of a link transfer, and what a collective writes, is `.stay` (R332)
  let pol := if (e.map (·.fpol)) = some 3 then 3
    else if isLinkOp c.op && ((c.op != .lput && c.op != .lget) || lineModule (pa / 128) != s.module) then 1 else c.f.opx.toNat % 4
  { blankReq id (.engine c.id c.eng) ask (pa / 128) with
    uid := c.uid
    op := c.id
    pol := pol
    scope := copyScope c.op c.f
    ctx := cmdCtx s c
    part := cmdPart s c
    va := va
    sector := coreSector c.core
    dl := ((e.map (·.dl)).getD false) && asksWrite ask }

/-- Translations that a command keeps of a block whose cached ones an invalidate has dropped bear their partition above this (R354). -/
def dropped : Nat := 2 ^ 32

/-- Whether a command's next write of an address would go by a translation that has been dropped. -/
def goesStale (c : CopyCmd) (va : Nat) : Bool :=
  match c.pages.reverse.find? (fun e => va / 2 ^ e.size == e.page) with
  | some e => decide (dropped ≤ e.part)
  | none => false

/-- A request that has gone by such a translation is awaited by the invalidates of the partition (R354). -/
def noteStale (s : State) (c : CopyCmd) (id va : Nat) : State :=
  if !(goesStale c va) then s
  else { s with launches := s.launches.map (fun l =>
      if l.kind == 3 && l.part == cmdPart s c && l.phase != .ended then { l with outstanding := l.outstanding ++ [id] } else l) }

/-- Send the writes of positions with their bytes to a global destination, one request per run (R263, R268). -/
def sendWrites (s : State) (id : Nat) (bs : List (Nat × Byte)) (addr : Nat → Nat) : State :=
  (runsOf addr (bs.map (·.1))).foldl (fun st r =>
    match cmdAt? st id with
    | none => st
    | some c =>
      let (rid, s1) := newId st
      let get (i : Nat) : Byte := mget 0 (r.1 + i) bs
      let ask : Ask := if c.op = .xred then
          .reduce (if c.f.opx.toNat / 128 = 0 then .add else if c.f.opx.toNat / 128 = 1 then .min else .max) c.f.ty.toNat 4
            ((List.range (r.2.2 / 4)).map (fun w =>
              (r.2.1 % 128 + 4 * w, BitVec.ofNat 64 (leNat ((List.range 4).map (fun i => get (4 * w + i)))))))
        else .store ((List.range r.2.2).map (fun i => (r.2.1 % 128 + i, get i)))
      updCmd (noteStale (sendReq s1 (engineReq s1 c rid ask r.2.1) 0) c rid r.2.1) id (fun c => { c with writes := c.writes ++ [rid] })) s

/-- Queue a block's bytes for the scratchpad or the slots, one landing per run of consecutive bytes (R161). -/
def queueLandings (s : State) (c : CopyCmd) (bs : List (Nat × Byte)) (addr : Nat → Nat) : State :=
  (longRuns (fun p => addr p) (bs.map (·.1))).foldl (fun st r =>
    updCore st c.core (fun x => { x with landings := x.landings ++
      [⟨c.id, c.eng % 4, (List.range r.2.2).map (fun i => (r.2.1 + i, mget 0 (r.1 + i) bs))⟩] })) s

/-- The destination of a command's byte: as found when its block was taken, where the engine has kept it, for the index list is
free by then (R265, R271). -/
def dstAddr (s : State) (c : CopyCmd) (p : Nat) : Nat :=
  match c.places.find? (fun r => decide (r.1 ≤ p) && decide (p < r.1 + r.2.2)) with
  | some r => wrapN 64 (r.2.1 + (p - r.1) : Nat)
  | none => wrapN 64 (byteAddr (teamSpad s c.team) c p).2

/-- Bytes of a command arrive at the engine: they go on to the destination. -/
def placeBytes (s : State) (c : CopyCmd) (bs : List (Nat × Byte)) : State :=
  let addr := dstAddr s c
  if copyDstGlobal c.op c.f then sendWrites s c.id bs addr else queueLandings s c bs addr

/-- Park a command on a translation fault (R274) and raise its page request (R355). -/
def parkCmd (s : State) (c : CopyCmd) (cause va : Nat) : State :=
  let s1 := updCmd s c.id (fun c => { c with phase := .parked })
  let fe := ((teamAt? s c.team).map (fun t => t.launch / 2 ^ 52)).getD 0
  { s1 with pageHeld := s1.pageHeld ++ [⟨va, cmdCtx s c, c.id, fe, true, 0x08, cause, false, false⟩] }

/-- The global pages that a block touches, as (address, is a write). -/
def blockPages (c : CopyCmd) (src dst : Nat → Nat) (ps : List Nat) : List (Nat × Bool) :=
  let one (on : Bool) (w : Bool) (addr : Nat → Nat) : List (Nat × Bool) :=
    if on then (ps.foldl (fun acc p => if acc.any (fun q => q.1 / 2 ^ 16 == addr p / 2 ^ 16) then acc else acc ++ [(addr p, w)]) []) else []
  let coll := isLinkOp c.op && c.op != .lput && c.op != .lget
  one (copySrcGlobal c.op c.f && (!coll || c.phase == .reading)) false src ++
    one (copyDstGlobal c.op c.f && c.phase != .reading) true dst

/-- The global pages that a command's next block touches, with whether it writes them. -/
def cmdPages (s : State) (c : CopyCmd) : List (Nat × Bool) :=
  let spad := teamSpad s c.team
  blockPages c (fun p => wrapN 64 (byteAddr spad c p).1) (fun p => wrapN 64 (byteAddr spad c p).2) (List.range' c.sent (cmdBlock c))

/-- What the engine keeps of a block while its reads are under way: the places of an indexed destination, and the translations
of the pages that it will write (R265, R274). -/
def keepBlock (s : State) (c : CopyCmd) (ps : List Nat) (pages : List (Nat × Bool)) : CopyCmd :=
  let idle := c.reads.isEmpty && c.got.isEmpty
  { c with
    places := (if idle then [] else c.places) ++ (if c.op = .xscat ∧ copySrcGlobal c.op c.f then longRuns (dstAddr s { c with places := [] }) ps else [])
    pages := (if idle then [] else c.pages) ++ (pages.filter (·.2)).filterMap (fun p => tlbFind s (cmdPart s c) p.1) }

/-- The engine takes the next block of a command: its reads, or its writes and landings (R259, R263 to R268). -/
def takeBlock (s0 : State) (c0 : CopyCmd) : State :=
  let c := keepBlock s0 c0 (List.range' c0.sent (cmdBlock c0)) (cmdPages s0 c0)
  let s := updCmd s0 c0.id (fun _ => c)
  let n := cmdBlock c
  let ps := List.range' c.sent n
  let spad := ((teamAt? s c.team).map (·.spad)).getD []
  let src (p : Nat) : Nat := wrapN 64 (byteAddr spad c p).1
  let sent := c.sent + n
  let done (st : State) : State :=
    let st1 := updCmd st c.id (fun c => { c with sent := sent })
    -- a read entry is freed when the engine has read its last byte (R271)
    if sent = c.total then
      updCore st1 c.core (fun x => { x with guards := x.guards.filter (fun g => g.cmd != c.id || g.write) })
    else st1
  if isLinkOp c.op && c.op != .lput && c.op != .lget && c.phase != .reading then
    let res := ((s.colls.find? (fun x => x.op == some c.id)).map (·.result)).getD []
    done (placeBytes s c (ps.map (fun p => (p, res.getD p 0))))
  else if c.op = .xfill then
    done (placeBytes s c (ps.map (fun p => (p, BitVec.ofNat 8 (c.value.toNat / 2 ^ (8 * (p % 4)))))))
  else if copySrcSpad c.op c.f then done (placeBytes s c (ps.map (fun p => (p, readByte spad (src p)))))
  else
    done ((runsOf src ps).foldl (fun st r =>
      match cmdAt? st c.id with
      | none => st
      | some c =>
        let (rid, s1) := newId st
        if c.op = .xprf then
          -- one request for each line, sent with its first byte; a lane that would fault is dropped (R168, R267)
          if (r.2.1 % 128 == 0 || r.1 == 0) && ((tlbFind s1 (cmdPart s1 c) r.2.1).map (·.r)) == some true
          then sendReq s1 (engineReq s1 c rid .prefetch r.2.1) 0 else s1
        else
          updCmd (sendReq s1 (engineReq s1 c rid (.load [(r.1, 0, r.2.1 % 128, r.2.2)]) r.2.1) 0) c.id (fun c =>
            { c with reads := c.reads ++ [rid] })) s)

/-- An engine has begun a block of a command in this clk. -/
def markEngine (s : State) (eng : Nat) (c : CopyCmd) : State :=
  { s with engines := mput eng ⟨c.entry, dieClk s (engDie eng) + 1⟩ s.engines }

/-- The cause for which a page's translation has failed for a command (R353). -/
def pageFailed (c : CopyCmd) (a : Nat) : Option Nat :=
  if badVa a then some 2 else (c.fails.find? (fun q => q.1 == a / 2 ^ 16)).map (·.2)

/-- The pages of the next block that are still to be translated. -/
def blockMissing (s : State) (c : CopyCmd) : List (Nat × Bool) :=
  (cmdPages s c).filter (fun p => needsWalk s (cmdPart s c) p.1 && (pageFailed c p.1).isNone)

/-- Whether the mapping forbids a command's access to a page. -/
def pageForbids (s : State) (c : CopyCmd) (p : Nat × Bool) : Bool :=
  match tlbFind s (cmdPart s c) p.1 with
  | none => false
  | some e => if p.2 then !e.w || (c.op == .xred && !e.r) else !e.r

/-- COPY_BLOCK (R259, R274): the engine takes one block, or finds that a page must first be translated, or that it may
not be accessed. -/
def execCopyBlock (eng : Nat) (s : State) : Host.Outcome State Fault Refusal :=
  .next (match nextBlock s eng with
    | none => s
    | some c =>
      let s0 := markEngine s eng c
      if !(blockMissing s c).isEmpty then (blockMissing s c).foldl (fun st p => startWalk st (cmdPart s c) p.1 none (some c.id)) s0
      else if c.op = .xprf then takeBlock s0 c
      else
        match (cmdPages s c).find? (fun p => (pageFailed c p.1).isSome) with
        | some p => parkCmd s0 c ((pageFailed c p.1).getD 0) p.1
        | none =>
          match (cmdPages s c).find? (pageForbids s c) with
          | some p => abortCmd s0 c 2 p.1
          | none => takeBlock s0 c)

/-- Whether a copied line's reply may be taken now: replies of a command are taken in the order of its requests. -/
def copyReplyReady (s : State) (r : Req) : Bool :=
  match cmdAt? s r.op with
  | none => true
  | some c => c.reads.head? == some r.id

/-- A destination line of a command takes a poison mark (R274), in the order of the engine's requests for the line (R259). -/
def sendMark (c : CopyCmd) (s : State) (va : Nat) : State :=
  if (cmdTlb s c va).isNone then s
  else
    let (id, s1) := newId s
    sendReq s1 { engineReq s1 c id .poison va with dl := false } 0

/-- The destination lines of some bytes of a command in global memory, by an address in each. -/
def dstLines (s : State) (c : CopyCmd) (bs : List (Nat × Byte)) : List Nat := (runsOf (dstAddr s c) (bs.map (·.1))).map (·.2.1)

/-- Whether a command's bytes go on block by block: to scratchpad and slots, whose transfers are blocks (R161), and over a link
(R322). -/
def byBlocks (c : CopyCmd) : Bool := !(copyDstGlobal c.op c.f) || isLinkEng c.eng

/-- Bytes that a collective's link unit has read (R334). -/
def collTake (s : State) (c : CopyCmd) (bs : List (Nat × Byte)) : State :=
  let r (x : Coll) : Nat := ((mfind (16 * x.part + x.comm) s.comms).map (·.rank)).getD 0
  updCmd { s with colls := listUpd (fun x => x.op == some c.id) (fun x =>
      { x with data := x.data ++ [(r x, 9, (bs.headD (0, 0)).1, bs.map (·.2))] }) s.colls } c.id
    (fun c => { c with landed := c.landed + bs.length })

/-- Bytes that the reads of a command bring go on to the destination, or wait for the rest of their block (R161, R322). -/
def takeBytes (s : State) (c : CopyCmd) (bs : List (Nat × Byte)) : State :=
  if c.phase == .reading then collTake s c bs
  else if !(byBlocks c) then placeBytes s c bs
  else
    let all := c.got ++ bs
    let next := ((bs.getLast?).map (fun p => p.1 + 1)).getD 0
    if next = c.total || next % 256 = 0 then placeBytes (updCmd s c.id (fun c => { c with got := [] })) { c with got := [] } all
    else updCmd s c.id (fun c => { c with got := all })

/-- A read of a command has returned (R263, R274): its bytes go on to the destination; a poisoned line ends it. -/
def copyReply (s : State) (r : Req) : State :=
  let s1 := delReq s r.id
  match cmdAt? s1 r.op, r.ask with
  | some c, .load [(p, _, off, len)] =>
    let s2 := updCmd s1 c.id (fun c => { c with reads := c.reads.filter (· != r.id) })
    let bs := (List.range len).map (fun i => (p + i, mget 0 (off + i) r.data))
    if r.poison && c.phase == .reading then
      -- a collective whose source is poisoned raises the data-error fault (R159, log 49)
      freeCmd { s2 with colls := listUpd (fun x => x.op == some c.id) (fun x => { x with fault := some (0x0A, 0) }) s2.colls } c
    else if r.poison then
      let marks := if copyDstGlobal c.op c.f then dstLines s c bs else []
      abortCmd (marks.foldl (sendMark c) s2) c 3 r.va
    else takeBytes s2 { c with reads := c.reads.filter (· != r.id) } bs
  | _, _ => s1

/-- Bytes that a write of a command places. -/
def askBytes : Ask → Nat
  | .store bs => bs.length
  | .reduce _ _ w ws => w * ws.length
  | _ => 0

/-- The addresses by which the pages of a signal's 64-bit word are found: one that begins 4 bytes before the end of a line lies in
two lines (R332). -/
def sigPages (va : Nat) : List Nat := if va % 128 = 124 then [va, va + 4] else [va]

/-- What signals the end of an `lput` (R332): one is added to a 64-bit word; a word in two lines takes the addition in two parts, the
carry after the low one (DESIGN CHOICE, log 89). -/
def sigPart (c : CopyCmd) (carry : Bool) : Ask :=
  let va := c.desc.headD 0
  if carry then .reduce .add tyN32 4 [(0, 1)]
  else if va % 128 = 124 then .reduce .add tyN32 4 [(124, 1)] else .reduce .add tyN64 8 [(va % 128, 1)]

/-- Send a part of a signal. -/
def sendSignal (s : State) (c : CopyCmd) (ask : Ask) (va : Nat) : State :=
  let (id, s1) := newId s
  let r := engineReq s1 c id ask va
  updCmd (sendReq s1 { r with pol := if r.pol = 3 then 3 else 1 } 0) c.id (fun c => { c with phase := .signalled, writes := [id] })

/-- Whether the low part of a signal in two lines has wrapped. -/
def sigCarries (r : Req) : Bool := r.ask == .reduce .add tyN32 4 [(124, 1)] && r.result == 0xFFFFFFFF

/-- A write of a command is acknowledged at its scope (R272). -/
def copyAck (s : State) (r : Req) : State :=
  let s1 := updReq s r.id (fun x => { x with acked := true })
  match cmdAt? s1 r.op with
  | none => s1
  | some c =>
    let n := askBytes r.ask
    let s2 := updCmd s1 c.id (fun c => { c with writes := c.writes.filter (· != r.id), landed := c.landed + n })
    if c.phase == .signalled then
      (if sigCarries r then sendSignal s1 c (sigPart c true) (c.desc.headD 0 + 4) else freeCmd s1 c) else
    -- the bytes of an `lget` have left its barrier with the acknowledgement at team scope (R332)
    if c.op = .lget then s2 else countDown s2 c n

/-- The landing that a core's scratchpad takes next (R161): round robin over the engines, starting after the one served
last. -/
def nextLanding (s : State) (core : Nat) : Option Landing :=
  let c := coreAt s core
  ((List.range 4).map (fun i => (c.lastEng + 1 + i) % 4)).findSome? (fun e => c.landings.find? (fun l => l.eng == e))

/-- Whether a core's scratchpad carries no vector pass in this clk and has taken no transfer yet (R161). -/
def spadFree (s : State) (core : Nat) : Bool :=
  decide ((coreAt s core).spadUntil ≤ coreClk s core) && decide ((coreAt s core).xferClk ≤ coreClk s core)

/-- Whether this clk's transfer is a landing (R161): the kinds take turns when both are pending. -/
def landingTurn (s : State) (core : Nat) : Bool :=
  spadFree s core && (nextLanding s core).isSome && ((nextXfer s core).isNone || (coreAt s core).lastMatrix)

/-- A block's bytes land in scratchpad or in slots, and its barrier's PEND falls by them (R161, R272). -/
def landBlock (s : State) (core : Nat) (l : Landing) : State :=
  let s1 := updCore s core (fun c =>
    { c with xferClk := coreClk s core + 1, lastMatrix := false, lastEng := l.eng, landings := c.landings.erase l })
  match cmdAt? s1 l.cmd with
  | none => s1
  | some c =>
    let s2 := if c.op = .xslot then updMat s1 core (fun m => { m with slots := msetAll 0 l.bytes m.slots })
      else updTeam s1 c.team (fun t => { t with spad := writeBytes t.spad l.bytes })
    countDown (updCmd s2 c.id (fun c => { c with landed := c.landed + l.bytes.length })) c l.bytes.length

/-- COPY_LANDING (R161, R272): one block lands in scratchpad or in slots. -/
def execCopyLanding (core : Nat) (s : State) : Host.Outcome State Fault Refusal :=
  .next (match nextLanding s core with
    | none => s
    | some l =>
      if !(landingTurn s core) then s
      else
        landBlock s core l)

/-- Whether a command completes at the end of this clk (R272, R332); an `lput` with a signal does not end with
its bytes. -/
def cmdDone (c : CopyCmd) : Bool :=
  c.op != .xhand && !(c.op == .lput && c.f.opx.getLsbD 6) && (c.phase == .started || c.phase == .reading) && c.sent == c.total && (c.op == .xprf || c.landed == c.total)

/-- Members of a communicator in rank order (R328): module numbers at its list's device address. -/
def commMembers (s : State) (part comm : Nat) : List Nat :=
  match mfind (16 * part + comm) s.comms with
  | none => []
  | some e => (directRead s e.list (e.nm1 + 1)).map (·.toNat)

/-- Send a frame to every other member of a communicator to which a route leads. -/
def tellMembers (s : State) (part comm : Nat) (b : FrameBody) : State :=
  ((commMembers s part comm).filter (· != s.module)).foldl (fun st m => sendTo st m 0 b) s

/-- This module's rank in a communicator. -/
def commRank (s : State) (part comm : Nat) : Nat := ((mfind (16 * part + comm) s.comms).map (·.rank)).getD 0

/-- The local destination of a collective is written (R334). -/
def collWritten (s : State) (op : Nat) : State :=
  { s with colls := listUpd (fun y => y.op == some op) (fun y => { y with written := true }) s.colls }

/-- The local source of a collective has been read (R334). -/
def collRead (s : State) (op : Nat) : State :=
  { s with colls := listUpd (fun y => y.op == some op) (fun y => { y with read := true }) s.colls }

/-- COPY_COMPLETE (R272): a link unit's part of a collective goes on with it (R334). -/
def execCopyComplete (id : Nat) (s : State) : Host.Outcome State Fault Refusal :=
  .next (match cmdAt? s id with
    | none => s
    | some c =>
      if !(cmdDone c) then s
      else if c.phase == .reading then collRead (freeCmd s c) c.id
      else if isLinkOp c.op && c.op != .lput && c.op != .lget then collWritten (freeCmd s c) c.id else freeCmd s c)

/-- Whether an `xhand` can push in this clk (R269), after the group pushes of the clk. -/
def xhandReady (s : State) (c : CopyCmd) : Bool :=
  c.op == .xhand && c.phase == .started && (match ringOf? s c.team c.f.d.toNat with
    | none => true
    | some r => decide (r.start + r.pushed + 1 ≤ r.depth))

/-- XHAND_PUSH (R269). -/
def execXhandPush (id : Nat) (s : State) : Host.Outcome State Fault Refusal :=
  .next (match cmdAt? s id with
    | none => s
    | some c => if xhandReady s c then freeCmd (updRing s c.team c.f.d.toNat (fun r => ringPush r c.value)) c else s)

end Sys2Proof.Machine
end

