-- ==== Sys2Proof/Machine/Promise.lean ====
section
/-!
DEFINITION. Promise cells and concords (R304 to R317): finds, locks, the effects of the six instructions, waiter records
and wakes. The promise unit performs its writes under a held lock at the home front in the clk in which it goes on.
-/
namespace Sys2Proof.Machine

/-! ### Cells -/

/-- The value field and the control word of a cell at a module-local physical address (R304). -/
def cellValue (s : State) (pa : Nat) : Nat := readNat s.mem pa 8
def cellWord (s : State) (pa : Nat) : Nat := readNat s.mem (pa + 8) 8

/-- A control word from its fields (R304). -/
def controlWord (st rank head parent : Nat) (lock : Bool) : Nat :=
  st * 2 ^ 62 + (if lock then 2 ^ 61 else 0) + rank * 2 ^ 56 + head * 2 ^ 44 + parent

/-- A control word without LOCK. -/
def unlocked (w : Nat) : Nat := if cellLock w then w - 2 ^ 61 else w

/-! ### Waiter records (R310) -/

/-- The 16 bytes of a record. -/
def waiterBytes (w : Waiter) : List Byte :=
  leBytes 16 (w.next * 2 ^ 80 + w.ctx * 2 ^ 48 + w.gen * 2 ^ 32 + w.dreg * 2 ^ 26 + w.scope * 2 ^ 23 + w.slot * 2 ^ 17 +
    w.core % 6 * 2 ^ 14 + w.core / 6 % 9 * 2 ^ 10 + w.core / 54 % 3 * 2 ^ 8 + w.core / 162 * 2 ^ 6)

/-- A record from its 16 bytes as a number. -/
def waiterOf (x : Nat) : Waiter :=
  ⟨bits x 127 80, bits x 79 48, bits x 47 32, bits x 31 26, bits x 25 23, bits x 22 17,
   54 * (3 * bits x 7 6 + bits x 9 8) + 6 * bits x 13 10 + bits x 16 14⟩

/-- The name of a table record in NEXT, and whether a name is a table record's. -/
def tableRef (i : Nat) : Nat := 2 ^ 47 + i
def isTableRef (r : Nat) : Bool := decide (2 ^ 47 ≤ r)

/-- The record of a name, in an arm's table or in the overflow pool. -/
def getWaiter (s : State) (arm ref : Nat) : Waiter :=
  if isTableRef ref then (mfind (ref - 2 ^ 47) (armAt s arm).waiters).getD (waiterOf 0)
  else waiterOf (readNat s.mem (16 * ref) 16)

def putWaiter (s : State) (arm part ref : Nat) (w : Waiter) : State :=
  if isTableRef ref then updArm s arm (fun a => { a with waiters := mput (ref - 2 ^ 47) w a.waiters })
  else directWrite s part (16 * ref) (waiterBytes w)

/-- Free a record; a pool record goes to the end of the free list. -/
def freeWaiter (s : State) (arm part ref : Nat) : State :=
  if isTableRef ref then updArm s arm (fun a => { a with waiters := mdel (ref - 2 ^ 47) a.waiters })
  else updPart s part (fun p => { p with free := p.free ++ [(16 * ref - p.pool) / 16] })

/-- The lowest free table record of an arm, else the head of the pool's free list (R310). -/
def allocWaiter (s : State) (arm part : Nat) : Option (Nat × State) :=
  match (List.range' 1 4094).find? (fun i => (mfind i (armAt s arm).waiters).isNone) with
  | some i => some (tableRef i, s)
  | none =>
    match (partAt s part).free with
    | [] => none
    | n :: rest => some (((partAt s part).pool + 16 * n) / 16, updPart s part (fun p => { p with free := rest }))

/-- Records that an arm's table and the pool can still take. -/
def waiterRoom (s : State) (arm part : Nat) : Nat := 4094 - (armAt s arm).waiters.length + (partAt s part).free.length

/-- The names of a list's records from a name on. -/
def waiterList (s : State) (arm : Nat) : Nat → Nat → List Nat
  | 0, _ => []
  | n + 1, ref => if ref = 0 then [] else ref :: waiterList s arm n (getWaiter s arm ref).next

/-- The first record's name of a cell's list (R304). -/
def headRef (value w : Nat) : Nat :=
  let h := cellHead w
  if h = 0 then 0 else if h = 4095 then value % 2 ^ 44 else tableRef h

/-- WHEAD and the value field that name a list (R304, R310). -/
def headFields (ref : Nat) : Nat × Nat :=
  if ref = 0 then (0, 0) else if isTableRef ref then (ref - 2 ^ 47, 0) else (4095, ref)

/-- Enough steps for every list. -/
def listFuel (s : State) (part : Nat) : Nat := 4094 + (partAt s part).pooln

/-- Register a record at the head of a list (R310). -/
def registerWaiter (s : State) (arm part head : Nat) (w : Waiter) : Option (Nat × State) :=
  (allocWaiter s arm part).map (fun p => (p.1, putWaiter p.2 arm part p.1 { w with next := head }))

/-- Move table records of a list from one arm to another, in list order, and link the whole list, ending in `last`
(R310, R312). Gives the list's new first name. -/
def relocate (s : State) (from_ to_ part : Nat) (refs : List Nat) (last : Nat) : Nat × State :=
  let ws := refs.map (fun r => (r, getWaiter s from_ r))
  let moved := ws.foldl (fun (acc : List (Nat × Waiter) × State) p =>
    if isTableRef p.1 && from_ != to_ then
      let s1 := freeWaiter acc.2 from_ part p.1
      match allocWaiter s1 to_ part with
      | some (r, s2) => (acc.1 ++ [(r, p.2)], putWaiter s2 to_ part r p.2)
      | none => acc
    else (acc.1 ++ [p], acc.2)) ([], s)
  let names := moved.1.map (·.1)
  let nexts := names.drop 1 ++ [last]
  let s1 := (moved.1.zip nexts).foldl (fun st q => putWaiter st to_ part q.1.1 { q.1.2 with next := q.2 }) moved.2
  (names.headD last, s1)

/-- Queue the wakes of a list with the concord's value, one per clk from the next clk on (R310, R311). -/
def wakeList (s : State) (arm part pa : Nat) (refs : List Nat) (value : DWord) (ct : Nat) : State :=
  let s1 := updArm s arm (fun a => { a with heads := a.heads.filter (· != pa) })
  (refs.foldl (fun (acc : State × Nat) ref =>
    let (id, st) := newId acc.1
    let st1 := { st with wakes := st.wakes ++ [⟨id, pa, arm, part, ref, getWaiter st arm ref, value, ct, false⟩] }
    (afterClk st1 (armDie arm) (acc.2 + 1) 3 (.promiseWakeSend pa), acc.2 + 1)) (s1, 0)).1

/-- A record of a root's list is freed and its wake is sent (R310, R311). -/
def sendWake (s : State) (w : Wake) : State :=
  let s1 := freeWaiter s w.arm w.part w.ref
  let s2 := { s1 with wakes := listUpd (fun x => x.id == w.id) (fun x => { x with sent := true }) s1.wakes }
  addDue s2 (arriveAt s2 (armSector w.arm) (coreSector w.w.core) 24) 3 (.promiseWakeArrive w.id)

/-- PROMISE_WAKE_SEND: the next record of a root's list is woken and freed (R310, R311). -/
def execPromiseWakeSend (cell : Nat) (s : State) : Host.Outcome State Fault Refusal :=
  .next (match s.wakes.find? (fun w => w.cell == cell && !w.sent) with
    | none => s
    | some w =>
      sendWake s w)

/-- PROMISE_WAKE_ARRIVE: the value reaches the register of the waiting slot, if context and generation match (R311). The
wait of a slot that has gone on under a new generation since is the one whose flight carries both. -/
def execPromiseWakeArrive (id : Nat) (s : State) : Host.Outcome State Fault Refusal :=
  .next (match s.wakes.find? (fun w => w.id == id) with
    | none => s
    | some w =>
      let s1 := { s with wakes := s.wakes.filter (fun x => x.id != id) }
      match s1.groups.find? (fun g => g.core == w.w.core && g.slot == w.w.slot && groupCtx s1 g == w.w.ctx) with
      | none => s1
      | some g =>
        match s1.flights.find? (fun f => f.uid == g.uid && f.op == .pwait && f.step == .waiting && f.at2 == w.w.gen) with
        | none => s1
        | some f =>
          if f.gen != g.gen then s1
          else completeWith (updGroup s1 g.uid (fun g => { g with horizon := max g.horizon w.ct })) f w.value)

/-! ### Requests of an operation -/

/-- The policy by which a cell is accessed: `.stay` (R306), or `.dram` through a mapping forced to memory (R184). -/
def cellPol (s : State) (f : Flight) (va : Nat) : Nat := if ((tlbFind s (flightPart s f) va).map (·.fpol)) = some 3 then 3 else 1

/-- A request of a promise operation to the front of the cell at virtual address `va`, sent from a sector (R306). -/
def promReq (s : State) (f : Flight) (ask : Ask) (va pa from_ : Nat) : State :=
  let (id, s1) := newId s
  let e := tlbFind s (flightPart s f) va
  let r : Req := { flightReq s1 f id ask (pa / 128) (cellPol s f va) va ((e.map (·.dl)).getD false && asksWrite ask) with
    src := .prom f.id (flightCore s f), sector := from_, scope := opxScope f.f }
  sendReq s1 r 0

/-- The physical address of a cell whose translation is cached: none where its translation or the read permission fails. -/
def cellPa (s : State) (f : Flight) (va : Nat) : Option Nat :=
  match tlbFind s (flightPart s f) va with
  | none => none
  | some e => if e.r then some (entryPa e va) else none

/-- The DL bit and the policy of the mapping by which an operation reaches a cell: those under which it took the cell's lock, should
the translation have been dropped since (R356). -/
def cellGrant (s : State) (f : Flight) (va : Nat) : Bool × Nat :=
  match f.grants.find? (fun g => g.1 == va) with
  | some g => g.2
  | none => (((tlbFind s (flightPart s f) va).map (·.dl)).getD false, cellPol s f va)

/-- A write of a cell from its promise unit is performed, and its reply leaves `k` clk late (R307, R308); where the block's home
changes, it is held with the requests there (R188). -/
def cellWrite (s : State) (r : Req) (k : Nat) : State :=
  let s1 : State := { s with reqs := s.reqs ++ [r] }
  let block := localLine r.line / 512
  if heldBlock s1 r.arm block then holdReq s1 r.arm block r.id
  else
    match r.ask with
    | .cellWrite _ xs =>
      let deep := r.pol == 3 || (homeTile? (armAt s1 r.arm) r.line).isNone
      let s2 := logWrite (performWrite s1 r.arm r xs deep) r
      if r.pol == 3 then toMemory s2 ((reqAt? s2 r.id).getD r) else setReply s2 r (k + 24)
    | _ => s1

/-- Write bytes of a cell from its promise unit, in the line order at its home front (R307, R308); awaited at the
operation's scope where `wait`. `k` further clk pass before the reply leaves. -/
def promWrite (s : State) (f : Flight) (va pa off : Nat) (bs : List Byte) (wait : Bool) (k : Nat) : State :=
  let (id, s1) := newId s
  let local_ := pa % 2 ^ 48
  let arm := homeArm s (flightPart s f) local_
  let g := cellGrant s f va
  let r : Req := { flightReq s1 f id (.cellWrite pa (bytesAt (local_ % 128 + off) bs)) (pa / 128) g.2 va g.1 with
    src := .prom f.id (flightCore s f), arm := arm, home := arm, stamp := armClk s arm, left := armClk s arm, phase := .wave }
  let s3 := cellWrite s1 r k
  if wait then updFlight s3 f.id (fun f => { f with reqs := f.reqs ++ [id] }) else s3

/-- Release the lock of one cell. -/
def promUnlock (s : State) (f : Flight) (va pa : Nat) (wait : Bool) : State :=
  promWrite s f va pa 8 (leBytes 8 (unlocked (cellWord s (pa % 2 ^ 48)))) wait 0

/-- Release every lock that an operation holds (R307, R316). -/
def releaseLocks (s : State) (f : Flight) (wait : Bool) : State :=
  f.locks.foldl (fun st va =>
    match (f.roots.zip f.pas).find? (fun p => p.1 == va) with
    | some p => promUnlock st f va p.2 wait
    | none => st) s

/-- An instruction that ends in a fault of the promise unit: its registers become full; its flag stays 0 and its own
(20_prog_promises.md, exit). -/
def endUnflagged (s : State) (f : Flight) : State := abandonFlight s { f with setf := 0 }

/-- A fault of the promise unit (R316): the locks are released, then it is reported. A promise fault leaves NR as if the
instruction had not issued; a data error, which is none, does not (R196). -/
def promFault (s : State) (f : Flight) (code detail addr : Nat) : State :=
  let s1 := releaseLocks s f false
  flightFault (endUnflagged (if code = 0x0A then settleNr s1 f else s1) f) f code detail f.sel addr

/-- Which cell an operation looks for next: the one it names first, then `peq`'s second. -/
def findTarget (f : Flight) : Nat := if f.roots.isEmpty then f.acc else f.at1

/-- Send the visit of a cell whose page has been translated, or has failed to be (R306). -/
def visitAt (s : State) (f : Flight) (va from_ : Nat) (step : PromStep) : State :=
  match cellPa s f va with
  | none => promFault s f 0x5C 3 va
  | some pa =>
    if pa / 2 ^ 48 != s.module then promFault s f 0x5B 1 va
    else promReq (updFlight s f.id (fun f => { f with step := step })) { f with step := step } (.visit pa) va pa from_

/-- The step of an operation that must first translate the page of the cell of its next visit (R353). -/
def walkStep (step : PromStep) (from_ : Nat) : PromStep :=
  match step with
  | .visitX x n => .walkX x n from_
  | .visitP x p n => .walkP x p n from_
  | p => p

/-- Send the visit of a cell, the `n`-th of its find (R306): after 64 visits the chain is taken to be broken. The promise unit
walks the page tables first where the page's translation is not cached (R353). -/
def sendVisit (s : State) (f : Flight) (va n from_ : Nat) (step : PromStep) : State :=
  if 64 < n then promFault s f 0x5C 2 va
  else if needsWalk s (flightPart s f) va then
    startWalk (updFlight s f.id (fun x => { x with step := walkStep step from_ })) (flightPart s f) (va / 2 ^ 16 * 2 ^ 16) (some f.id) none
  else visitAt s f va from_ step

/-- A walk for the next visit has ended: the visit is sent, or its translation has failed (R306). -/
def resumeVisit (s : State) (f : Flight) : State :=
  match f.step with
  | .walkX x n sec => visitAt s f x sec (.visitX x n)
  | .walkP x p n sec => visitAt s f p sec (.visitP x p n)
  | _ => s

/-- Begin a find at the next cell to look for (R306). -/
def startFind (s : State) (f : Flight) (from_ : Nat) : State :=
  sendVisit s f (findTarget f) 1 from_ (.visitX (findTarget f) 1)

/-- Ask for the lock of a root (R307). -/
def sendLock (s : State) (f : Flight) (va from_ : Nat) : State :=
  match (f.roots.zip f.pas).find? (fun p => p.1 == va) with
  | none => s
  | some p => promReq (updFlight s f.id (fun f => { f with step := .lock va })) f (.lock p.2) va p.2 from_

/-- The reply to the issuing group leaves the front (R311, R315): the request carries it. -/
def sendResult (s : State) (f : Flight) (r : Req) (xs : List DWord) : State :=
  let s1 := updFlight s f.id (fun f => { f with step := .done, vals := xs })
  updReq s1 r.id (fun x => { x with acked := true, phase := .reply, due := arriveAt s1 (armSector r.arm) (coreSector (flightCore s f)) 23 })

/-! ### The effects (R308, R309, R314) -/

/-- `pfill` at its locked root (R309). -/
def doFill (s : State) (f : Flight) (va pa : Nat) : State :=
  let a := pa % 2 ^ 48
  let w := cellWord s a
  let v := ((f.vals.headD 0)).toNat
  let part := flightPart s f
  if cellState w = 3 then
    if cellValue s a = v then promUnlock (settleNr s f) f va pa true else promFault s f 0x58 1 va
  else
    let arm := homeArm s part a
    let refs := waiterList s arm (listFuel s part) (headRef (cellValue s a) w)
    let s1 := promWrite (settleNr s f) f va pa 0 (leBytes 8 v ++ leBytes 8 (controlWord 3 (cellRank w) 0 0 false)) true 0
    wakeList s1 arm part pa refs (BitVec.ofNat 64 v) (completionTime s1 arm (pa / 128 % 2 ^ 41))

/-- The lists of waiting records of a cell equated with another move to the root's home and go before its own (R308). -/
def joinWaiters (s : State) (armC armR part : Nat) (refs : List Nat) (old : Nat) : Nat × State :=
  if refs.isEmpty then (old, s) else relocate s armC armR part refs old

/-- `peq` at two roots of which one is not full: `c` becomes a child of `r` (R308). -/
def equateInto (s : State) (f : Flight) (r c : Nat × Nat) : State :=
  let part := flightPart s f
  let w (p : Nat × Nat) : Nat := cellWord s (p.2 % 2 ^ 48)
  let v (p : Nat × Nat) : Nat := cellValue s (p.2 % 2 ^ 48)
  let full := cellState (w r) == 3
  let armR := homeArm s part (r.2 % 2 ^ 48)
  let armC := homeArm s part (c.2 % 2 ^ 48)
  let refs := waiterList s armC (listFuel s part) (headRef (v c) (w c))
  let toMove := if armR = armC then 0 else (refs.filter isTableRef).length
  if !full && decide (waiterRoom s armR part < toMove) then promFault s f 0x5D 1 r.1
  else
    let rank := if cellRank (w r) ≤ cellRank (w c) then min (cellRank (w c) + 1) 31 else cellRank (w r)
    let transit := transitClk (armSector armC) (armSector armR)
    let s1 := promWrite (settleNr s f) f c.1 c.2 0 (leBytes 8 0 ++ leBytes 8 (controlWord 2 (cellRank (w c)) 0 (r.1 / 16) false)) true 0
    if full then
      let s2 := promWrite s1 f r.1 r.2 8 (leBytes 8 (controlWord 3 rank 0 0 false)) true transit
      wakeList s2 armC part c.2 refs (BitVec.ofNat 64 (v r)) (completionTime s2 armR (r.2 / 128 % 2 ^ 41))
    else
      let join := joinWaiters s1 armC armR part refs (headRef (v r) (w r))
      let head := headFields join.1
      let s3 := promWrite join.2 f r.1 r.2 0 (leBytes 8 head.2 ++ leBytes 8 (controlWord 1 rank head.1 0 false)) true transit
      let s4 := updArm s3 armC (fun a => { a with heads := a.heads.filter (· != c.2) })
      if join.1 = 0 then s4 else updArm s4 armR (fun a => { a with heads := (a.heads ++ [r.2]).dedup })

/-- `peq` at its two locked roots (R308), the lower first. -/
def doEquate (s : State) (f : Flight) (lo hi : Nat × Nat) : State :=
  let w (p : Nat × Nat) : Nat := cellWord s (p.2 % 2 ^ 48)
  let v (p : Nat × Nat) : Nat := cellValue s (p.2 % 2 ^ 48)
  let full (p : Nat × Nat) : Bool := cellState (w p) == 3
  if full lo && full hi then
    if v lo != v hi then promFault s f 0x58 2 lo.1
    else promUnlock (promUnlock (settleNr s f) f lo.1 lo.2 true) f hi.1 hi.2 true
  else if full lo then equateInto s f lo hi
  else if full hi then equateInto s f hi lo
  else if cellRank (w hi) ≤ cellRank (w lo) then equateInto s f lo hi
  else equateInto s f hi lo

/-- A registered wait stands until its wake; one whose group has ended is over, and its record stays (R317, log 87). -/
def standWaiting (s : State) (f : Flight) : State :=
  if f.origin.isSome then delFlight s f.id
  else updFlight s f.id (fun f => { f with step := .waiting, at2 := f.gen.toNat })

/-- `pwait` at its locked root (R310, R314). -/
def doWait (s : State) (f : Flight) (r : Req) (va pa : Nat) : State :=
  let a := pa % 2 ^ 48
  let part := flightPart s f
  let w := cellWord s a
  if cellState w = 3 then sendResult (promUnlock s f va pa false) f r [BitVec.ofNat 64 (cellValue s a)]
  else
    let arm := homeArm s part a
    let rec_ : Waiter := ⟨0, flightCtx s f, f.gen.toNat, f.f.d.toNat, opxScope f.f, flightSlot s f, flightCore s f⟩
    match registerWaiter s arm part (headRef (cellValue s a) w) rec_ with
    | none => promFault s f 0x5D 1 va
    | some (ref, s1) =>
      let (h, val) := headFields ref
      let s2 := promWrite s1 f va pa 0 (leBytes 8 val ++ leBytes 8 (controlWord 1 (cellRank w) h 0 false)) false 0
      let s3 := updArm s2 arm (fun a => { a with heads := (a.heads ++ [pa]).dedup })
      standWaiting (delReq s3 r.id) f

/-- Both locks of a `peq`, or the one lock of another operation, are held: perform it (R307). -/
def underLock (s : State) (f : Flight) (r : Req) : State :=
  match f.roots.zip f.pas with
  | [p] => if f.op == .pwait then doWait s f r p.1 p.2 else doFill (delReq s r.id) f p.1 p.2
  | [p, q] =>
    let (lo, hi) := if p.1 ≤ q.1 then (p, q) else (q, p)
    if f.locks.contains lo.1 && f.locks.contains hi.1 then doEquate (delReq s r.id) f lo hi
    else sendLock (delReq s r.id) f (if f.locks.contains lo.1 then hi.1 else lo.1) (armSector r.arm)
  | _ => s

/-- A find has found a root (R306): the next cell's find, the first lock, or the result. -/
def rootFound (s : State) (f0 : Flight) (r : Req) (va pa value w : Nat) : State :=
  let f := { f0 with roots := f0.roots ++ [va], pas := f0.pas ++ [pa] }
  let s1 := updFlight s f.id (fun _ => f)
  let full := cellState w = 3
  let here := armSector r.arm
  match f.op with
  | .ppoll => sendResult s1 f r (if full then [BitVec.ofNat 64 value, 1] else [0, 0])
  | .pfind => sendResult s1 f r [BitVec.ofNat 64 (va + if full then 1 else 0)]
  | .peq =>
    (match f.pas with
      | [_] => startFind (delReq s1 r.id) f here
      | [p, q] =>
        if p = q then completeFlight (settleNr (delReq s1 r.id) f) f
        else sendLock (delReq s1 r.id) f (f.roots.foldl min (f.roots.headD 0)) here
      | _ => s1)
  | _ => sendLock (delReq s1 r.id) f va here

/-- What a visit must find (R306): fault code and detail otherwise. -/
def visitFault (w va : Nat) : Option (Nat × Nat) :=
  if cellState w = 0 then some (0x59, 2)
  else if cellState w = 2 ∧ (cellParent w = 0 ∨ cellParent w = va / 16) then some (0x5C, 1)
  else none

/-- A visit has been performed (R306). -/
def visited (s : State) (f : Flight) (r : Req) (pa : Nat) : State :=
  let off := pa % 128
  let w := cellControl r.data off
  let value := dataNat r.data off 8
  let here := armSector r.arm
  match visitFault w r.va with
  | some (code, detail) => promFault (delReq s r.id) f code detail r.va
  | none =>
    if cellState w != 2 then rootFound s f r r.va pa value w
    else
      let up := 16 * cellParent w
      match f.step with
      | .visitX x n => sendVisit (delReq s r.id) f up (n + 1) here (.visitP x up (n + 1))
      | .visitP x p n =>
        let s1 := delReq s r.id
        let writable := ((tlbFind s (flightPart s f) x).map (·.w)).getD false
        let s2 := match cellPa s f x with
          | some xpa => if writable then promReq s1 f (.casParent xpa (p / 16) (cellParent w)) x xpa here else s1
          | none => s1
        sendVisit s2 f up (n + 1) here (.visitX up (n + 1))
      | _ => s

/-- The promise unit goes on with an operation whose request has been performed (R306 to R310). -/
def promStep (s : State) (f : Flight) (r : Req) : State :=
  if r.poison then promFault (delReq s r.id) f 0x0A 0 r.va
  else
    match r.ask with
    | .make _ => promFault (delReq s r.id) f 0x59 1 r.va
    | .visit pa => visited s f r pa
    | .lock _ =>
      if r.result = 1 then
        let f1 := { f with locks := f.locks ++ [r.va], grants := (r.va, r.dl, r.pol) :: f.grants }
        underLock (updFlight s f.id (fun _ => f1)) f1 r
      else
        let s1 := releaseLocks (delReq s r.id) f false
        let f1 := { f with locks := [], roots := [], pas := [] }
        startFind (updFlight s1 f.id (fun _ => f1)) f1 (armSector r.arm)
    | _ => s

/-- Whether a request of an operation has been performed and its promise unit goes on. -/
def promReady (s : State) (r : Req) : Bool :=
  r.phase == .reply && whenDue s r.due && atPromiseUnit r && (match r.src with | .prom _ _ => true | _ => false)

/-- A request whose operation has ended meanwhile (R317): a lock that it has taken is released. -/
def orphanVisit (s : State) (r : Req) : State :=
  match r.ask with
  | .lock pa =>
    if r.result = 1 then
      let (id, s1) := newId (delReq s r.id)
      let a := pa % 2 ^ 48
      let arm := homeArm s r.part a
      cellWrite s1 { r with
        id := id, op := 0, ask := .cellWrite pa (bytesAt (a % 128 + 8) (leBytes 8 (unlocked (cellWord s a))))
        arm := arm, home := arm, stamp := armClk s arm, left := armClk s arm, phase := .wave, updates := 0, acked := false } 0
    else delReq s r.id
  | _ => delReq s r.id

/-- PROMISE_VISIT: an operation goes on from the cell it has visited, locked or made (R306, R307). -/
def execPromiseVisit (op : Nat) (s : State) : Host.Outcome State Fault Refusal :=
  .next (match flightAt? s op, s.reqs.find? (fun r => r.op == op && promReady s r) with
    | some f, some r => promStep s f r
    | none, some r => orphanVisit s r
    | _, none => s)

/-- PROMISE_CAS_PARENT: the front serves a halving write (R306), with the other request of its clk. -/
def execPromiseCasParent (id : Nat) (s : State) : Host.Outcome State Fault Refusal :=
  .next (match reqAt? s id with
    | none => s
    | some r =>
      match nextServed s r.arm with
      | none => s
      | some x =>
        if x.id = id then updArm (serveNext (serveOne s r.arm id) r.arm) r.arm (fun a => { a with served := true }) else s)

/-- Whether the first lock request that waits for a cell can be served (R307). -/
def lockFree (s : State) (cell : Nat) : Bool :=
  s.lockq.any (fun p => p.1 == cell) && !(let w := cellWord s (cell % 2 ^ 48); (cellState w == 1 || cellState w == 3) && cellLock w)

/-- PROMISE_LOCK_GRANT: the next waiting lock request of a cell is served (R307). -/
def execPromiseLockGrant (cell : Nat) (s : State) : Host.Outcome State Fault Refusal :=
  .next (if !(lockFree s cell) then s
    else
      match s.lockq.find? (fun p => p.1 == cell) with
      | none => s
      | some p =>
        let s1 := { s with lockq := s.lockq.filter (fun q => q.2 != p.2) }
        match reqAt? s1 p.2 with
        | none => s1
        | some r => serveOne s1 r.arm r.id)

/-- The result of a `ppoll`, a `pfind` or a `pwait` that met a full root reaches the group (R314), and its line the copy of the
group's sector (R179). -/
def promReply (s : State) (r : Req) : State :=
  let s1 := refreshCopy (delReq s r.id) { r with sector := ((opCore s r.op).map coreSector).getD r.sector }
  match flightAt? s1 r.op with
  | none => s1
  | some f =>
    let s2 := updGroup s1 f.uid (fun g =>
      let g1 := ownWriteS g f.id f.f.d.toNat (f.vals.headD 0)
      let g2 := if f.op == .ppoll then ownWriteS g1 f.id f.f.sc.toNat (f.vals.getD 1 0) else g1
      { g2 with horizon := if f.op == .pfind then g2.horizon else max g2.horizon r.ct })
    completeFlight s2 f

/-! ### Issue -/

/-- A promise operation whose pages are translated (R315). -/
def finishPromise (s : State) (f : Flight) : State :=
  match onceFaults s f with
  | some s1 => s1
  | none =>
    let part := flightPart s f
    let pa (va : Nat) : Nat := ((tlbFind s part va).map (fun e => entryPa e va)).getD 0
    match f.lanes.find? (fun a => pa a.va / 2 ^ 48 != s.module) with
    | some a => flightFault (endUnflagged s f) f 0x5B 1 f.sel a.va
    | none =>
      let s1 := updFlight s f.id (fun x => { x with sent := true })
      let here := coreSector (flightCore s f)
      if f.op == .pmake then
        let (id, s2) := (s1.opCount + 1, s1)
        updFlight (promReq s2 f (.make (pa f.acc)) f.acc (pa f.acc) here) f.id (fun x => { x with reqs := [id], sent := true })
      else startFind s1 { f with sent := true } here

/-- The cells that a promise instruction names (R309). -/
def promiseCells (c : Ctx) (s : State) : List Nat :=
  if c.op == .peq then [(srcS s c 1).toNat, (srcS s c 2).toNat] else [(srcS s c 1).toNat]

/-- Whether the instruction must wait for the group's earlier writes, as a release (R313, R165). -/
def promiseHolds (c : Ctx) (s : State) : Bool :=
  (c.op == .pmake || c.op == .pfill || c.op == .peq) && !(releaseReady s c.g c.id (opxScope c.f))

/-- A promise instruction in flight: the acquires hold the group's later accesses, and its cells are translated. -/
def startPromise (c : Ctx) (s : State) : State :=
  let cells := promiseCells c s
  let f := { newFlight c .promise with
    dests := destRegs c.op c.f
    lanes := (List.range cells.length).zipWith (fun i x => ⟨i, x⟩) cells
    acc := (srcS s c 1).toNat
    at1 := if c.op == .peq then (srcS s c 2).toNat else (srcS s c 1).toNat
    vals := if c.op == .pfill then [srcS s c 2] else [] }
  let s1 := launchFlight s c f
  let s2 := if c.op == .pwait || c.op == .ppoll then updGroup s1 c.g.uid (fun g => { g with acq := g.acq ++ [c.id] }) else s1
  advanceOn finishPromise s2 f

/-- The issue of a promise instruction (R313 to R315). -/
def promiseOwn (c : Ctx) (s : State) : Verdict :=
  match (promiseCells c s).find? (fun x => decide (2 ^ 48 ≤ x)), (promiseCells c s).find? (fun x => x % 16 != 0) with
  | some x, _ => .raise 0x5A 1 c.sel x
  | none, some x => .raise 0x06 0 c.sel x
  | none, none => if promiseHolds c s then .hold else .act (startPromise c s)

def execPmake (f : ExtWord) (s : State) : Host.Outcome State Fault Refusal := issue .pmake (.ext f) promiseOwn s
def execPfill (f : ExtWord) (s : State) : Host.Outcome State Fault Refusal := issue .pfill (.ext f) promiseOwn s
def execPeq (f : ExtWord) (s : State) : Host.Outcome State Fault Refusal := issue .peq (.ext f) promiseOwn s
def execPwait (f : ExtWord) (s : State) : Host.Outcome State Fault Refusal := issue .pwait (.ext f) promiseOwn s
def execPpoll (f : ExtWord) (s : State) : Host.Outcome State Fault Refusal := issue .ppoll (.ext f) promiseOwn s
def execPfind (f : ExtWord) (s : State) : Host.Outcome State Fault Refusal := issue .pfind (.ext f) promiseOwn s

/-- The waiter records of an old home's cells of a block move to the new home's table, or to the pool (R312). -/
def moveRecords (s : State) (from_ to_ part block : Nat) : State :=
  ((armAt s from_).heads.filter (fun pa => pa % 2 ^ 48 / 2 ^ 16 == block)).foldl (fun st pa =>
    let a := pa % 2 ^ 48
    let w := cellWord st a
    let refs := waiterList st from_ (listFuel st part) (headRef (cellValue st a) w)
    let (head, s1) := relocate st from_ to_ part refs 0
    let (h, val) := headFields head
    let s2 := directWrite s1 part a (leBytes 8 val ++ leBytes 8 (controlWord (cellState w) (cellRank w) h 0 (cellLock w)))
    let s3 := updArm s2 from_ (fun x => { x with heads := x.heads.filter (· != pa) })
    updArm s3 to_ (fun x => { x with heads := (x.heads ++ [pa]).dedup })) s

end Sys2Proof.Machine
end

