-- ==== Sys2Proof/Machine/Link.lean ====
section
/-!
DEFINITION. Links, peers, the host die, PCIe and collectives (R320 to R337).
-/
namespace Sys2Proof.Machine

/-! ### Communicators (R328, R329) -/

/-- Whether a communicator may be used: VALID, RANK at most NM1, and a list of distinct modules that names this one at
RANK (R328). -/
def commValid (s : State) (part comm : Nat) : Bool :=
  match mfind (16 * part + comm) s.comms with
  | none => false
  | some e =>
    let ms := commMembers s part comm
    e.valid && decide (e.rank ≤ e.nm1) && decide ms.Nodup && ms[e.rank]? == some s.module

def commNm1 (s : State) (part comm : Nat) : Nat := ((mfind (16 * part + comm) s.comms).map (·.nm1)).getD 0

/-- COMMUNICATOR_WRITE (R328): the collectives of a rewritten communicator are numbered afresh. -/
def execCommunicatorWrite (part comm : Nat) (v : BitVec 128) (s : State) : Host.Outcome State Fault Refusal :=
  let x := v.toNat
  let e : CommSt := ⟨bits x 127 64, bits x 47 32, bits x 23 16, bits x 15 8, bits x 0 0 == 1, 0⟩
  .next { s with comms := mput (16 * part + comm) e s.comms }

/-! ### Issue (R330, R331) -/

/-- COMM and OP of a link instruction (R330). -/
def linkComm (f : ExtWord) : Nat := f.opx.toNat / 4 % 16
def linkOp (f : ExtWord) : Nat := f.opx.toNat / 128 % 4
def isColl (o : Op) : Bool := isLinkOp o && o != .lput && o != .lget

/-- Bytes of the source and of the destination buffer (R333). -/
def linkSizes (o : Op) (n c : Nat) : Nat × Nat :=
  match o with
  | .lallgat => (c, n * c)
  | .lredsc => (c, c / n)
  | _ => (c, c)

/-- Free a die's transfer entry that an instruction took. -/
def freeXfer (s : State) (core : Nat) : State :=
  let d := coreDie core
  setDie s d { dieAt s d with xfers := (dieAt s d).xfers - 1 }

/-- The number of a signal's page among those that a link instruction writes. -/
def sigLane : Nat := 2 ^ 40

/-- Pages that a link instruction reads (even numbers) and writes (odd numbers). -/
def linkPages (src n dst m : Nat) (sig : Option Nat) : List LaneAcc :=
  (pageAccs src n).map (fun a => ⟨2 * a.lane, a.va⟩) ++
  ((pageAccs dst m) ++ ((sig.map sigPages).getD []).map (fun x => (⟨sigLane, x⟩ : LaneAcc))).map (fun a => ⟨2 * a.lane + 1, a.va⟩)

/-- Whether the mapping forbids one of those accesses (R331, R353); a signal is a reduction and needs both permissions. -/
def linkForbidden (s : State) (part : Nat) (f : Flight) (a : LaneAcc) : Bool :=
  match tlbFind s part a.va with
  | none => false
  | some e =>
    if a.lane == 2 * sigLane + 1 then !e.r || !e.w else if a.lane % 2 = 0 then !e.r else !e.w

/-- The faults of R190 for a link instruction; they name every selected lane (R331). -/
def linkFaults (s : State) (f : Flight) : Option State :=
  let badT := f.lanes.filter (fun a => (laneCause f a).isSome)
  let badP := (f.lanes.filter (fun a => (laneCause f a).isNone)).filter (linkForbidden s (flightPart s f) f)
  match badT, badP with
  | [], [] => none
  | _, _ =>
    let s1 := abandonFlight s f
    let s2 := match badT with
      | [] => s1
      | a :: _ => flightFault s1 f 0x08 ((laneCause f a).getD 0) f.sel a.va
    some (match badP with
      | [] => s2
      | a :: _ => flightFault s2 f 0x09 0 f.sel a.va)

/-- The barrier that a link instruction names (R330). -/
def linkBar (f : Flight) : Option Nat := if f.op != .lput && f.f.opx.getLsbD 6 then some f.f.sc.toNat else none

/-- The transfer of an `lput` or `lget`, or the writes of a collective, as a command of the die's link unit. -/
def linkCmd (s : State) (f : Flight) (total : Nat) (bar : Option Nat) (setf : Bool) : CopyCmd :=
  let core := flightCore s f
  let eng := linkEng (coreDie core)
  { id := f.id, eng := eng, entry := (freeEntry s eng).getD 0, op := f.op, uid := f.uid
    team := ((anyGroup? s f.uid).map (·.team)).getD 0, core := core
    f := if setf then f.f else { f.f with setf := 0 }
    pc := f.pc, sel := f.sel, dest := f.at1, src := f.acc
    value := BitVec.ofNat 32 (((f.vals.headD 0)).toNat % 2 ^ 32), desc := [(f.vals.headD 0).toNat], total := total, sent := 0
    landed := 0, issuedClk := coreClk s core, bar := bar, phase := .started, reads := [], writes := [], fails := []
    counted := 0, got := [], places := [], pages := [] }

/-- The command by which a link unit reads the source of a collective (R334). -/
def readCmd (s : State) (f : Flight) (n : Nat) : CopyCmd := { linkCmd s f n none false with phase := .reading }

/-- The time by which every member must have issued (R329). -/
def collDeadline (s : State) (part comm first : Nat) : Nat := first + 1000 * ((mfind (16 * part + comm) s.comms).map (·.tmo)).getD 0

/-- The time that a member lets pass after the deadline before it judges by what it has heard, in ns, so that the word of an issue in
time has reached it (DESIGN CHOICE, log 98). -/
def collGrace : Nat := 100000

/-- A collective of which nothing is known yet. -/
def newColl (id part comm k first : Nat) : Coll := ⟨id, part, comm, k, none, 0, [], first, false, 0, false, [], false, [], none⟩

/-- Change a collective by its place in its communicator's order; it is made where nothing was known of it. -/
def updColl (s : State) (part comm k time : Nat) (u : Coll → Coll) : State :=
  match s.colls.find? (fun x => x.part == part && x.comm == comm && x.k == k) with
  | some x => { s with colls := listUpd (fun y => y.id == x.id) u s.colls }
  | none =>
    let (id, s1) := newId s
    { s1 with colls := s1.colls ++ [u (newColl id part comm k time)] }

/-- A member's issue of a collective is noted (R329). -/
def noteBrought (s : State) (part comm k : Nat) (b : Brought) : State :=
  updColl s part comm k b.time (fun y =>
    if y.brought.any (fun z => z.rank == b.rank) then y
    else { y with brought := y.brought ++ [b], first := if y.brought.isEmpty then b.time else min y.first b.time })

/-- Bytes of a member have come (R335); the same bytes by another link change nothing (R324). -/
def noteData (s : State) (part comm k rank phase off : Nat) (bytes : List Byte) : State :=
  updColl s part comm k (timeNs s) (fun y =>
    if y.data.any (fun d => d.1 == rank && d.2.1 == phase && d.2.2.1 == off) then y else { y with data := y.data ++ [(rank, phase, off, bytes)] })

/-- A collective that the link unit has accepted takes the communicator's next number and is made known to the other members
(R329). -/
def acceptColl (s : State) (f : Flight) (shape : DWord) : State :=
  let part := flightPart s f
  let comm := linkComm f.f
  let k := ((mfind (16 * part + comm) s.comms).map (·.k)).getD 0
  let rank := commRank s part comm
  let b : Brought := ⟨rank, opCode f.op, f.f.ty.toNat, linkOp f.f, shape, timeNs s⟩
  let s1 := noteBrought { s with comms := madj (16 * part + comm) (fun e => { e with k := e.k + 1 }) s.comms } part comm k b
  match s1.colls.find? (fun x => x.part == part && x.comm == comm && x.k == k) with
  | none => s1
  | some x =>
    let s2 := { s1 with colls := listUpd (fun y => y.id == x.id) (fun y => { y with op := some f.id, dest := f.at1 }) s1.colls }
    let s3 := updFlight s2 f.id (fun g => { g with work := .coll x.id })
    let s4 := tellMembers s3 part comm (.collIssue part comm k rank (timeNs s) (opCode f.op) f.f.ty.toNat (linkOp f.f) shape)
    addDue s4 (.ns (collDeadline s part comm x.first + collGrace)) 3 (.collectiveTimeout x.id)

/-- The logical place of a flight's group as one number: die, sector, cluster, core, slot (R329). -/
def placeNumber (s : State) (f : Flight) : Nat :=
  match anyGroup? s f.uid with
  | none => 0
  | some g => let (d, sc, c, k) := logCore s (groupCtx s g) g.core; (((d * 3 + sc) * 8 + c) * 6 + k) * 64 + g.slot

/-- The collectives that the link units have accepted in this clk are numbered in ascending logical place (R329). -/
def numberColls (s : State) : State :=
  (sortBy (fun a b => decide (placeNumber s a ≤ placeNumber s b)) (s.flights.filter (fun f => f.work == .coll 0))).foldl
    (fun st f => acceptColl st f (f.vals.headD 0)) s

/-- A link instruction whose pages are translated: the last checks of R331, then its effect. -/
def finishLink (s : State) (f : Flight) : State :=
  let s0 := takeOwn s f
  let core := flightCore s0 f
  let part := flightPart s0 f
  let pa (va : Nat) : Nat := ((tlbFind s0 part va).map (fun e => entryPa e va)).getD 0
  let away := f.lanes.filter (fun a => pa a.va / 2 ^ 48 != s0.module)
  let shape := f.vals.headD 0
  let n := commNm1 s0 part (linkComm f.f) + 1
  let c := f.at2
  let (sn, dn) := linkSizes f.op n c
  let others := (commMembers s0 part (linkComm f.f)).filter (· != s0.module)
  match linkFaults s0 f with
  | some s1 => s1
  | none =>
    if isColl f.op && !away.isEmpty then undoFault s f 0x60 3
    else if isColl f.op && !(f.acc == f.at1 && sn == dn) && decide (f.acc < f.at1 + dn) && decide (f.at1 < f.acc + sn) then
      undoFault s f 0x60 4
    else
      let pend := match linkBar f, groupAt? s0 f.uid with
        | some b, some g => addPend s0 g.team b (if f.op = .lget then c else dn)
        | _, _ => some s0
      match pend with
      | none => undoFault s f 0x0B 0
      | some s1 =>
        let lost := if isColl f.op then others.any (fun m => (routeLink s0 m).isNone) else !(unreachable s0 part f.lanes).isEmpty
        if lost then flightFault (loseFlight s0 f) f 0x63 1 f.sel f.acc
        else if 128 ≤ (dieAt s (coreDie core)).xfers then s
        else
          let s2 := updGroup (settleNr s1 f) f.uid (fun g => { g with busy := if g.busy = some f.id then none else g.busy })
          let s3 := setDie s2 (coreDie core) { dieAt s2 (coreDie core) with xfers := (dieAt s2 (coreDie core)).xfers + 1 }
          let src_poison := isColl f.op && f.lanes.any (fun a => a.lane % 2 == 0 &&
            (List.range 512).any (fun i => s0.poison.contains (pa (a.va / 2 ^ 16 * 2 ^ 16) % 2 ^ 48 / 128 + i) &&
              decide (f.acc / 128 ≤ a.va / 2 ^ 16 * 512 + i) && decide (a.va / 2 ^ 16 * 512 + i ≤ (f.acc + sn - 1) / 128)))
          if src_poison then flightFault (loseFlight s0 f) f 0x0A 0 f.sel f.acc
          else if isColl f.op then updFlight s3 f.id (fun g => { g with work := .coll 0, sent := true })
          else delFlight { s3 with cmds := s3.cmds ++ [linkCmd s3 f c (linkBar f) true] } f.id

/-- The checks of R331 on operands and communicator; the fault with its detail and address. -/
def linkCheck (s : State) (c : Ctx) (src dst : Nat) (w : DWord) : Option (Nat × Nat × Nat) :=
  let part := groupPart s c.g
  let comm := linkComm c.f
  let n := commNm1 s part comm + 1
  let count := if isColl c.op then w.toNat % 2 ^ 24 else w.toNat
  let root := w.toNat / 2 ^ 24 % 256
  let sig := c.op == .lput && c.f.opx.getLsbD 6
  let x := (sread c.g c.f.sc.toNat).toNat
  if !(isColl c.op) && (count % 4 != 0 || decide (16777212 < count)) then some (0x60, 1, 0)
  else if isColl c.op && ((root != 0 && c.op != .lbcast) || w.toNat / 2 ^ 32 != 0) then some (0x60, 2, 0)
  else if isColl c.op && !(commValid s part comm) then some (0x61, 1, 0)
  else if isColl c.op && decide (n ≤ root) then some (0x61, 2, 0)
  else if isColl c.op && count % (if c.op = .lredsc then 4 * n else 4) != 0 then some (0x60, 1, 0)
  else if src % 4 != 0 then some (0x06, 0, src)
  else if dst % 4 != 0 then some (0x06, 0, dst)
  else if sig && x % 4 != 0 then some (0x06, 0, x)
  else none

/-- COUNT of a link instruction (R331). -/
def linkCount (c : Ctx) (s : State) : Nat :=
  if isColl c.op then (srcS s c 2).toNat % 2 ^ 24 else (srcS s c 2).toNat

/-- The addresses of a link instruction are translated while the group waits; it takes a transfer entry of its die, when one is
free, with its effect (R331). -/
def startLink (c : Ctx) (s : State) : State :=
  let src := (srcS s c 1).toNat
  let dst := (sread c.g c.f.d.toNat).toNat
  let count := linkCount c s
  let n := commNm1 s (groupPart s c.g) (linkComm c.f) + 1
  let (sn, dn) := if isColl c.op then linkSizes c.op n count else (count, count)
  let sig := if c.op = .lput ∧ c.f.opx.getLsbD 6 then some (sread c.g c.f.sc.toNat) else none
  let f := { newFlight c .link with
    lanes := linkPages src sn dst dn (sig.map (·.toNat))
    acc := src
    at1 := dst
    at2 := count
    vals := [if isColl c.op then srcS s c 2 else sig.getD 0] }
  advanceOn finishLink (updGroup { s with flights := s.flights ++ [f] } c.g.uid (fun g => { keepUndo c g with busy := some c.id })) f

/-- Whether a link instruction whose checks have passed waits for a transfer entry alone (R331). -/
def entryReady (s : State) (f : Flight) : Bool :=
  f.work == .link && !f.sent && f.lanes.all (fun a => !(lanePending s f a)) && decide ((dieAt s (coreDie (flightCore s f))).xfers < 128)

/-- The issue of a link instruction (R331). -/
def linkOwn (c : Ctx) (s : State) : Verdict :=
  match linkCheck s c (srcS s c 1).toNat (sread c.g c.f.d.toNat).toNat (srcS s c 2) with
  | some (code, d, a) => .raise code d c.sel a
  | none =>
    if linkCount c s = 0 then .act (finishAt s c 1)
    else .act (startLink c s)

def execLput (f : ExtWord) (s : State) : Host.Outcome State Fault Refusal := issue .lput (.ext f) linkOwn s
def execLget (f : ExtWord) (s : State) : Host.Outcome State Fault Refusal := issue .lget (.ext f) linkOwn s
def execLallred (f : ExtWord) (s : State) : Host.Outcome State Fault Refusal := issue .lallred (.ext f) linkOwn s
def execLallgat (f : ExtWord) (s : State) : Host.Outcome State Fault Refusal := issue .lallgat (.ext f) linkOwn s
def execLredsc (f : ExtWord) (s : State) : Host.Outcome State Fault Refusal := issue .lredsc (.ext f) linkOwn s
def execLbcast (f : ExtWord) (s : State) : Host.Outcome State Fault Refusal := issue .lbcast (.ext f) linkOwn s

/-! ### `lput` with a signal (R332) -/

/-- Whether every byte of an `lput` with a signal is acknowledged at domain scope. -/
def signalReady (s : State) (c : CopyCmd) : Bool :=
  !(s.walks.any (fun w => w.cmds.contains c.id)) && c.op == .lput && c.f.opx.getLsbD 6 && c.phase == .started && c.sent == c.total && c.landed == c.total

/-- LPUT_SIGNAL: the reduction that signals the end of an `lput` (R332), with its pages translated anew where their translations
have been dropped (R274, R354). -/
def execLputSignal (op : Nat) (s : State) : Host.Outcome State Fault Refusal :=
  .next (match cmdAt? s op with
    | none => s
    | some c =>
      if !(signalReady s c) then s
      else
        let pages := (sigPages (c.desc.headD 0)).map (fun va => (va, true))
        match pages.filter (fun p => (cmdTlb s c p.1).isNone && (pageFailed c p.1).isNone) with
        | p :: _ => startWalk s (cmdPart s c) p.1 none (some op)
        | [] =>
          match pages.find? (fun p => (cmdTlb s c p.1).isNone) with
          | some p => parkCmd s c ((pageFailed c p.1).getD 0) p.1
          | none =>
            match pages.find? (fun p => pageForbids s c p || pageForbids s c (p.1, false)) with
            | some p => abortCmd s c 2 p.1
            | none => sendSignal s c (sigPart c false) (c.desc.headD 0))

/-! ### Collectives (R329, R333, R334) -/

/-- The element that the tree makes of the members' elements (R333). -/
def collRed (ty rop : Nat) (xs : List Nat) : Nat :=
  let op : Rmw := if rop = 1 then .min else if rop = 2 then .max else .add
  if ty = tyBf16 then
    let y := tree (fun x y => rmwApply op tyF32 x y 0) (rmwIdentity op tyF32) (xs.map (· * 2 ^ 16))
    roundF fmtBf16 0 false 0 (decodeF fmtF32 y)
  else tree (fun x y => rmwApply op ty x y 0) (rmwIdentity op ty) xs

/-- The part of `c` bytes that rank `r` of `n` reduces, as (offset, bytes): c / n bytes for `lredsc`, and the nearest whole
words where `lallred` has no equal chunks (R333, R335; log 50). -/
def chunkOf (n c r : Nat) : Nat × Nat := (r * (c / 4) / n * 4, (r + 1) * (c / 4) / n * 4 - r * (c / 4) / n * 4)

/-- The elements that the tree makes of the members' bytes of one chunk, in rank order (R333). -/
def redBytes (ty rop : Nat) (parts : List (List Byte)) : List Byte :=
  let es := parts.map (·.toArray)
  let w := if ty = tyBf16 then 2 else 4
  let word (a : Array Byte) (o : Nat) : Nat := leNat ((List.range w).map (fun i => a.getD (o + i) 0))
  ((List.range ((parts.headD []).length / w)).map (fun e => leBytes w (collRed ty rop (es.map (fun a => word a (w * e)))))).flatten

/-- The bytes of a rank that have come in a phase of an exchange, in order. -/
def dataOf (x : Coll) (rank phase : Nat) : List Byte :=
  ((sortBy (fun a b => decide (a.2.2.1 ≤ b.2.2.1)) (x.data.filter (fun d => d.1 == rank && d.2.1 == phase))).map (fun d => d.2.2.2)).flatten

/-- How many bytes a member receives from rank `q` in a phase of the exchange (R335), itself `me`. -/
def needFrom (b : Brought) (n me q phase : Nat) : Nat :=
  let c := b.shape.toNat % 2 ^ 24
  let root := b.shape.toNat / 2 ^ 24 % 256
  if phase = 1 then (chunkOf n c q).2
  else if b.opc = opCode .lallgat then c
  else if b.opc = opCode .lbcast then (if q = root then c else 0)
  else (chunkOf n c me).2

/-- Whether every byte of the current phase has come. -/
def phaseHere (x : Coll) (b : Brought) (n me : Nat) : Bool :=
  (List.range n).all (fun q => (dataOf x q x.phase).length == needFrom b n me q x.phase)

/-- The destination's bytes once the exchange is over (R333). -/
def collResult (x : Coll) (b : Brought) (n : Nat) : List Byte :=
  let all (phase : Nat) : List (List Byte) := (List.range n).map (fun q => dataOf x q phase)
  if b.opc = opCode .lallred then (all 1).flatten
  else if b.opc = opCode .lredsc then redBytes b.ty b.rop (all 0)
  else (all 0).flatten

/-- Send bytes of this member to rank `q`, one frame for each 256-byte block (R322, R335); its own stay. -/
def sendChunk (s : State) (x : Coll) (me q phase : Nat) (bytes : List Byte) : State :=
  let dest := (commMembers s x.part x.comm).getD q s.module
  (List.range ((bytes.length + 255) / 256)).foldl (fun st i =>
    let bs := (bytes.drop (256 * i)).take 256
    if q = me then noteData st x.part x.comm x.k me phase (256 * i) bs
    else sendTo st dest 0 (.collData x.part x.comm x.k me phase (256 * i) bs)) s

/-- The first phase of an exchange (R335): what this member has read goes to the members that take part. -/
def beginExchange (s : State) (x : Coll) (b : Brought) (n me : Nat) : State :=
  let c := b.shape.toNat % 2 ^ 24
  let src := dataOf x me 9
  (List.range n).foldl (fun st q =>
    let bytes := if b.opc = opCode .lallgat || b.opc = opCode .lbcast then src
      else (src.drop (chunkOf n c q).1).take (chunkOf n c q).2
    sendChunk st x me q 0 bytes) s

/-- A collective faults on this member (R336): its pending bytes leave its barrier. -/
def collFault (s : State) (x : Coll) (code detail : Nat) : State :=
  let s0 := { s with colls := s.colls.filter (fun y => y.id != x.id) }
  match x.op.bind (flightAt? s0) with
  | none => s0
  | some f =>
    let s1 := match cmdAt? s0 f.id with
      | some c => freeCmd (subPend s0 c (cmdPend c)) c
      | none => s0
    -- before its writes have begun, every byte is pending, while its source is read too
    let s2 := match ((cmdAt? s0 f.id).filter (fun c => c.phase != .reading)), linkBar f, groupAt? s0 f.uid with
      | none, some b, some g =>
        let dn := (linkSizes f.op (commNm1 s0 x.part x.comm + 1) f.at2).2
        updBar s1 g.team b (fun y => { y with delta := y.delta - dn })
      | _, _, _ => s1
    freeXfer (flightFault (abandonFlight s2 f) f code detail f.sel f.acc) (flightCore s0 f)

/-- The first difference between the members' issues (R329, R336). -/
def collMismatch (bs : List Brought) : Option Nat :=
  match bs with
  | [] => none
  | b :: r =>
    if r.any (fun x => x.opc != b.opc) then some 1
    else if r.any (fun x => x.ty != b.ty || x.rop != b.rop) then some 2
    else if r.any (fun x => x.shape != b.shape) then some 3
    else none

/-- Whether the group of a collective's local member stands on a core: a fault waits until it does (R337). -/
def collHere (s : State) (x : Coll) : Bool :=
  match x.op.bind (flightAt? s) with
  | some f => (groupAt? s f.uid).isSome
  | none => true

/-- A collective is to fault on this member: at once, or when its group stands on a core again (R336, R337). -/
def faultColl (s : State) (x : Coll) (code detail : Nat) : State :=
  if collHere s x then collFault s x code detail
  else { s with colls := listUpd (fun y => y.id == x.id) (fun y => { y with fault := some (y.fault.getD (code, detail)) }) s.colls }

/-- Whether some member issued later than TMO after the first (R329). -/
def issuedLate (s : State) (x : Coll) : Bool := x.brought.any (fun b => decide (collDeadline s x.part x.comm x.first < b.time))

/-- The fault that a collective ends in (R329, R336): one that waits, an issue that came too late, or a difference. -/
def collVerdict (s : State) (x : Coll) : Option (Nat × Nat) :=
  match x.fault with
  | some d => some d
  | none => if issuedLate s x then some (0x63, 3) else (collMismatch x.brought).map (fun d => (0x62, d))

/-- Whether the group's own earlier writes have been performed, so that the reads of a collective's source see them (R334). -/
def srcQuiet (s : State) (x : Coll) : Bool :=
  match x.op.bind (flightAt? s) with
  | some f => writesAcked s f.uid f.id 1
  | none => true

/-- Whether a collective goes on now: every member has issued and this one takes part, it is to fault, or a phase of its
exchange is over. -/
def collReady (s : State) (x : Coll) : Bool :=
  let n := commNm1 s x.part x.comm + 1
  x.op.isSome && (match x.fault with
    | some _ => collHere s x
    | none =>
      if !x.matched then decide (x.brought.length = n) && (if (collVerdict s x).isNone then srcQuiet s x else collHere s x)
      else x.read && decide (x.phase < 2) &&
        (match x.brought with
          | b :: _ => (x.phase == 0 && (dataOf x (commRank s x.part x.comm) 8).isEmpty) || phaseHere x b n (commRank s x.part x.comm)
          | [] => false))

/-- The members agree: this member's source is read, if its bytes are wanted (R329, R334). -/
def beginReads (s : State) (x : Coll) : State :=
  let set (u : Coll → Coll) (st : State) : State := { st with colls := listUpd (fun y => y.id == x.id) u st.colls }
  match x.op.bind (flightAt? s), x.brought with
  | some f, b :: _ =>
    let sn := (linkSizes f.op (commNm1 s x.part x.comm + 1) f.at2).1
    if b.opc = opCode .lbcast && b.shape.toNat / 2 ^ 24 % 256 != commRank s x.part x.comm then
      set (fun y => { y with matched := true, read := true }) s
    else { set (fun y => { y with matched := true }) s with cmds := s.cmds ++ [readCmd s f sn] }
  | _, _ => s

/-- The exchange is over: the destination's bytes are formed and their writes begin (R333). -/
def beginWrites (s : State) (x : Coll) (b : Brought) : State :=
  let n := commNm1 s x.part x.comm + 1
  let res := collResult x b n
  let s1 := { s with colls := listUpd (fun y => y.id == x.id) (fun y => { y with phase := 2, result := res }) s.colls }
  match x.op.bind (flightAt? s1) with
  | none => s1
  | some f =>
    if res.isEmpty then collWritten s1 f.id
    else { s1 with cmds := s1.cmds ++ [linkCmd s1 f res.length (linkBar f) false] }

/-- A collective whose members agree goes on (R335): its first phase begins when its source has been read, the chunks that it
has reduced go out in the second phase of `lallred`, and its result is written at the end. -/
def goOnColl (s : State) (x : Coll) (b : Brought) : State :=
  let n := commNm1 s x.part x.comm + 1
  let me := commRank s x.part x.comm
  if x.phase = 0 && (dataOf x me 8).isEmpty then
    -- what this member sends goes out once; an entry of phase 8 says so
    let s1 := noteData s x.part x.comm x.k me 8 0 [1]
    if b.opc = opCode .lbcast && b.shape.toNat / 2 ^ 24 % 256 != me then s1 else beginExchange s1 x b n me
  else if !(phaseHere x b n me) then s
  else if x.phase = 0 && b.opc = opCode .lallred then
    let bytes := redBytes b.ty b.rop ((List.range n).map (fun q => dataOf x q 0))
    (List.range n).foldl (fun st q => sendChunk st x me q 1 bytes)
      { s with colls := listUpd (fun y => y.id == x.id) (fun y => { y with phase := 1 }) s.colls }
  else beginWrites s x b

/-- COLLECTIVE_MATCH (R329): the members are compared; where they agree, their exchange begins and goes on (R335). -/
def execCollectiveMatch (id : Nat) (s : State) : Host.Outcome State Fault Refusal :=
  .next (match s.colls.find? (fun x => x.id == id) with
    | none => s
    | some x =>
      if !(collReady s x) then s
      else
        match collVerdict s x, x.brought with
        | some d, _ => collFault s x d.1 d.2
        | none, b :: _ => if x.matched then goOnColl s x b else beginReads s x
        | none, [] => s)

/-- COLLECTIVE_TIMEOUT (R329): a member has not issued in time. -/
def execCollectiveTimeout (id : Nat) (s : State) : Host.Outcome State Fault Refusal :=
  .next (match s.colls.find? (fun x => x.id == id) with
    | none => s
    | some x =>
      if x.matched || x.brought.length = commNm1 s x.part x.comm + 1 || timeNs s < collDeadline s x.part x.comm x.first + collGrace then s
      else if x.op.isSome then faultColl s x 0x63 3 else s)

/-- Whether a collective is complete on this member (R334): its destination is written; the reads of its source are its own,
for each member takes what this one sends. -/
def collDone (x : Coll) : Bool := x.op.isSome && x.written && x.read

/-- COLLECTIVE_COMPLETE (R334). -/
def execCollectiveComplete (id : Nat) (s : State) : Host.Outcome State Fault Refusal :=
  .next (match s.colls.find? (fun x => x.id == id) with
    | none => s
    | some x =>
      if !(collDone x) then s
      else
        let s1 := { s with colls := s.colls.filter (fun y => y.id != id) }
        match x.op.bind (flightAt? s1) with
        | none => s1
        | some f => freeXfer (completeFlight s1 f) (flightCore s1 f))

/-! ### Frames (R320, R324) -/

/-- A request that is performed nowhere (R321, R324): the instruction raises the peer-unreachable fault with the detail that
the request carries (R336), or the command ends. -/
def loseOne (d : Nat) (s : State) (r : Req) : State :=
  let s1 := delReq s r.id
  match r.src with
  | .core op _ =>
    (match flightAt? s1 op with
      | none => s1
      | some f =>
        let lanes := match r.ask with
          | .load ps => maskOf (ps.map (·.1))
          | .atomic _ _ _ l _ _ _ => maskOf [l]
          | _ => f.sel
        let rest := f.reqs.filter (· != r.id)
        let s2 := { s1 with reqs := s1.reqs.filter (fun x => !(rest.contains x.id)) }
        flightFault (abandonFlight s2 f) f 0x63 d lanes r.va)
  | .engine c _ =>
    (match cmdAt? s1 c with
      | none => s1
      | some c =>
        let s2 := if isLinkEng c.eng then freeCmd (subPend s1 c (cmdPend c)) c else endCmds s1 c.uid c.eng [c]
        match (groupAt? s2 c.uid).bind firstSplit with
        | none => s2
        | some sp => raiseFault s2 c.uid (mkEntry 0x63 d c.sel r.va c.pc sp.place sp.stamp c.id c.pc))
  | _ => s1

/-- A lost request, and those combined into it (R172). -/
def lostReq (s : State) (r : Req) : State :=
  let d := if r.result = 2 then 2 else 1
  (s.reqs.filter (fun x => x.phase == .forward && x.renew == some r.id && x.home != 1000)).foldl (loseOne d) (loseOne d s r)

/-- What a peer's request asks of a line (R320). -/
def actAsk (a : MemAct) : Option (Nat × Ask) :=
  match a with
  | .load p n => some (p / 128, .load [(0, 0, p % 128, n)])
  | .store bs => bs.head?.map (fun b => (b.1 / 128, .store (bs.map (fun p => (p.1 % 128, p.2)))))
  | .rmw op t w p c cmp _ => some (p / 128, .atomic op t w 0 (p % 128) c cmp)
  | .reduce op t w ws => ws.head?.map (fun q => (q.1 / 128, .reduce op t w (ws.map (fun p => (p.1 % 128, p.2)))))
  | .hdist p => some (p / 128, .hdist false)
  | .prefetch p => some (p / 128, .prefetch)
  | .mark p => some (p / 128, .poison)
  | .flush p => some (p / 128, .store [])

/-- A peer's request enters its home front on port 54, stamped here (R320, R282); one that has been taken before, by a link that
has gone down since, is not taken again (R324). -/
def peerReq (s : State) (module token part ctx pol block : Nat) (a : MemAct) : State :=
  match actAsk a with
  | none => s
  | some (line, ask) =>
    if s.peerSeen.contains (module, token) then s
    -- a partition that has ended performs nothing (R336)
    else if !(partAt s part).valid then sendTo s module 0 (.refused token 2) else
    let (id, s1) := newId s
    let arm := homeArm s part (128 * line)
    let r : Req := { blankReq id (.link module token) ask (s.module * 2 ^ 41 + line) with
      pol := pol, part := part, ctx := ctx, arm := arm, home := arm, sector := armSector arm, block := block
      copy := asksLoad ask && (pol == 0 || pol == 2), port := 54, stamp := armClk s arm, due := .clk (armDie arm) (armClk s arm) }
    { s1 with reqs := s1.reqs ++ [r], peerSeen := s1.peerSeen ++ [(module, token)] }

/-- The reply to a peer's request leaves (R320), by the link that the other replies of its block have taken (R322). -/
def peerReply (s : State) (r : Req) : State :=
  match r.src with
  | .link m token =>
    sendTo (delReq s r.id) m r.block (.reply token r.data r.result r.tag r.ct r.lease (armNumber s r.home) r.poison)
  | _ => s

/-- Take the words of a time sample (R371): the module slews towards the lowest-numbered module that its routes reach. -/
def takeSample (s : State) (module time : Nat) : State :=
  let lowest := (List.range 256).find? (fun m => m == s.module || (s.routes.getD m 0).getLsbD 16)
  if lowest != some module || module = s.module then s
  else
    let slew : Int := if timeNs s < time then 100 else if time < timeNs s then -100 else 0
    { s with slew := slew }

/-- TIME_SAMPLE (R371). -/
def execTimeSample (module time : Nat) (s : State) : Host.Outcome State Fault Refusal := .next (takeSample s module time)

/-- Send a frame on by another link of its route, or as what it is: a request that no route takes on is performed nowhere, and
its module is told (R321, R324). -/
def moveFrame (s : State) (dest block : Nat) (b : FrameBody) : State :=
  match blockLink s dest block with
  | some l =>
    let s1 := sendFrame s l dest block b
    (match b with
      | .request m token _ _ _ _ => if m = s.module then updReq s1 token (fun r => { r with via := l + 1 }) else s1
      | _ => s1)
  | none =>
    match b with
    | .request m token _ _ _ _ => if m = s.module then updReq s token (loseReq 1) else sendTo s m 0 (.refused token 1)
    | .collIssue part comm k rank _ _ _ _ _ | .collData part comm k rank _ _ _ =>
      (match s.colls.find? (fun x => x.part == part && x.comm == comm && x.k == k && x.op.isSome) with
        | some x => if rank = commRank s part comm then faultColl s x 0x63 1 else s
        | none => s)
    | _ => s

/-- The reply to a request of this module (R320): a logged write's bit is set before it is acknowledged (R356), and a prefetch is
over. -/
def takeReply (s : State) (id : Nat) (u : Req → Req) : State :=
  match reqAt? s id with
  | none => s
  | some r =>
    if r.phase != .forward then s
    else if r.ask == .prefetch then delReq s id
    else
      let s1 := updReq s id u
      if asksWrite r.ask then logCombined s1 r else s1

/-- Take an accepted frame (R320, R329, R371); one for another module goes on by its route (R321). -/
def takeFrame (s : State) (f : LinkFrame) : State :=
  let b := restoreBody f.body (f.wire.map wireRestore)
  if f.dest != s.module then moveFrame s f.dest f.block b
  else
    match b with
    | .request m token part ctx pol a => peerReq s m token part ctx pol f.block a
    | .reply id data old tag ct lease arm poison =>
      takeReply s id (fun r => { r with
        data := data, result := old, tag := tag, ct := ct, lease := lease, home := 1000 + arm, poison := poison,
        phase := .reply, due := .ns 0, copy := r.copy && lease.isSome })
    | .refused id d => updReq s id (fun r => if r.phase != .forward then r else loseReq d r)
    | .collIssue part comm k rank time opc ty op shape => noteBrought s part comm k ⟨rank, opc, ty, op, shape, time⟩
    | .collData part comm k rank phase off bytes => noteData s part comm k rank phase off bytes
    | .peerGone part comm =>
      (s.colls.filter (fun x => x.part == part && x.comm == comm && x.op.isSome)).foldl (fun st x => faultColl st x 0x63 2) s
    | .sample m t => takeSample s m t
    | .again _ => s

/-- The frames that a peer has accepted need not be sent again (R324). -/
def acceptedUpTo (n : Nat) (l : LinkSt) : LinkSt :=
  if l.sent.any (fun q => decide (q.seq < n)) then
    { l with sent := l.sent.filter (fun q => decide (n ≤ q.seq)), resends := 0 }
  else l

/-- The frame by which a link asks for what it has not accepted (R324). -/
def againFrame (module : Nat) (l : LinkSt) : LinkFrame := ⟨0, module, l.rx, true, .again l.rx, [], 0⟩

/-- Frames from a number on are sent again, before those that wait, and so is what the link itself has asked for and not been sent,
as its own asking may have been lost (R324). -/
def sendAgain (module n : Nat) (l : LinkSt) : LinkSt :=
  { l with
    resends := l.resends + 1
    out := l.sent.filter (fun q => decide (n ≤ q.seq)) ++ (if l.asked then [againFrame module l] else []) ++ l.out
    sent := l.sent.filter (fun q => decide (q.seq < n)) }

/-- The receiver of a frame whose CRC failed asks for it again (R324). -/
def askAgain (s : State) (link : Nat) : State :=
  { s with links := s.links.modify link (fun l =>
      { l with retries := l.retries + 1, out := againFrame s.module l :: l.out, asked := true }) }

/-- LINK_FRAME_RECEIVE (R324): a frame whose CRC fails is requested again, and after 16 failed retries the link goes
down; a number already accepted is dropped, and so is one ahead of its turn, which comes again. -/
def execLinkFrameReceive (link : Nat) (f : LinkFrame) (s : State) : Host.Outcome State Fault Refusal :=
  .next (
    let l := s.links.getD link LinkSt.none_
    let down (st : State) : State := addDue st (.ns (timeNs s)) 3 (.linkDown link)
    if !l.up then s
    else if !f.crcOk then (if l.retries + 1 ≤ 16 then askAgain s link else down (askAgain s link))
    else
      let s1 := { s with links := s.links.modify link (acceptedUpTo f.acc) }
      match f.body with
      | .again n =>
        let s2 := { s1 with links := s1.links.modify link (sendAgain s.module n) }
        if l.resends + 1 ≤ 16 then s2 else down s2
      | _ =>
        if f.seq != l.rx then s1
        else takeFrame { s1 with links := s1.links.modify link (fun l => { l with rx := l.rx + 1, retries := 0, asked := false }) } f)

/-- Take a link down (R324). -/
def linkDown (s : State) (link : Nat) : State :=
  let l := s.links.getD link LinkSt.none_
  if !l.up then s
  else
    let s1 := { s with links := s.links.modify link (fun l => { l with up := false, out := [], sent := [], flits := 0 }) }
    let s2 := (l.sent ++ l.out).foldl (fun st q => moveFrame st q.dest q.block q.body) (boxAppend s1 0x40 (link / 4) link 0 link)
    -- a request that no route reaches any more has no answer to wait for (R324, R336)
    { s2 with reqs := s2.reqs.map (fun r =>
        if r.phase == .forward && r.home == 1000 && (routeLinks s2 (lineModule r.line)).isEmpty then loseReq 1 r else r) }

/-- LINK_DOWN (R324). -/
def execLinkDown (link : Nat) (s : State) : Host.Outcome State Fault Refusal := .next (linkDown s link)

/-- TIME_AGREEMENT_LOSS (R371): the links to the domain go down. -/
def execTimeAgreementLoss (s : State) : Host.Outcome State Fault Refusal := .next ((List.range 16).foldl linkDown s)

/-- Whether a route table is valid (R321). -/
def routesValid (module : Nat) (t : List (BitVec 32)) : Bool :=
  decide (t.length = 256) && (List.range 256).all (fun m =>
    let e := (t.getD m 0).toNat
    e / 2 ^ 16 % 2 == 0 || (if m = module then e / 2 ^ 18 % 4 == 0 && e % 2 ^ 16 == 0 else e / 2 ^ 18 % 4 != 0 && e % 2 ^ 16 != 0))

/-- The fields of a route table entry; its reserved bits read as 0 (R6, R321). -/
def routeMask : BitVec 32 := 0x000DFFFF

/-- ROUTE_TABLE_WRITE (R321): an invalid table is not installed, and the status of the control processor says so. -/
def execRouteTableWrite (t : List (BitVec 32)) (s : State) : Host.Outcome State Fault Refusal :=
  .next (if routesValid s.module t then { s with routes := t.map (· &&& routeMask), cpStatus := 0 } else { s with cpStatus := 1 })

/-- Frames leave a link while their flits fit; each but a request to send again is kept until it is known to be accepted
(R324). -/
def leaveLink : Nat → Nat → LinkSt → LinkSt
  | 0, n, l => { l with flits := n }
  | k + 1, n, l =>
    match l.out with
    | [] => { l with flits := 0 }
    | q :: rest =>
      if n < frameFlits q then { l with flits := n }
      else
        let kept := match q.body with
          | .again _ => l.sent
          | _ => l.sent ++ [q]
        leaveLink k (n - frameFlits q) { l with out := rest, sent := kept }

/-- One tick of a link: 25 flits leave per ns, ten in the 0.4 ns of a tick (R322). -/
def linkTick (l : LinkSt) : LinkSt := if l.out.isEmpty then { l with flits := 0 } else leaveLink 10 (l.flits + 10) l

/-- The period of the time samples, a number of the model's own (R371, log 83). -/
def samplePeriod : Nat := 65536

/-- The module sends a time sample to every module that its routes reach (R371). -/
def sampleTick (before : Nat) (s : State) : State :=
  if before / samplePeriod = s.ns / samplePeriod then s
  else
    ((List.range 256).filter (fun m => m != s.module && !((routeLinks s m).isEmpty))).foldl (fun st m =>
      sendTo st m 0 (.sample s.module (timeNs s))) s

/-! ### The host die and PCIe (R326, R327) -/

/-- The lines that an access of the host or a PCIe device touches, with what it asks of each. -/
def actLines (a : MemAct) : List (Nat × Ask) :=
  match a with
  | .load p n =>
    (List.range ((p + n + 127) / 128 - p / 128)).map (fun i =>
      let lo := max p (128 * (p / 128 + i))
      let hi := min (p + n) (128 * (p / 128 + i + 1))
      (p / 128 + i, .load [(i, 0, lo % 128, hi - lo)]))
  | .store bs =>
    ((bs.map (fun b => b.1 / 128)).dedup).map (fun l =>
      (l, .store ((bs.filter (fun b => b.1 / 128 == l)).map (fun b => (b.1 % 128, b.2)))))
  | _ => (actAsk a).toList

/-- A request of the host die on port 55 of a home front (R326). -/
def hostReq (s : State) (src : Src) (part pol line : Nat) (ask : Ask) : State :=
  let (id, s1) := newId s
  let arm := homeArm s part (128 * line)
  let r : Req := { blankReq id src ask (s.module * 2 ^ 41 + line) with
    pol := pol, part := part, sector := armSector arm }
  let near := match src with | .host _ => asksLoad ask && (pol == 0 || pol == 2) | _ => false
  sendReq s1 { r with copy := near } 0

/-- Whether the host die holds a usable copy of a line (R326, R177: G = 4 ns). -/
def hostHolds (s : State) (line : Nat) : Bool :=
  match mfind (s.module * 2 ^ 41 + line) s.hostCopies with
  | none => false
  | some l => l.valid && (match l.expiry with | some e => decide (timeNs s + 4 < e) | none => false)

/-- Whether a host core has a write to a line that has not been acknowledged, so that its loads go to the home (R173, R326). -/
def hostWrites (s : State) (core line : Nat) : Bool :=
  s.reqs.any (fun r => r.src == .host core && asksWrite r.ask && localLine r.line == line && r.phase != .done)

/-- HOST_ACCESS (R326): a load that a copy in the caches serves goes nowhere; behind a barrier of its core an access
waits. -/
def execHostAccess (a : HostAcc) (s : State) : Host.Outcome State Fault Refusal :=
  .next (if s.hostWaits.contains a.core then addDue s (.ns (timeNs s + 1)) 3 (.hostAccess a)
    else
      (actLines a.act).foldl (fun st p =>
        if asksLoad p.2 && (a.pol == 0 || a.pol == 2) && hostHolds st p.1 && !(hostWrites st a.core p.1) then st
        else hostReq st (.host a.core) a.part a.pol p.1 p.2) s)

/-- Whether the earlier accesses of a host core are complete and visible at device scope (R169, R326). -/
def hostQuiet (s : State) (core : Nat) : Bool :=
  s.reqs.all (fun r => r.src != .host core || (asksWrite r.ask && ackedAt s r 6)) && decide (mget 0 core s.hostHors < timeNs s)

/-- HOST_BARRIER (R326): `fence.acqrel.device` of a host core, whose later accesses wait for it. -/
def execHostBarrier (core : Nat) (s : State) : Host.Outcome State Fault Refusal :=
  .next (if hostQuiet s core then { s with hostWaits := s.hostWaits.filter (· != core) }
    else addDue { s with hostWaits := (s.hostWaits ++ [core]).dedup } (.ns (timeNs s + 1)) 3 (.hostBarrier core))

/-- Queue a device's write, line by line (R327). -/
def queuePcie (s : State) (requester addr : Nat) (bytes : List Byte) (msi : Bool) : State :=
  let xs := bytesAt addr bytes
  { s with pcieq := s.pcieq ++ ((xs.map (fun b => b.1 / 128)).dedup).map (fun l =>
      let mine := xs.filter (fun b => b.1 / 128 == l)
      ⟨requester, (mine.head?.map (·.1)).getD addr, mine.map (·.2), msi⟩) }

/-- PCIE_WRITE and PCIE_MSI (R327). -/
def execPcieWrite (requester addr : Nat) (bytes : List Byte) (s : State) : Host.Outcome State Fault Refusal :=
  .next (queuePcie s requester addr bytes false)
def execPcieMsi (requester addr : Nat) (bytes : List Byte) (s : State) : Host.Outcome State Fault Refusal :=
  .next (queuePcie s requester addr bytes true)

/-- The partition whose colour homes a module-local address: the owner of its block (R347). -/
def blockPart (s : State) (pa : Nat) : Nat := mget 0 (pa / 2 ^ 16) s.owners % 16

/-- PCIE_READ (R327). -/
def execPcieRead (requester addr len : Nat) (s : State) : Host.Outcome State Fault Refusal :=
  .next ((actLines (.load addr len)).foldl (fun st p => hostReq st (.pcie requester) (blockPart st (128 * p.1)) 1 p.1 p.2) s)

/-- Whether the first queued write of a requester may be sent: its earlier writes performed, and for an interrupt
acknowledged at device scope (R327). -/
def pcieReady (s : State) (q : PcieOp) : Bool :=
  s.reqs.all (fun r => r.src != .pcie q.requester || !(asksWrite r.ask) ||
    (if q.msi then ackedAt s r 6 else !(r.phase == .travel || r.phase == .queued || r.phase == .forward)))

/-- Send the first write of each requester that may go (R327). -/
def pcieTick (s : State) : State :=
  ((s.pcieq.map (·.requester)).dedup).foldl (fun st n =>
    match st.pcieq.find? (fun q => q.requester == n) with
    | none => st
    | some q =>
      if !(pcieReady st q) then st
      else
        let line := q.addr / 128
        let s1 := { st with pcieq := st.pcieq.erase q, hostIrq := if q.msi then st.hostIrq + 1 else st.hostIrq }
        hostReq s1 (.pcie n) (blockPart st q.addr) 1 line (.store (bytesAt (q.addr % 128) q.bytes))) s

/-- A reply of the host die or of a PCIe device ends its request; a host core's horizon takes the completion time (R176). -/
def hostReply (s : State) (r : Req) : State :=
  let s1 := delReq s r.id
  match r.src with
  | .host core => { s1 with hostHors := mset 0 core (max r.ct (mget 0 core s1.hostHors)) s1.hostHors }
  | _ => s1

end Sys2Proof.Machine
end

