-- ==== Sys2Proof/Machine/Replies.lean ====
section
/-!
DEFINITION. What comes back to the cores and engines: load and atomic data (R74, R159, R170), acknowledgements (R176,
R186) and the ends of page-table walks (R190, R353).
-/
namespace Sys2Proof.Machine

/-! ### Loads and atomics -/

/-- Write one lane's loaded bytes if the destination's owner still matches (R74, R159). -/
def deliverLane (f : Flight) (x : Nat) (lane : Nat) (g : Group) : Group :=
  (loadWords f.op f.f lane x).foldl (fun g w => ownWrite g f.id w.1 w.2.1 w.2.2) g

/-- A flight whose replies have all come completes; lanes whose data carried a poison mark raise the data-error fault
(R159, R190). -/
def finishReplies (s : State) (f : Flight) : State :=
  let s1 := completeFlight s f
  match f.lanes.filter (fun a => f.failD.contains a.lane) with
  | [] => s1
  | a :: rest => flightFault s1 f 0x0A 0 (maskOf ((a :: rest).map (·.lane))) a.va

/-- The group keeps the latest completion time that an access returned (R176). -/
def noteHorizon (s : State) (u ct : Nat) : State := updGroup s u (fun g => { g with horizon := max g.horizon ct })

/-- Data of a request of an instruction reach its core (R74, R159, R163, R170); a reply to an earlier generation of the slot
is dropped (R201). -/
def coreReply (s : State) (r : Req) : State :=
  match flightAt? s r.op with
  | none => if asksWrite r.ask then updReq s r.id (fun x => { x with acked := true }) else delReq s r.id
  | some f =>
    let lanes : List (Nat × Nat) := match r.ask with
      | .load ps => ps.map (fun p => (p.1, dataNat r.data p.2.2.1 p.2.2.2))
      | .atomic _ _ _ l _ _ _ => [(l, r.result.toNat)]
      | _ => []
    let f1 := { f with reqs := f.reqs.filter (· != r.id), failD := if r.poison then f.failD ++ lanes.map (·.1) else f.failD }
    let s1 := refreshCopy (if asksWrite r.ask then updReq s r.id (fun x => { x with acked := true }) else delReq s r.id) r
    let s2 := updFlight s1 f.id (fun _ => f1)
    if ((groupAt? s f.uid).map (·.gen)).getD f.gen != f.gen then (if f1.reqs.isEmpty then completeFlight s2 f1 else s2)
    else
      let s3 := noteHorizon s2 f.uid r.ct
      let s4 := if r.poison then s3
        else updGroup s3 f.uid (fun g => lanes.foldl (fun g p => deliverLane f p.2 p.1 g) g)
      if f1.reqs.isEmpty then finishReplies s4 f1 else s4

/-- Whether a request's data go back to its source by LOAD_REPLY. -/
def replyHasData (r : Req) : Bool :=
  match r.ask with
  | .load _ | .prefetch | .visit _ | .lock _ | .hdist _ | .hpin | .hunpin | .hpre _ | .hdemote _ | .hocc => true
  | .atomic _ _ _ _ _ _ _ => !r.acked
  | _ => false

/-- Whether a reply may be taken now; a copy that it makes is placed first (R288). -/
def loadReplyReady (s : State) (r : Req) : Bool :=
  r.phase == .reply && whenDue s r.due &&
  (r.lost || (replyHasData r && !(atPromiseUnit r) &&
    (match r.src with
      | .link _ _ => !(asksWrite r.ask)
      | .engine _ _ => !r.copy && copyReplyReady s r
      | .walker _ => false
      | _ => !r.copy && !(copyTravels s r))))

/-- LOAD_REPLY (R74): data reach the core, engine, promise unit, link or host that asked. -/
def execLoadReply (id : Nat) (s : State) : Host.Outcome State Fault Refusal :=
  .next (match reqAt? s id with
    | none => s
    | some r =>
      if !(loadReplyReady s r) then s
      else if r.lost then lostReq s r
      else
        match r.src with
        | .core _ _ => if asksSpiral r.ask then spiralReply s r else coreReply s r
        | .engine _ _ => copyReply (refreshCopy s r) r
        | .prom _ _ => promReply s r
        | .link _ _ => peerReply s r
        | .host _ | .pcie _ => if asksWrite r.ask then updReq s id (fun x => { x with acked := true }) else hostReply s r
        | _ => delReq s id)

/-! ### Acknowledgements -/

/-- The scope at which the source of a write waits for its acknowledgement. -/
def ackScope (s : State) (r : Req) : Nat :=
  match r.src with
  | .core op _ | .prom op _ => ((flightAt? s op).map (fun f => opxScope f.f)).getD 0
  | .engine _ _ => r.scope
  | _ => 1

/-- Whether the home front has acknowledged a write and its words have reached every write-update copy (R176), the
dirty bitmap's OR included (R356). -/
def homeAcked (s : State) (r : Req) : Bool :=
  r.phase == .reply && whenDue s r.due && r.updates == 0 && asksWrite r.ask && !r.lost && !(replyHasData r) && !(atPromiseUnit r)

/-- Whether an operation of a group is complete with the acknowledgement of its writes at its scope. -/
def opAcked (s : State) (f : Flight) : Bool :=
  f.sent && !f.reqs.isEmpty && (match f.work with | .store | .reduce | .promise => true | _ => false) &&
  f.reqs.all (fun id => match reqAt? s id with
    | none => true
    | some r => asksWrite r.ask && ackedAt s r (opxScope f.f) && (match r.ask with | .make _ => reqWrites r | _ => true))

/-- Whether STORE_ACK has something to do for a request. -/
def storeAckReady (s : State) (r : Req) : Bool :=
  homeAcked s r ||
  (match r.src with
    | .core op _ | .prom op _ => (match flightAt? s op with
      | some f => f.reqs.getLast? == some r.id && opAcked s f
      | none => false)
    | .engine _ _ => r.phase == .done && !r.acked && asksWrite r.ask && ackedAt s r r.scope
    | _ => false)

/-- The acknowledgement reaches the storing sector, whose copy applies the words first (R176), and every group whose lanes
a combined request carries (R186). -/
def takeAck (s : State) (r : Req) : State :=
  let s1 := refreshCopy s r
  let done (st : State) (x : Req) : State :=
    noteHorizon (updReq st x.id (fun y => { y with phase := .done, ct := r.ct, home := r.home, arm := r.arm })) x.uid r.ct
  let shadows := s1.reqs.filter (fun x => x.phase == .forward && x.renew == some r.id)
  let s2 := shadows.foldl done (done s1 r)
  match r.src with
  | .engine c _ =>
    (match cmdAt? s2 c with
      | some c => if c.op = .lget then countDown s2 c (askBytes r.ask) else s2
      | none => s2)
  | .link _ _ => peerReply s2 r
  | .host core => { s2 with hostHors := mset 0 core (max r.ct (mget 0 core s2.hostHors)) s2.hostHors }
  | _ => s2

/-- STORE_ACK (R176): a write is acknowledged by its home, or at its scope, at which its instruction completes. -/
def execStoreAck (id : Nat) (s : State) : Host.Outcome State Fault Refusal :=
  .next (match reqAt? s id with
    | none => s
    | some r =>
      if homeAcked s r then takeAck s r
      else if !(storeAckReady s r) then s
      else
        match r.src with
        | .core op _ | .prom op _ => (match flightAt? s op with | some f => completeFlight s f | none => s)
        | .engine _ _ => copyAck s r
        | _ => s)

/-- Requests that have nothing left to tell: acknowledged at every scope, with no operation or command waiting for them. -/
def sweepReqs (s : State) : State :=
  { s with reqs := s.reqs.filter (fun r =>
      !(r.phase == .done && decide (r.ct < timeNs s) && s.flights.all (fun f => !(f.reqs.contains r.id)) &&
        s.cmds.all (fun c => !(c.writes.contains r.id)))) }

/-! ### Translation -/

/-- An instruction whose translation has moved on (R190, R294, R101, R315, R331, R137). -/
def advanceFlight (s : State) (op : Nat) : State :=
  match flightAt? s op with
  | none => s
  | some f =>
    match f.work with
    | .spiral => advanceWith finishSpiral s op
    | .migrate _ => advanceWith finishMigrate s op
    | .promise => if f.sent then resumeVisit s f else advanceWith finishPromise s op
    | .link => advanceWith finishLink s op
    | .launch => advanceWith (fun st f => updFlight st f.id (fun x => { x with sent := true })) s op
    | _ => advanceWith finishTranslate s op

/-- Whether a walk's read has returned. -/
def walkReady (s : State) (w : Walk) : Bool :=
  match reqAt? s w.req with
  | some r => r.phase == .reply && whenDue s r.due
  | none => false

/-- The walk has ended for those that wait (R190, R274). -/
def endWalk (s : State) (w : Walk) (cause : Option Nat) : State :=
  let s1 := { s with walks := s.walks.filter (fun x => x.id != w.id) }
  let s2 := match cause with
    | none => s1
    | some k =>
      let s2 := w.ops.foldl (fun st op => updFlight st op (fun f =>
        { f with failT := f.failT ++ ((f.lanes.filter (fun a => a.va / 2 ^ 16 == w.va / 2 ^ 16)).map (fun a => (a.lane, k))) })) s1
      w.cmds.foldl (fun st c => updCmd st c (fun c => { c with fails := c.fails ++ [(w.va / 2 ^ 16, k)] })) s2
  w.ops.foldl advanceFlight s2

/-- PAGE_TABLE_WALK_COMPLETE (R353): an entry has been read: the walk goes on to the next level or ends in a translation or
a cause. -/
def execPageTableWalkComplete (id : Nat) (s : State) : Host.Outcome State Fault Refusal :=
  .next (match s.walks.find? (fun w => w.id == id) with
    | none => s
    | some w =>
      match reqAt? s w.req with
      | none => s
      | some r =>
        if !(walkReady s w) then s
        else
          let s1 := delReq s r.id
          match walkEntry s w.part w.va w.level (dataNat r.data (walkAddr w.table w.va w.level % 128) 8) with
          | .fail k => endWalk s1 w (some k)
          | .leaf e => endWalk { s1 with tlb := s1.tlb ++ [e] } w none
          | .next t =>
            let (rid, s2) := newId s1
            let pa := walkAddr t w.va (w.level - 1)
            let q : Req := { blankReq rid (.walker id) (.load [(0, 0, pa % 128, 8)]) (s.module * 2 ^ 41 + pa / 128) with
              part := w.part, sector := armSector (homeArm s w.part pa) }
            sendReq { s2 with walks := listUpd (fun x => x.id == id) (fun x =>
              { x with level := w.level - 1, table := t, req := rid }) s2.walks } q 0)

end Sys2Proof.Machine
end

