-- ==== Sys2Proof/Machine/Faults.lean ====
section
/-!
DEFINITION. What follows a stop (R192 to R194, R274, R355): trap records and their queues, page requests and their answers,
resume actions; tiles that leave an arm with their errors (R287, R292), home changes (R188, R291, R312), occupancy
entries (R286).
-/
namespace Sys2Proof.Machine

/-! ### Trap records (R192, R193, R340) -/

/-- The 32 bytes of an entry. -/
def entryBytes (e : TrapEntry) : List Byte :=
  leBytes 32 (e.addr * 2 ^ 192 + e.lanes.toNat * 2 ^ 160 + e.detail % 2 ^ 16 * 2 ^ 144 + e.pc % 2 ^ 19 * 2 ^ 125 +
    e.split % 4 * 2 ^ 123 + e.code * 2 ^ 115)

/-- The 320 bytes of a record. -/
def recordBytes (s : State) (g : Group) (r : TrapRec) : List Byte :=
  let resume := (r.entries.head?.map (·.resume)).getD 0
  let b (x : Bool) (n : Nat) : Nat := if x then 2 ^ n else 0
  leBytes 64 (r.time * 2 ^ 448 + groupTeamNum s g * 2 ^ 384 + r.place.toNat * 2 ^ 352 + r.rgncnt * 2 ^ 320 +
    r.rgnpc * 2 ^ 301 + resume % 2 ^ 19 * 2 ^ 282 + g.gen.toNat * 2 ^ 266 + groupCtx s g * 2 ^ 224 +
    r.entries.length * 2 ^ 8 + b r.ovf 7 + b r.nr 6 + b r.saved 5 + recKind r) ++
  (r.entries.map entryBytes).flatten ++ List.replicate (32 * (8 - r.entries.length)) 0

/-- The error record of a line that a leaving tile could not write back (R292). -/
def errorBytes (ctx pa time : Nat) : List Byte :=
  leBytes 64 (time * 2 ^ 448 + ctx * 2 ^ 224 + 1) ++ leBytes 32 (pa * 2 ^ 192 + 0x51 * 2 ^ 115) ++ List.replicate 224 0

/-- Whether a device's trap queue has room (R340). -/
def queueRoom (b : VdSt) : Bool := b.tqn != 0 && (b.tqtail + 1) % b.tqn != b.tqhead

/-- Append a record to the trap queue of a device: a store, then TQTAIL advances, and the host die is interrupted (R193,
R340). -/
def appendRecord (s : State) (v : Nat) (bs : List Byte) : State :=
  let b := vdAt s v
  let s1 := updVd (directWrite s b.part (b.tqbase + 320 * b.tqtail) bs) v (fun b => { b with tqtail := (b.tqtail + 1) % b.tqn })
  { s1 with hostIrq := s1.hostIrq + 1 }

/-- Records of translation and permission faults go to the page-request queue (R193). -/
def isPageRec (r : TrapRec) : Bool := (r.entries.head?.map (fun e => e.code == 0x08 || e.code == 0x09)).getD false

/-- Whether a record of the same context stands before a group's: earlier TIME, or lower logical place (R193). -/
def recordFirst (s : State) (g : Group) (r : TrapRec) : Bool :=
  s.groups.all (fun x =>
    match x.stop with
    | none => true
    | some y => x.uid == g.uid || y.delivered || isPageRec y || groupCtx s x != groupCtx s g ||
        decide (r.time < y.time) || (r.time == y.time && decide (r.place.toNat ≤ y.place.toNat)))

/-- Whether a stopped group's record can be delivered now: the clk of the stop is over and its queue has room. -/
def recordReady (s : State) (g : Group) : Bool :=
  match g.stop with
  | none => false
  | some r =>
    !r.delivered && decide (r.clk < coreClk s g.core) &&
    (isPageRec r || (recordFirst s g r && (match groupVd? s g with | some v => queueRoom (vdAt s v) | none => false)))

/-- A stopped group's record joins its context's trap queue, or the records held for the page-request queue (R193). -/
def queueRecord (s : State) (u : Nat) (g : Group) (r : TrapRec) : State :=
  let s1 := updGroup s u (fun g => { g with stop := some { r with delivered := true } })
  if isPageRec r then
    let e := r.entries.headD (mkEntry 0 0 0 0 0 0 0 0 0)
    { s1 with pageHeld := s1.pageHeld ++ [⟨e.addr, groupCtx s g, u, groupFe s g, false, e.code, e.detail, false, false⟩] }
  else
    match groupVd? s g with
    | none => s
    | some v => appendRecord s1 v (recordBytes s g r)

/-- TRAP_RECORD_APPEND (R193): a record joins the context's trap queue, or the records held for the page-request queue; the
number 0 stands for the error records of R292. -/
def execTrapRecordAppend (u : Nat) (s : State) : Host.Outcome State Fault Refusal :=
  .next (match groupAt? s u with
    | none =>
      (match s.errHeld.find? (fun e => match vdOfCtx? s e.1 with | some v => queueRoom (vdAt s v) | none => false) with
        | none => s
        | some e =>
          match vdOfCtx? s e.1 with
          | none => s
          | some v => appendRecord { s with errHeld := s.errHeld.erase e } v (errorBytes e.1 (128 * e.2.1) e.2.2))
    | some g =>
      if !(recordReady s g) then s
      else
        match g.stop with
        | none => s
        | some r =>
          queueRecord s u g r)

/-! ### The page-request queue (R355) -/

/-- Whether a record of a front end may enter, and whether by a reserved entry. -/
def pageRoom (s : State) (fe : Nat) : Option Bool :=
  if (s.pageReqs.filter (fun p => p.fe == fe && p.reserved)).length < 32 then some true
  else if (s.pageReqs.filter (fun p => !p.reserved)).length < 3584 then some false
  else none

/-- PAGE_REQUEST_ENTER: the oldest held record of a front end enters the queue; the host die is interrupted when the queue
becomes non-empty (R355). -/
def execPageRequestEnter (fe : Nat) (s : State) : Host.Outcome State Fault Refusal :=
  .next (match s.pageHeld.find? (fun p => p.fe == fe), pageRoom s fe with
    | some p, some res =>
      let fresh := s.pageReqs.all (·.taken)
      { s with pageHeld := s.pageHeld.erase p, pageReqs := s.pageReqs ++ [{ p with reserved := res }],
               hostIrq := if fresh then s.hostIrq + 1 else s.hostIrq }
    | _, _ => s)

/-- PAGE_REQUEST_TAKE: a read of the take register returns the oldest record of the next front end that has one, or zero
(R355). An entry is freed by its answer. -/
def execPageRequestTake (s : State) : Host.Outcome State Fault Refusal :=
  .next (
    let order := (List.range 16).map (fun i => (s.pageLast + 1 + i) % 16)
    match order.findSome? (fun f => s.pageReqs.find? (fun p => p.fe == f && !p.taken)) with
    | none => { s with takeReg := none }
    | some p =>
      { s with takeReg := some p, pageLast := p.fe,
               pageReqs := listUpd (fun x => x.token == p.token && x.engine == p.engine) (fun x => { x with taken := true }) s.pageReqs })

/-- Free the entry that an accepted answer names (R355). -/
def freePageReq (s : State) (token : Nat) (engine : Bool) : State :=
  let keep (p : PageReq) : Bool := !(p.token == token && p.engine == engine)
  { s with pageReqs := s.pageReqs.filter keep, pageHeld := s.pageHeld.filter keep }

/-- PAGE_REQUEST_RETRY (R274): the parked command goes on from the faulting block. -/
def execPageRequestRetry (token : Nat) (s : State) : Host.Outcome State Fault Refusal :=
  .next (match cmdAt? s token with
    | none => freePageReq s token true
    | some c =>
      if c.phase != .parked then s
      else freePageReq (updCmd s token (fun c => { c with phase := .started, fails := [] })) token true)

/-- PAGE_REQUEST_ABORT (R274). -/
def execPageRequestAbort (token : Nat) (s : State) : Host.Outcome State Fault Refusal :=
  .next (match cmdAt? s token with
    | none => freePageReq s token true
    | some c =>
      if c.phase != .parked then s
      else
        let va := ((s.pageReqs ++ s.pageHeld).find? (fun p => p.token == token && p.engine)).elim 0 (·.va)
        freePageReq (abortCmd s c 1 va) token true)

/-! ### Resume actions (R194) -/

/-- A resume action for a group that is not stopped changes nothing; a refused one sets the status. -/
def withStop (s : State) (u : Nat) (f : Group → TrapRec → State) : State :=
  match groupAt? s u with
  | none => s
  | some g =>
    match g.stop with
    | none => s
    | some r => f g r

/-- RESUME_CONTINUE, action 0. -/
def execResumeContinue (u : Nat) (s : State) : Host.Outcome State Fault Refusal :=
  .next (withStop s u (fun _ r =>
    if recKind r = 1 then { s with cpStatus := 0x41 } else { resumeGroup (freePageReq s u false) u with cpStatus := 0 }))

/-- RESUME_RERUN, action 1 (R197). -/
def execResumeRerun (u : Nat) (s : State) : Host.Outcome State Fault Refusal :=
  .next (withStop s u (fun _ r =>
    if recKind r != 1 then { s with cpStatus := 0x41 }
    else if r.nr then { s with cpStatus := 0x42 }
    else { rerunGroup (flushPend (freePageReq s u false) u) u with cpStatus := 0 }))

/-- RESUME_INVALID, actions 4 to 15. -/
def execResumeInvalid (u _action : Nat) (s : State) : Host.Outcome State Fault Refusal :=
  .next (withStop s u (fun _ _ => { s with cpStatus := 0x40 }))

/-- Every lane of a group exits as by `exit` (R117); a `migrate` that still drains completes without a move, so that the
group stays in its team's barriers (R210). -/
def endLanes (s : State) (u : Nat) : State :=
  let s1 := match s.flights.find? (isMigrateOf u) with
    | some f => completeFlight s f
    | none => s
  updGroup s1 u (dropLanes 0xFFFFFFFF)

/-- RESUME_END_GROUP, action 2: every lane exits as by `exit` (R117, R210). -/
def execResumeEndGroup (u : Nat) (s : State) : Host.Outcome State Fault Refusal :=
  .next (withStop s u (fun _ _ => { resumeGroup (endLanes (freePageReq s u false) u) u with cpStatus := 0 }))

/-- Every lane of a group leaves at once, with its copy commands, its calls, the items it works on and its waits (R194 action
3, R208); a collective that it has issued goes on to its end, for the other members (R329), and the group ends with it. -/
def killGroup (s : State) (u : Nat) : State :=
  let s0 := match groupAt? s u with | some g => dropArrival s u g.core | none => s
  let s1 := freePageReq s0 u false
  let mine := s1.cmds.filter (fun c => c.uid == u && !(isColl c.op))
  let s2 := mine.foldl (fun st c => freeCmd (freePageReq (subPend st c (cmdPend c)) c.id true) c) s1
  let s3 := { s2 with flights := s2.flights.filter (fun f =>
    !(f.uid == u && (match f.work with | .callv _ _ _ | .sleep | .launchWait _ | .migrate _ => true | _ => false))) }
  updGroup s3 u (fun g =>
    { dropLanes 0xFFFFFFFF g with stop := none, sleep := none, sync := none, busy := none, aborts := [], items := [] })

/-- A save without some teams: those that it holds, or was to hold, with their groups and work. -/
def saveWithout (s : State) (ids : List Nat) (v : SaveSt) : SaveSt :=
  let us := ((v.groups ++ s.groups).filter (fun g => ids.contains g.team)).map (·.uid)
  { v with ids := v.ids.filter (fun t => !(ids.contains t)), teams := v.teams.filter (fun t => !(ids.contains t.id)),
           groups := v.groups.filter (fun g => !(ids.contains g.team)), flights := v.flights.filter (fun f => !(us.contains f.uid)),
           copies := v.copies.filter (fun c => !(us.contains c.uid)) }

/-- Every team of a launch ends, with the status for `launch.wait`; teams not yet placed are not placed; teams that a save holds
are gone from it, and those that a save in progress was to take end where they stand (R194, R208). -/
def killLaunch (s : State) (l status : Nat) : State :=
  let teams := (s.teams.filter (fun t => t.launch == l)).map (·.id)
  let s1 := (s.groups.filter (fun g => teams.contains g.team)).foldl (fun st g => killGroup st g.uid) s
  let out := ((s.saves.filter (·.held)).flatMap (·.teams)).filter (fun t => t.launch == l)
  let gone := ((out.filter (fun t => t.core != 1000)).map (·.id)).dedup
  let s2 := { s1 with
    cores := s1.cores.map (fun p => (p.1, { p.2 with queues := p.2.queues.filter (fun q => !(teams.contains q.team)) }))
    saves := s1.saves.map (fun v => if v.held || !v.done then saveWithout s1 (out.map (·.id) ++ teams) v else v) }
  updLaunch s2 l (fun x => { x with status := status, total := x.placed, live := x.live - gone.length })

/-- RESUME_END_LAUNCH, action 3. -/
def execResumeEndLaunch (u : Nat) (s : State) : Host.Outcome State Fault Refusal :=
  .next (withStop s u (fun g _ =>
    match teamAt? s g.team with
    | none => s
    | some t => { killLaunch s t.launch 0x24 with cpStatus := 0 }))

/-! ### Tiles that have left, and home changes -/

/-- Dirty lines of a leaving tile that hold an uncorrectable error: memory takes a poison mark, and a record goes to the
owner's queue or to the hypervisor's log (R292). -/
def leaveErrors (s : State) (t : Tile) : State :=
  let bad := (t.lines.filter (fun p => p.2.dirty && s.latent.contains (localLine p.1))).map (fun p => localLine p.1)
  bad.foldl (fun st l =>
    let s1 := poisonLine st l
    match vdOfCtx? st t.owner with
    | some _ => { s1 with errHeld := s1.errHeld ++ [(t.owner, l, timeNs st)] }
    | none => { s1 with hvLog := s1.hvLog ++ [(t.owner, 128 * l)] }) s

/-- A victim has left, and the tile that waited for its slot is inserted there in the same clk (R287). -/
def inherit (s : State) (arm : Nat) (t : Tile) (heir target owner : Nat) (copy : Bool) : State :=
  let s1 := updArm s arm (fun a => { endMotion (dropTile a t.tile) t.tile with removed := true })
  landed (putTile (unpark s1 arm t.tile) arm heir target owner copy t.slot) arm heir

/-- A tile has left: its slot closes up where it had one, and its parked requests and those that sent it away go on (R285). -/
def goneTile (s : State) (arm : Nat) (t : Tile) : State :=
  let s1 := updArm s arm (fun a => { endMotion (removeTile a t.tile) t.tile with removed := a.removed || inSlot t })
  unpark (answerRiders s1 arm t.tile) arm t.tile

/-- TILE_LEAVE_COMPLETE (R287): the tile has left, its horizons are folded into the arm's, and its parked requests are
performed. An arm removes one tile from its slot, and inserts one, a clk (R283). -/
def execTileLeaveComplete (arm tile : Nat) (s : State) : Host.Outcome State Fault Refusal :=
  .next (match motionOf? (armAt s arm) tile, tileAt? (armAt s arm) tile with
    | some (.leave _ heir), some t =>
      if inSlot t && ((armAt s arm).removed || (heir != 0 && (armAt s arm).inserted)) then
        afterClk s (armDie arm) 1 3 (.tileLeaveComplete arm tile)
      else
        let s1 := leaveErrors (foldHorizons s arm t) t
        match (if heir = 0 then none else motionOf? (armAt s arm) (heir - 1)) with
        | some (.fetch target owner copy) => inherit s1 arm t (heir - 1) target owner copy
        | _ => goneTile s1 arm t
    | _, _ => s)

/-- Home tiles of a block in an arm. -/
def blockTiles (s : State) (arm block : Nat) : List Tile :=
  (armAt s arm).tiles.filter (fun t => !t.copy && localLine (8 * t.tile) / 512 == block && lineModule (8 * t.tile) == s.module)

/-- Requests that wait for the lock of a cell of the block go on to its new home, where they are performed (R307, R312). -/
def moveLocks (s : State) (old toArm block : Nat) : State :=
  let mine (r : Req) : Bool := r.home == old && localLine r.line / 512 == block && s.lockq.any (fun p => p.2 == r.id)
  let ids := (s.reqs.filter mine).map (·.id)
  { s with lockq := s.lockq.filter (fun p => !(ids.contains p.2))
           reqs := s.reqs.map (fun r => if ids.contains r.id then forwardReq s r toArm else r) }

/-- A block's home moves: the old arm makes a forwarding entry; pins are cleared and kept for the new arm (R188, R291). -/
def moveHome (s : State) (block toArm old part : Nat) : State :=
  let lost := (blockTiles s old block).filterMap (fun t => t.pin.map (fun c => (t.tile, c)))
  let homes := if colourHome s (partAt s part).colour (2 ^ 16 * block) = toArm then mdel block s.homes else mput block toArm s.homes
  -- the promise unit of the new home finds the records of the block's lists at its own arm (R312)
  let s0 := moveRecords s old toArm part block
  let s1 := updArm { s0 with homes := homes } old (fun a =>
    { a with forwards := a.forwards ++ [⟨block, toArm, lost⟩]
             tiles := a.tiles.map (fun t => if lost.any (fun p => p.1 == t.tile) then { t with pin := none } else t) })
  afterClk (moveLocks s1 old toArm block) (armDie old) 1 3 (.forwardEntryFree old block)

/-- HOME_CHANGE (R188, R291): the old arm makes a forwarding entry, or the change waits for one; pins are cleared and kept
for the new arm. -/
def execHomeChange (block toArm : Nat) (s : State) : Host.Outcome State Fault Refusal :=
  .next (
    let part := mget 0 block s.owners % 16
    let old := homeArm s part (2 ^ 16 * block)
    if old = toArm then s
    else if 64 ≤ (armAt s old).forwards.length then afterClk s (armDie old) 1 3 (.homeChange block toArm)
    else
      moveHome s block toArm old part)

/-- Requests for a block that are still to be performed, or to be answered, at its old arm, those that may come on from the arm
of a copy among them, and those that it has forwarded and that are still on their way (R188: the in-flight count). -/
def inFlightAt (s : State) (arm block : Nat) : Bool :=
  s.reqs.any (fun r => localLine r.line / 512 == block && lineModule r.line == s.module &&
    (if r.home == arm then r.phase == .travel || r.phase == .queued || r.phase == .wave || r.phase == .parked || r.phase == .memory
     else r.fwd && r.phase == .travel))

/-- The entry is freed, the pins and the eviction horizon go to the new arm, and the requests held
there are offered to its front, those forwarded first (R188, R291, R312). -/
def freeForward (s1 : State) (arm block : Nat) (f : Forward) : State :=
  let s3 := updArm s1 arm (fun a => { a with forwards := a.forwards.filter (fun x => x.block != block) })
  let held := ((armAt s3 f.toArm).held.filter (fun p => p.1 == block)).map (·.2)
  let s4 := { s3 with reqs := s3.reqs.map (fun r => if held.contains r.id then
      { r with phase := .travel, due := .clk (armDie f.toArm) (armClk s3 f.toArm) } else r) }
  updArm s4 f.toArm (fun a =>
    { a with held := a.held.filter (fun p => p.1 != block)
             repins := a.repins ++ f.lost
             evict := max a.evict (armAt s3 arm).evict })

/-- FORWARD_ENTRY_FREE (R188, R291, R312): the block's tiles leave the old arm as victims do; when none is left and nothing
is in flight there, waiter records move, the entry is freed, the pins and the eviction horizon go to the new arm, and the
requests held there enter its front, those forwarded first. -/
def execForwardEntryFree (arm block : Nat) (s : State) : Host.Outcome State Fault Refusal :=
  .next (match (armAt s arm).forwards.find? (fun f => f.block == block) with
    | none => s
    | some f =>
      let s1 := (blockTiles s arm block).foldl (fun st t =>
        if eligible st arm t && motionFree (armAt st arm) then startLeave st arm t.tile else st) s
      if !((blockTiles s1 arm block).isEmpty) || inFlightAt s1 arm block then afterClk s1 (armDie arm) 1 3 (.forwardEntryFree arm block)
      else
        freeForward s1 arm block f)

/-- OCCUPANCY_ENTRY_WRITE (R286): a value out of range is not written, and the status says so; VALID and CTX of entry 0 are
ignored. -/
def execOccupancyEntryWrite (arm entry : Nat) (v : BitVec 128) (s : State) : Host.Outcome State Fault Refusal :=
  .next (
    let x := v.toNat
    let e : OccEntry := ⟨bits x 127 96, bits x 42 42 == 1, bits x 41 33, bits x 23 12⟩
    if 15 < entry ∨ 204 ≤ arm ∨ 256 < e.pinlim ∨ 2048 < e.limit then { s with cpStatus := 1 }
    else
      let e1 := if entry = 0 then { e with ctx := 0, valid := false } else e
      { updArm s arm (fun a => { a with occ := mput entry e1 a.occ }) with cpStatus := 0 })

end Sys2Proof.Machine
end

