-- ==== Sys2Proof/Machine/Launch.lean ====
section
/-!
DEFINITION. Launch records (R82 to R89, R91), commands and their queues (R341, R342, R346), the order between commands (R344,
R345), the operating-point hold (R92), the ends of groups, teams and commands (R107, R117, R343, R345, R354).
-/
namespace Sys2Proof.Machine

/-! ### The launch record -/

/-- A level descriptor (R84). -/
def levelOf (x : Nat) : Level := ⟨bits x 39 8, bits x 7 7 == 1, bits x 6 4, bits x 2 0⟩
/-- A range descriptor (R87). -/
def rangeOf (x : Nat) : Range := ⟨bits x 63 0, bits x 105 66, bits x 65 64⟩
/-- A ring entry: depth, pushing and popping role codes (R86). -/
def ringOf (x : Nat) : Nat × Nat × Nat := (bits x 8 0, bits x 11 10, bits x 13 12)

/-- The number at an offset of a record. -/
def recNat (bs : List Byte) (off n : Nat) : Nat := leNat ((bs.drop off).take n)

/-- The record that 512 bytes hold (R82, R83). -/
def parseRecord (bs : List Byte) : LaunchRec :=
  let h := recNat bs 0 64
  { args := BitVec.ofNat 64 (bits h 511 448)
    code := bits h 447 384
    entc := bits h 383 365
    entm := bits h 364 346
    entv := bits h 345 327
    ncall := bits h 299 296
    ncopy := bits h 295 289
    nmat := bits h 288 282
    nvec := bits h 281 275
    spad := bits h 274 265
    vregs := 8 * (bits h 264 260 + 1)
    prio := bits h 134 132
    oppt := bits h 130 128
    levels := (List.range (bits h 195 192)).map (fun i => levelOf (recNat bs (64 + 16 * i) 16))
    rings := (List.range 16).map (fun i => ringOf (recNat bs (192 + 4 * i) 4))
    ranges := (List.range (bits h 200 196)).map (fun i => rangeOf (recNat bs (256 + 16 * i) 16)) }

/-- A reserved field of the record is not zero, or an unused entry is not (R82 to R87). -/
def recordReserved (bs : List Byte) : Bool :=
  let h := recNat bs 0 64
  let nl := bits h 195 192
  let nr := bits h 200 196
  bits h 326 300 != 0 || bits h 259 201 != 0 || bits h 191 135 != 0 || bits h 131 131 != 0 || bits h 127 8 != 0 ||
  (List.range 8).any (fun i =>
    let x := recNat bs (64 + 16 * i) 16
    if i < nl then bits x 127 40 != 0 || bits x 3 3 != 0 else x != 0) ||
  (List.range 16).any (fun i =>
    let x := recNat bs (192 + 4 * i) 4
    bits x 31 14 != 0 || bits x 9 9 != 0 || (bits x 8 0 == 0 && x != 0)) ||
  (List.range 16).any (fun i =>
    let x := recNat bs (256 + 16 * i) 16
    if i < nr then bits x 127 106 != 0 else x != 0)

/-- An entry program counter matters where its role has groups (R83); a 19-bit field is always below 524,288. -/
def entryBad (r : LaunchRec) : Bool :=
  (r.nvec != 0 && r.entv % 4 != 0) || (r.nmat != 0 && r.entm % 4 != 0) || (r.ncopy != 0 && r.entc % 4 != 0)

/-- Domains strictly ascend (R84). -/
def domainsRise : List Level → Bool
  | a :: b :: r => decide (a.domain < b.domain) && domainsRise (b :: r)
  | _ => true

/-- The level structure of R84 apart from SCOPE. -/
def levelsOk (r : LaunchRec) : Bool :=
  let n := recGroups r
  decide (2 ≤ r.levels.length) && decide (r.levels.length ≤ 8) && domainsRise r.levels &&
  (match r.levels.head? with | some l => l.domain == 0 && l.extent == 32 | none => false) &&
  (r.levels.filter (fun l => l.domain == 2)).length == 1 &&
  (match r.levels.find? (fun l => l.domain == 1) with | some l => l.extent == n | none => n == 1) &&
  r.levels.all (fun l => (l.cor || decide (2 < l.domain)) && l.extent != 0)

/-- The least SCOPE of a domain (R84). -/
def minScope (d : Nat) : Nat := if d < 3 then min d 1 else d

/-- Scratchpad and ring storage of a team in KiB (R89). -/
def recStore (r : LaunchRec) : Nat :=
  let rings := ((r.rings.filter (fun q => q.1 != 0)).map (fun q => 4 + 4 * q.1)).sum
  (r.spad * 1024 + rings + 1023) / 1024

/-- Group slots that a team takes (R89). -/
def recSlots (r : LaunchRec) : Nat := recGroups r + r.ncall

/-- One team fits a core (R89). -/
def recFits (r : LaunchRec) : Bool :=
  decide (recSlots r ≤ 64) && decide (recSlots r * r.vregs ≤ 4096) && decide (recStore r ≤ 512)

/-- T of R89, 1 for a matrix launch (R214). -/
def teamsPerCore (r : LaunchRec) : Nat :=
  if r.nmat != 0 then 1
  else
    let a := min (64 / recSlots r) (4096 / (recSlots r * r.vregs))
    if recStore r = 0 then a else min a (512 / recStore r)

def roleCount (r : LaunchRec) (code : Nat) : Nat := if code = 0 then r.nvec else if code = 1 then r.nmat else r.ncopy

/-- A ring entry is invalid (R86). -/
def ringBad (r : LaunchRec) (q : Nat × Nat × Nat) : Bool :=
  q.1 != 0 && (decide (256 < q.1) || q.2.1 == 3 || q.2.2 == 3 || roleCount r q.2.1 == 0 || roleCount r q.2.2 == 0)

/-- A range descriptor is invalid (R87). -/
def rangeBad (r : Range) : Bool := r.len == 0 || r.kind == 0 || decide (2 ^ 64 < r.base + r.len)

/-- The unit of a domain that a logical cluster lies in (R84, R347). -/
def unitIn (domain cluster : Nat) : Nat :=
  if domain = 3 then cluster else if domain = 4 then cluster / 8 else if domain = 5 then cluster / 24 else 0

/-- Logical clusters of a partition (R347). -/
def partClusters (s : State) (part : Nat) : List Nat :=
  let p := partAt s part
  List.range' p.base (p.limit + 1 - p.base)

/-- The number of clusters of a list in the largest unit of a domain. -/
def unitClusters (cs : List Nat) (domain : Nat) : Nat :=
  ((cs.map (fun c => (cs.filter (fun x => unitIn domain x == unitIn domain c)).length))).foldl max 0

/-- Co-residency cannot be guaranteed on these clusters (R91). -/
def corBad (cs : List Nat) (r : LaunchRec) : Bool :=
  let ci := coreLevel r
  (List.range r.levels.length).any (fun i =>
    match r.levels[i]? with
    | none => false
    | some l => decide (ci < i) && l.cor &&
        decide (teamsPerCore r * 6 * unitClusters cs l.domain < levelTeams r.levels (i - ci + 1)))

/-- The first failing status of R88 for a partition of these clusters; 0 where the record is accepted. -/
def recordStatusOn (cs : List Nat) (bs : List Byte) : Nat :=
  let r := parseRecord bs
  let h := recNat bs 0 64
  if bits h 7 0 != 1 || recordReserved bs || entryBad r then 0x01
  else if !(levelsOk r) then 0x02
  else if r.levels.any (fun l => decide (l.scope < minScope l.domain)) then 0x03
  else if !(recFits r) then 0x04
  else if r.rings.any (ringBad r) then 0x05
  else if decide (16 < bits h 200 196) || r.ranges.any rangeBad then 0x06
  else if corBad cs r then 0x07
  else 0

/-- The first failing status of R88 in a partition. -/
def recordStatus (s : State) (part : Nat) (bs : List Byte) : Nat := recordStatusOn (partClusters s part) bs

/-- Teams of a launch (R85). -/
def totalTeams (r : LaunchRec) : Nat := (r.levels.drop (coreLevel r)).foldl (fun a l => a * l.extent) 1

/-! ### Commands (R341, R342) -/

/-- The virtual device of a front end (R338). -/
def vdOfFe? (s : State) (fe : Nat) : Option Nat := (s.vds.find? (fun p => p.2.valid && p.2.femask.testBit fe)).map (·.1)

/-- DOORBELL (R341): the tail index is written. -/
def execDoorbell (fe tail : Nat) (s : State) : Host.Outcome State Fault Refusal :=
  .next (updFe s fe (fun f => { f with tail := tail }))

/-- The front end has read a command: its head index advances (R341). -/
def advanceHead (s : State) (fe : Nat) : State := updFe s fe (fun f => { f with head := if f.size = 0 then 0 else (f.head + 1) % f.size })

/-- The command that a front end reads next (R341). -/
def nextCommand? (s : State) (fe : Nat) : Option (BitVec 512) :=
  let f := feAt s fe
  if f.size = 0 || f.head == f.tail || (vdOfFe? s fe).isNone then none
  else some (BitVec.ofNat 512 (leNat (directRead s (f.base + 64 * f.head) 64)))

/-- A field of a command. -/
def cmdField (c : BitVec 512) (hi lo : Nat) : Nat := bits c.toNat hi lo

/-- Predecessors in use (R341). -/
def cmdPreds (c : BitVec 512) : List Nat :=
  ([cmdField c 271 216, cmdField c 327 272, cmdField c 383 328]).take (cmdField c 9 8)

/-- The entries of a buffer list (R341). -/
def cmdList (s : State) (c : BitVec 512) : List Nat :=
  (List.range (cmdField c 17 10)).map (fun i => leNat (directRead s (cmdField c 215 152 + 16 * i) 16))

/-- The first failing status of R342 apart from the record's; 0 where the fields are valid. -/
def commandStatus (s : State) (v : Nat) (c : BitVec 512) : Nat :=
  let kind := cmdField c 7 0
  let addr := cmdField c 511 448
  if kind = 0 || decide (3 < kind) || cmdField c 151 18 != 0 || addr % 64 != 0 || (kind != 1 && addr != 0) ||
    cmdField c 447 384 % 16 != 0 || cmdField c 215 152 % 16 != 0 || decide (64 < cmdField c 17 10) ||
    (cmdField c 17 10 == 0 && cmdField c 215 152 != 0) then 0x27
  else if (cmdPreds c).any (fun p => !(s.launches.any (fun l => l.id == p && l.vd == v))) then 0x28
  else if (cmdList s c).any (fun x => rangeBad (rangeOf x) || bits x 127 106 != 0) then 0x29
  else 0

/-- Write a completion record (R342). -/
def writeDone (s : State) (part addr id status : Nat) : State :=
  if addr = 0 then s
  else directWrite s part addr (leBytes 8 (id * 256 + status) ++ leBytes 8 (timeNs s))

/-- A command accepted by a front end, its identifier the front end's next (R342). -/
def acceptCommand (s : State) (fe v kind : Nat) (r : LaunchRec) (done : Nat) (preds : List Nat) (list : List Range) :
    Nat × State :=
  let n := (feAt s fe).count + 1
  let id := fe * 2 ^ 52 + n % 2 ^ 52
  let b := vdAt s v
  let total := if kind = 1 then totalTeams r else 0
  let l : Launch :=
    { id := id
      kind := kind
      fe := fe
      vd := v
      part := b.part
      ctx := b.ctx
      record := r
      done := done
      preds := preds
      list := list
      phase := .waiting
      seq := s.launches.length
      accepted := timeNs s
      placed := 0
      total := total
      live := 0
      status := 0
      outstanding := []
      drops := none
      settle := 0
      units := [] }
  (id, updFe { s with launches := s.launches ++ [l] } fe (fun f => { f with count := n }))

/-- A record with nothing in it, for commands other than launches. -/
def LaunchRec.none_ : LaunchRec := ⟨0, 0, 0, 0, 0, 0, 0, 0, 0, 0, 0, 0, 0, [], [], []⟩

/-- Check a command and accept or refuse it (R342): a refused one writes its completion record, with identifier 0. -/
def takeCommand (s : State) (fe : Nat) (c : BitVec 512) (accept : State → Nat → State) : State :=
  match vdOfFe? s fe with
  | none => s
  | some v =>
    let s1 := advanceHead s fe
    let bs := directRead s (cmdField c 511 448) 512
    let st := match commandStatus s v c with
      | 0 => if cmdField c 7 0 = 1 then recordStatus s (vdAt s v).part bs else 0
      | k => k
    if st != 0 then writeDone s1 (vdAt s v).part (cmdField c 447 384) 0 st else accept s1 v

def cmdRanges (s : State) (c : BitVec 512) : List Range := (cmdList s c).map rangeOf

/-- CMD_LAUNCH (KIND 1, R342). -/
def execCmdLaunch (fe : Nat) (c : BitVec 512) (s : State) : Host.Outcome State Fault Refusal :=
  .next (takeCommand s fe c (fun st v =>
    (acceptCommand st fe v 1 (parseRecord (directRead s (cmdField c 511 448) 512)) (cmdField c 447 384) (cmdPreds c)
      (cmdRanges s c)).2))

/-- CMD_FENCE (KIND 2, R343). -/
def execCmdFence (fe : Nat) (c : BitVec 512) (s : State) : Host.Outcome State Fault Refusal :=
  .next (takeCommand s fe c (fun st v =>
    (acceptCommand st fe v 2 LaunchRec.none_ (cmdField c 447 384) (cmdPreds c) (cmdRanges s c)).2))

/-- Whether an address lies in a range. -/
def inRange (r : Range) (va : Nat) : Bool := decide (r.base ≤ va) && decide (va < r.base + r.len)

/-- Whether a cached translation overlaps a range. -/
def entryOverlaps (e : TlbEntry) (r : Range) : Bool :=
  decide (e.page * 2 ^ e.size < r.base + r.len) && decide (r.base < (e.page + 1) * 2 ^ e.size)

/-- Whether the largest leaf that may translate an address overlaps a range: a walk of it may have read that leaf. -/
def leafOverlaps (va : Nat) (r : Range) : Bool :=
  decide (va / 2 ^ 26 * 2 ^ 26 < r.base + r.len) && decide (r.base < (va / 2 ^ 26 + 1) * 2 ^ 26)

/-- Whether a 64-KiB page overlaps a range. -/
def pageOverlaps (va : Nat) (r : Range) : Bool :=
  decide (va / 2 ^ 16 * 2 ^ 16 < r.base + r.len) && decide (r.base < (va / 2 ^ 16 + 1) * 2 ^ 16)

/-- Whether an address is translated through a page, or a cached translation, that overlaps a range (R354). -/
def wentThrough (s : State) (part va : Nat) (r : Range) : Bool :=
  pageOverlaps va r || s.tlb.any (fun e => e.part == part && e.page == va / 2 ^ e.size && entryOverlaps e r)

/-- A walk begins again at the root of its partition's table. -/
def restartWalk (part : Nat) (st : State) (w : Walk) : State :=
  let rid := (newId (delReq st w.req)).1
  let s2 := (newId (delReq st w.req)).2
  let table := (partAt st part).ptroot * 2 ^ 12
  let pa := walkAddr table w.va 2
  let q : Req := { blankReq rid (.walker w.id) (.load [(0, 0, pa % 128, 8)]) (st.module * 2 ^ 41 + pa / 128) with
    part := part, sector := armSector (homeArm st part pa) }
  sendReq { s2 with walks := listUpd (fun x => x.id == w.id) (fun x => { x with level := 2, table := table, req := rid }) s2.walks } q 0

/-- The translations that a command keeps are marked where they overlap listed ranges (R354). -/
def dropKept (s : State) (part : Nat) (rs : List Range) (c : CopyCmd) : CopyCmd :=
  if cmdPart s c != part then c
  else { c with pages := c.pages.map (fun e => if e.part == part && rs.any (entryOverlaps e) then { e with part := part + dropped } else e) }

/-- Drop the cached translations that overlap listed ranges, and let the walks that may have read them start afresh (R354). -/
def dropTranslations (s : State) (part : Nat) (rs : List Range) : State :=
  let s1 := { s with tlb := s.tlb.filter (fun e => !(e.part == part && rs.any (entryOverlaps e))), cmds := s.cmds.map (dropKept s part rs) }
  let ws := s1.walks.filter (fun w => w.part == part && rs.any (leafOverlaps w.va))
  ws.foldl (restartWalk part) s1

/-- CMD_TRANSLATION_INVALIDATE (KIND 3, R354): the translations are dropped, and the requests that went through them are
awaited. -/
def execCmdTranslationInvalidate (fe : Nat) (c : BitVec 512) (s : State) : Host.Outcome State Fault Refusal :=
  .next (takeCommand s fe c (fun st v =>
    let rs := cmdRanges s c
    let part := (vdAt st v).part
    let (id, s1) := acceptCommand st fe v 3 LaunchRec.none_ (cmdField c 447 384) (cmdPreds c) rs
    let reqs := (s1.reqs.filter (fun r => r.part == part && rs.any (wentThrough s1 part r.va))).map (·.id)
    dropTranslations (updLaunch s1 id (fun l => { l with outstanding := reqs })) part rs))

/-- CMD_INVALID_KIND (R342): refused with 0x27. -/
def execCmdInvalidKind (fe : Nat) (c : BitVec 512) (s : State) : Host.Outcome State Fault Refusal :=
  .next (match vdOfFe? s fe with
    | none => s
    | some v => writeDone (advanceHead s fe) (vdAt s v).part (cmdField c 447 384) 0 0x27)

/-! ### Device-side launches (R137, R346) -/

/-- Whether the first device-side launch of a front end may be accepted: its record's pages are translated and its release
at device scope holds (R137, R165). -/
def deviceLaunchReady (s : State) (fe : Nat) : Bool :=
  match (feAt s fe).devq with
  | [] => false
  | d :: _ =>
    match flightAt? s d.op, groupAt? s d.uid with
    | some f, some g => f.sent && releaseReady s g f.id 6
    | _, _ => true

/-- Bytes at a virtual range as they stand. -/
def vaBytes (s : State) (part va n : Nat) : List Byte :=
  let pages := (pageAccs va n).map (fun a => (a.va / 2 ^ 16, (tlbFind s part a.va).map (fun e => entryPa e (a.va / 2 ^ 16 * 2 ^ 16))))
  (List.range n).map (fun i =>
    match pages.find? (fun p => p.1 == (va + i) / 2 ^ 16) with
    | some (_, some pa) => readByte (frontMem s) (pa % 2 ^ 48 + (va + i) % 2 ^ 16)
    | _ => 0)

/-- A device launch's record is checked, and the launch word completes `launch` (R137, R346). -/
def acceptDevice (s1 : State) (fe : Nat) (d : DevLaunch) (f : Flight) : State :=
  let part := flightPart s1 f
  let s2 := settleNr s1 f
  if f.lanes.any (fun a => (laneCause f a).isSome || laneForbidden s1 part f a) then completeWith s2 f (launchWord 0 0x21)
  else
    let bs := vaBytes s1 part d.addr 512
    let st := recordStatus s1 part bs
    if st != 0 then completeWith s2 f (launchWord 0 st)
    else
      let r := parseRecord bs
      let (id, s3) := acceptCommand s2 fe d.vd 1 { r with prio := min r.prio d.prio } 0 [] []
      completeWith s3 f (launchWord id 0)

/-- DEVICE_LAUNCH_ACCEPT (R137, R346): the record is checked, and the launch word completes `launch`. -/
def execDeviceLaunchAccept (fe : Nat) (s : State) : Host.Outcome State Fault Refusal :=
  .next (match (feAt s fe).devq with
    | [] => s
    | d :: rest =>
      if !(deviceLaunchReady s fe) then s
      else
        let s1 := updFe s fe (fun f => { f with devq := rest })
        match flightAt? s1 d.op with
        | none => s1
        | some f =>
          acceptDevice s1 fe d f)

/-! ### Order between commands (R343 to R345) and the hold (R92) -/

/-- Two ranges overlap at 256-byte grain and one of them writes (R87, R344). -/
def rangesConflict (a b : Range) : Bool :=
  decide (a.base / 256 < (b.base + b.len + 255) / 256) && decide (b.base / 256 < (a.base + a.len + 255) / 256) &&
  (a.kind.testBit 1 || b.kind.testBit 1)

/-- Two launches conflict (R344). -/
def launchesConflict (a b : Launch) : Bool := a.record.ranges.any (fun x => b.record.ranges.any (rangesConflict x))

/-- Every predecessor has ended and its buffer list has been processed (R345). -/
def predsDone (s : State) (l : Launch) : Bool :=
  l.preds.all (fun p => match launchAt? s p with | some x => x.phase == .ended | none => true)

/-- A launch has ended (R343): only its buffer list may remain. -/
def hasEnded (l : Launch) : Bool := l.phase == .listing || l.phase == .ended

/-- Nothing earlier keeps a launch from being placed (R344, R345). -/
def launchFree (s : State) (l : Launch) : Bool :=
  predsDone s l &&
  s.launches.all (fun x => !(x.kind == 1 && x.vd == l.vd && decide (x.seq < l.seq) && !(hasEnded x) && launchesConflict x l))

/-- Launches whose order is satisfied go on to the hold (R92, R344, R345). -/
def launchTick (s : State) : State :=
  let freed (l : Launch) : Bool := l.kind == 1 && l.phase == .waiting && l.placed != l.total && launchFree s l
  { s with launches := s.launches.map (fun l => if freed l then { l with phase := .held } else l) }

/-- The point of a launch is stable on its partition's dies, or 50 µs have passed since it was accepted (R92, R375). -/
def holdOver (s : State) (l : Launch) : Bool :=
  l.phase == .held &&
  ((partDies s l.ctx l.part).all (fun d => decide (l.record.oppt ≤ (dieAt s d).point)) || decide (l.accepted + 50000 ≤ timeNs s))

/-- LAUNCH_HOLD_END (R92). -/
def execLaunchHoldEnd (id : Nat) (s : State) : Host.Outcome State Fault Refusal :=
  .next (match launchAt? s id with
    | none => s
    | some l => if holdOver s l then updLaunch s id (fun l => { l with phase := .ready }) else s)

/-! ### The ends of groups, teams and commands -/

/-- Whether an instruction in flight keeps its group from ending (R117): a `pwait` whose group has no lanes counts as
complete (R317). -/
def keepsGroup (g : Group) (f : Flight) : Bool :=
  f.uid == g.uid && f.op != .pwait

/-- A group with no lanes left has ended: its variable-latency work is complete (R117). -/
def groupOver (s : State) (g : Group) : Bool :=
  !g.callee && g.splits.isEmpty && g.stop.isNone && s.flights.all (fun f => !(keepsGroup g f)) &&
  s.cmds.all (fun c => c.uid != g.uid) && g.sleep.isNone

/-- What becomes of an instruction in flight when a group ends: a wait on a promise that has not registered yet goes on at
the promise unit (R317; DEDUCED, log 87); any other of the group's is gone. -/
def outlive (s : State) (g : Group) (f : Flight) : Option Flight :=
  if f.uid != g.uid then some f
  else if f.op == .pwait && f.step != .waiting then some { f with origin := some ⟨groupCtx s g, groupPart s g, g.core, g.slot⟩ }
  else none

/-- A group ends: its claims are released, its writes not yet acknowledged at device scope are kept with its launch, and its
slot and registers stay with its team until that ends (R90, R107, R117, R209, R215, R343). -/
def endGroup (s : State) (u : Nat) (g : Group) : State :=
  let s1 := endGang (leaveWrites (flushPend s u) u g) g
  let s2 := updMat s1 g.core (fun m =>
    if m.team = some g.team then { m with claims := m.claims.filter (fun c => c.2 != g.slot + 1) } else m)
  let keep (t : Team) : Team := if t.id == g.team && !g.moved then { t with held := t.held ++ [g.slot] } else t
  { s2 with groups := s2.groups.filter (fun x => x.uid != u)
            flights := s2.flights.filterMap (outlive s g)
            teams := (s2.teams.filter (fun t => !(t.id == g.team && t.core == 1000 &&
              !(s2.groups.any (fun x => x.team == t.id && x.uid != u))))).map keep }

/-- GROUP_END (R117, R209, R215): the group ends. -/
def execGroupEnd (u : Nat) (s : State) : Host.Outcome State Fault Refusal :=
  .next (match groupAt? s u with
    | none => s
    | some g =>
      if !(groupOver s g) then s
      else
        endGroup s u g)

/-- A team whose groups have ended, with idle callee slots and no items (R107); groups that migrated have left it (R101). A
team that has ended while they run stands at core 1000. -/
def teamOver (s : State) (t : Team) : Bool :=
  t.core != 1000 &&
  s.groups.all (fun g => g.team != t.id || g.moved || (g.callee && g.splits.isEmpty && g.items.isEmpty)) &&
  (coreAt s t.core).queues.all (fun q => q.team != t.id)

/-- Clear the pins of a context in every arm (R290). -/
def clearPins (s : State) (ctx : Nat) : State :=
  { s with arms := s.arms.map (fun p =>
      (p.1, { p.2 with tiles := p.2.tiles.map (fun t => if t.pin = some ctx then { t with pin := none } else t) })) }

/-- A team's slots, registers and storage become free, and its launch counts the end (R107). -/
def endTeam (s : State) (id : Nat) (t : Team) : State :=
  let moved := s.groups.any (fun g => g.team == id && g.moved)
  let s1 := { s with
    groups := s.groups.filter (fun g => g.team != id || g.moved)
    teams := if moved then listUpd (fun x => x.id == id) (fun x =>
        { x with core := 1000, storeKiB := 0, spadKiB := 0, matrix := false, callees := [], spad := [], rings := [], held := [] })
          s.teams
      else s.teams.filter (fun x => x.id != id) }
  let s2 := updCore s1 t.core (fun c =>
    { c with mat := if c.mat.team = some id then MatrixSt.empty else c.mat, guards := c.guards.filter (fun g => g.team != id) })
  let s3 := updLaunch s2 t.launch (fun l => { l with live := l.live - 1 })
  let busy := s3.launches.any (fun l => l.kind == 1 && l.ctx == t.ctx && !(hasEnded l) &&
    !(l.id == t.launch && l.placed == l.total && l.live == 0))
  if busy then s3 else clearPins s3 t.ctx

/-- TEAM_END (R107): slots, registers and storage are free; the launch counts the end. -/
def execTeamEnd (id : Nat) (s : State) : Host.Outcome State Fault Refusal :=
  .next (match s.teams.find? (fun t => t.id == id) with
    | none => s
    | some t =>
      if !(teamOver s t) then s
      else
        endTeam s id t)

/-- A launch ends when its teams have ended and their writes are acknowledged at device scope (R343). -/
def launchOver (s : State) (l : Launch) : Bool :=
  l.kind == 1 && !(hasEnded l) && l.placed == l.total && l.live == 0 &&
  l.outstanding.all (fun r => match reqAt? s r with | some r => ackedAt s r 6 | none => true)

/-- LAUNCH_END (R343): the buffer list is processed next. -/
def execLaunchEnd (id : Nat) (s : State) : Host.Outcome State Fault Refusal :=
  .next (match launchAt? s id with
    | none => s
    | some l =>
      if launchOver s l then
        { updLaunch s id (fun l => { l with phase := .listing }) with outer := s.outer.filter (fun b => b.launch != id) }
      else s)

/-- A fence ends when its predecessors and the earlier commands of its own queue have ended (R343). -/
def fenceOver (s : State) (l : Launch) : Bool :=
  l.kind == 2 && !(hasEnded l) && predsDone s l &&
  s.launches.all (fun x => !(x.fe == l.fe && decide (x.seq < l.seq)) || x.phase == .ended)

/-- FENCE_END (R343). -/
def execFenceEnd (id : Nat) (s : State) : Host.Outcome State Fault Refusal :=
  .next (match launchAt? s id with
    | none => s
    | some l => if fenceOver s l then updLaunch s id (fun l => { l with phase := .listing }) else s)

/-- A request has been performed at its home front (R354). -/
def reqPerformed (r : Req) : Bool := r.phase == .reply || r.phase == .done

/-- Whether a command has still to send writes of a block by a translation that an invalidate has dropped (R354). -/
def keepsStale (s : State) (l : Launch) (c : CopyCmd) : Bool :=
  cmdPart s c == l.part && !(c.reads.isEmpty && c.got.isEmpty) &&
    c.pages.any (fun e => e.part == l.part + dropped && l.list.any (entryOverlaps e) && goesStale c (e.page * 2 ^ e.size))

/-- A translation invalidate ends when the requests that went through dropped translations have been performed (R354). -/
def invalidateOver (s : State) (l : Launch) : Bool :=
  l.kind == 3 && !(hasEnded l) && predsDone s l && s.cmds.all (fun c => !(keepsStale s l c)) &&
  l.outstanding.all (fun r => match reqAt? s r with | some r => reqPerformed r | none => true)

/-- INVALIDATE_END (R354). -/
def execInvalidateEnd (id : Nat) (s : State) : Host.Outcome State Fault Refusal :=
  .next (match launchAt? s id with
    | none => s
    | some l => if invalidateOver s l then updLaunch s id (fun l => { l with phase := .listing }) else s)

/-- The module-local lines of listed ranges as the partition's page tables map them (R345). -/
def listedLines (s : State) (part : Nat) (rs : List Range) : List Nat :=
  (rs.map (fun r =>
    let pages := List.range' (r.base / 2 ^ 16) ((r.base + r.len + 2 ^ 16 - 1) / 2 ^ 16 - r.base / 2 ^ 16)
    (pages.map (fun p =>
      match resolveVa s part (p * 2 ^ 16) with
      | none => []
      | some e =>
        let lo := max (p * 2 ^ 16) (r.base / 128 * 128)
        let hi := min ((p + 1) * 2 ^ 16) (r.base + r.len)
        let pa := entryPa e lo
        if pa / 2 ^ 48 != s.module then []
        else (List.range ((hi - lo + 127) / 128)).map (fun i => localLine (pa / 128) + i))).flatten)).flatten

/-- The arms whose copy of a line is to be dropped: those that hold one, those of the sectors that the line's sharers name, and
those to which one is under way (R288, R345). -/
def copyArms (s : State) (home line : Nat) : List Nat :=
  let held := s.arms.filterMap (fun p =>
    (tileAt? p.2 (line / 8)).bind (fun t => if t.copy && (tileLine t line).valid then some p.1 else none))
  let named := match homeTile? (armAt s home) line with
    | some t => (sharerSectors (armSector home) (tileLine t line).sharers).map (fun x => armOfNumber s x (armNumber s home))
    | none => []
  let coming := (s.reqs.filter (fun r => copyUnderWay r line)).map (copyHome s)
  (held ++ named ++ coming).dedup

/-- A drop of a line's copy leaves its home for an arm (R281, R289). -/
def sendDrop (s : State) (home line arm : Nat) : State :=
  let (id, s1) := newId s
  addDue { s1 with updates := s1.updates ++ [⟨id, armSector arm, arm, line, 0, [], 0, true, home, false⟩] }
    (arriveAt s1 (armSector home) (armSector arm) 0) 3 (.writeUpdateWords id)

/-- Every copy of a line of this module is told to drop it: copy tiles in every sector, and the host die's lease copy, which a
reply on its way there no longer makes (R345). The home clears its sharers as the drops are acknowledged (R289). -/
def dropCopies (s : State) (part line : Nat) : State :=
  let g := s.module * 2 ^ 41 + line
  let home := homeArm s part (128 * line)
  let s1 := (copyArms s home g).foldl (fun st a => sendDrop st home g a) s
  { s1 with
    hostCopies := mdel g s1.hostCopies
    reqs := s1.reqs.map (fun r => match r.src with
      | .host _ => if r.line == g then { r with copy := false } else r
      | _ => r) }

/-- The processing of a buffer list begins (R345): dirty lines of the listed ranges are written back, and every copy of them is
to be dropped. -/
def startListing (s : State) (id : Nat) (l : Launch) : State :=
  let lines := listedLines s l.part l.list
  let copied := lines.filter (fun x =>
    let g := s.module * 2 ^ 41 + x
    !((copyArms s (homeArm s l.part (128 * x)) g).isEmpty))
  let s1 := lines.foldl (fun st x => dropCopies (writeBack st x) l.part x) s
  updLaunch { s1 with freeCount := s1.freeCount + 1 } id (fun l => { l with
    drops := some (copied.map (fun x => s.module * 2 ^ 41 + x))
    settle := if lines.isEmpty then timeNs s else nsAfter s 0 97 + dramNs s })

/-- Whether memory and every copy have acknowledged the processing of a list (R345). -/
def listingDone (s : State) (l : Launch) (ls : List Nat) : Bool :=
  decide (l.settle ≤ timeNs s) && s.updates.all (fun u => !(u.drop && ls.contains u.line)) &&
  s.agenda.all (fun d => match d.ev with
    | .sharerDropAck _ line _ => !(ls.contains line)
    | _ => true)

/-- Whether the processing of a buffer list begins or ends now. -/
def listingReady (s : State) (l : Launch) : Bool :=
  l.phase == .listing && (match l.drops with | none => true | some ls => listingDone s l ls)

/-- The processing of a buffer list is complete, and the completion record is written (R345, R342, R343). -/
def endListing (s : State) (id : Nat) (l : Launch) : State :=
  writeDone (updLaunch s id (fun l => { l with phase := .ended, outstanding := [] })) l.part l.done l.id l.status

/-- BUFFER_LIST_PROCESSED (R345): the processing begins, or is complete. -/
def execBufferListProcessed (id : Nat) (s : State) : Host.Outcome State Fault Refusal :=
  .next (match launchAt? s id with
    | none => s
    | some l =>
      if !(listingReady s l) then s
      else
        match l.drops with
        | none => startListing s id l
        | some _ => endListing s id l)

end Sys2Proof.Machine
end

