-- ==== Sys2Proof/Machine/Place.lean ====
section
/-!
DEFINITION. Placement of teams (R85, R89 to R93, R201, R213, R214, R346), the halt of teams for a save (R198, R199, R201,
R202, R231), code stores (R348) and the placing device of a partition (R349, R350).
-/
namespace Sys2Proof.Machine

/-! ### Room (R89, R214) -/

/-- The physical core of core `k` of a logical cluster, for a context. -/
def clusterCore (s : State) (ctx cluster k : Nat) : Nat := physCore s ctx (cluster / 24) (cluster / 8 % 3) (cluster % 8) k

/-- Teams that count as holding room: all, or those of one context and no others (R202). -/
def countsFor (ctx : Nat) (others : Bool) (t : Team) : Bool := others || t.ctx == ctx

/-- Group slots, registers per lane, storage and matrix team of a core, as (slots, registers, KiB, matrix); the slots of ended
groups count until their team ends (R107). -/
def coreUse (s : State) (ctx core : Nat) (others : Bool) : Nat × Nat × Nat × Bool :=
  let ts := s.teams.filter (fun t => t.core == core && countsFor ctx others t)
  let gs := s.groups.filter (fun g => g.core == core && (g.moved || ts.any (fun t => t.id == g.team)))
  (gs.length + (ts.map (·.held.length)).sum, (gs.map (groupRegs s)).sum + (ts.map (fun t => t.held.length * t.vregs)).sum,
    (ts.map (·.storeKiB)).sum, ts.any (·.matrix))

/-- Whether one more team of a launch fits a core on which a plan has put `n` of them (R89). -/
def fitsCore (s : State) (l : Launch) (others : Bool) (core n : Nat) : Bool :=
  let r := l.record
  let (slots, regs, kib, _) := coreUse s l.ctx core others
  decide (slots + (n + 1) * recSlots r ≤ 64) && decide (regs + (n + 1) * (recSlots r * r.vregs) ≤ 4096) &&
  decide (kib + (n + 1) * recStore r ≤ 512)

/-- The same with the one matrix team of a core (R214), and with slots whose next generation is free (R201). -/
def roomFor (s : State) (l : Launch) (others : Bool) (core n : Nat) : Bool :=
  fitsCore s l others core n && (l.record.nmat == 0 || (n == 0 && !(coreUse s l.ctx core others).2.2.2)) &&
  (!others || ((freeSlots s core).take ((n + 1) * recSlots l.record)).all (genFree s core))

/-! ### Plans (R91, R346) -/

/-- A planned team: its number, its logical cluster, its physical core. -/
structure Spot where
  num : Nat
  cluster : Nat
  core : Nat
  deriving DecidableEq, Repr

/-- Put one team on the lowest cluster and core with room (R346). -/
def planTeam (s : State) (l : Launch) (others : Bool) (allowed : List Nat) (num : Nat) (plan : List Spot) : Option (List Spot) :=
  allowed.findSome? (fun c => (List.range 6).findSome? (fun k =>
    let core := clusterCore s l.ctx c k
    if roomFor s l others core (plan.filter (fun p => p.core == core)).length then some (plan ++ [⟨num, c, core⟩]) else none))

/-- Put all teams of one instance of the level `lev` outside the team into the lowest unit of its domain that takes them
(R85, R346). -/
def planInst (s : State) (l : Launch) (others : Bool) : Nat → List Nat → Nat → List Spot → Option (List Spot)
  | 0, allowed, num, plan => planTeam s l others allowed num plan
  | lev + 1, allowed, num, plan =>
    let ci := coreLevel l.record
    let dom := ((l.record.levels[ci + lev + 1]?).map (·.domain)).getD 7
    let n := ((l.record.levels[ci + lev]?).map (·.extent)).getD 1
    let step := levelTeams l.record.levels lev
    ((allowed.map (unitIn dom)).dedup).findSome? (fun u =>
      let here := allowed.filter (fun c => unitIn dom c == u)
      (List.range n).foldl (fun acc j => acc.bind (planInst s l others lev here (num + j * step))) (some plan))

/-- The outermost co-resident level outside the team, counted from the team level; 0 where there is none (R91). -/
def corLevel (r : LaunchRec) : Nat :=
  let ci := coreLevel r
  ((List.range (r.levels.length - ci)).filter (fun j => decide (0 < j) && ((r.levels[ci + j]?).map (·.cor)).getD false)).foldl max 0

/-- Put at once the teams that a co-resident level needs room for (R91): the product of the extents from the team level to
that level inclusive, within one unit of its domain; one team where no level outside the team is co-resident. -/
def planCor (s : State) (l : Launch) (others : Bool) (allowed : List Nat) : Option (List Spot) :=
  let r := l.record
  let lev := corLevel r
  if lev = 0 then planTeam s l others allowed l.placed []
  else
    let dom := ((r.levels[coreLevel r + lev]?).map (·.domain)).getD 7
    let n := ((r.levels[coreLevel r + lev]?).map (·.extent)).getD 1
    ((allowed.map (unitIn dom)).dedup).findSome? (fun u =>
      let here := allowed.filter (fun c => unitIn dom c == u)
      (List.range n).foldl (fun acc j => acc.bind (planInst s l others lev here (l.placed + j * levelTeams r.levels lev))) (some []))

/-- Levels further out than the teams that are placed at once. -/
def outerLevels (r : LaunchRec) : List Nat :=
  (List.range (r.levels.length - coreLevel r)).filter (fun j => decide (corLevel r < j))

/-- The plan for the next team of a launch, or for all that must be placed with it (R85, R91, R346). -/
def planNext (s : State) (l : Launch) (others : Bool) : Option (List Spot) :=
  let r := l.record
  let ci := coreLevel r
  let allowed := (partClusters s l.part).filter (fun c =>
    (outerLevels r).all (fun j =>
      let dom := ((r.levels[ci + j]?).map (·.domain)).getD 7
      match l.units.find? (fun u => u.1 == j && u.2.1 == l.placed / levelTeams r.levels j) with
      | some u => unitIn dom c == u.2.2
      | none => true))
  if l.placed < l.total then planCor s l others allowed else none

def imagesOverlap (a b : Image) : Bool := decide (a.load < b.load + b.len) && decide (b.load < a.load + a.len)

/-- Whether a cluster's code store holds the image of a launch, and no load that is under way takes its place (R348). -/
def hasImage (s : State) (core code : Nat) : Bool :=
  let cs := (mfind (coreCluster core) s.codes).getD CodeStore.empty
  cs.images.any (fun i => i.code == code && (match cs.loading with | some x => !(imagesOverlap i x.2) | none => true))

/-! ### Starting a team (R90, R93, R213) -/

/-- A group as it starts (R93); a callee slot starts idle (R100). -/
def freshGroup (r : LaunchRec) (uid team core slot : Nat) (role : Role) (num : Nat) (callee : Bool) (pc gen clk : Nat) : Group where
  uid := uid
  team := team
  core := core
  slot := slot
  role := role
  num := num
  callee := callee
  splits := if callee then [] else [⟨0, pc, 0xFFFFFFFF, 0, [], false, 0, none⟩]
  alive := if callee then 0 else 0xFFFFFFFF
  stamps := 0
  v := []
  s := mset 0 0 r.args []
  k := []
  owners := []
  flags := 0xFFF
  flagOwner := []
  seed := 0
  mcap := 16
  mres := 0
  rgn := BitVec.ofNat 64 pc
  nr := false
  nrMay := []
  prio := r.prio
  bars := []
  horizon := 0
  depart := none
  lastIssue := clk
  lastPlace := 3
  issued := 0
  placed := clk
  resumed := true
  yieldUntil := 0
  sleep := none
  sync := none
  busy := none
  acq := []
  wrote := []
  aborts := []
  ended := []
  gen := BitVec.ofNat 16 gen
  stop := none
  items := []
  halted := false
  moved := false
  undo := none
  replays := []

def roleOfCode (n : Nat) : Role := if n = 0 then .vector else if n = 1 then .matrix else .copy

/-- Roles, entries and callee marks of a team's groups in the order of their slots (R90). -/
def teamRoles (r : LaunchRec) : List (Role × Nat × Bool) :=
  List.replicate r.nvec (.vector, r.entv, false) ++ List.replicate r.nmat (.matrix, r.entm, false) ++
  List.replicate r.ncopy (.copy, r.entc, false) ++ List.replicate r.ncall (.vector, r.entv, true)

/-- The rings that a record declares (R25, R86). -/
def freshRings (r : LaunchRec) : SMap Ring :=
  ((List.range 16).zip r.rings).filterMap (fun p =>
    if p.2.1 = 0 then none else some (p.1, ⟨p.2.1, roleOfCode p.2.2.1, roleOfCode p.2.2.2, false, 0, false, 0, [], 0, 0, 0, false, false⟩))

/-- Place one group of a team in the lowest free slot of its core (R90, R201). -/
def addGroup (r : LaunchRec) (team core : Nat) (num : Nat) (x : Role × Nat × Bool) (s : State) : State :=
  let uid := s.uidCount + 1
  let slot := (freeSlot s core []).getD 0
  let gen := nextGen s core slot
  let g := freshGroup r uid team core slot x.1 (if x.2.2 then 0 else num) x.2.2 x.2.1 gen (coreClk s core)
  noteGen { s with groups := s.groups ++ [g], uidCount := uid } core slot gen

/-- Start a team at its spot: all its groups in one clk (R90), its barriers and rings (R25, R128), and the reset of the
matrix engine for a matrix team (R213, R214). -/
def startTeam (l : Launch) (p : Spot) (s : State) : State :=
  let r := l.record
  let id := s.uidCount + 1
  let s1 := ((List.range (teamRoles r).length).zip (teamRoles r)).foldl (fun st x => addGroup r id p.core x.1 x.2 st)
    { s with uidCount := id }
  let t : Team :=
    { id := id
      launch := l.id
      ctx := l.ctx
      part := l.part
      num := p.num
      core := p.core
      members := recGroups r
      vregs := r.vregs
      spadKiB := r.spad
      storeKiB := recStore r
      matrix := r.nmat != 0
      callees := (s1.groups.filter (fun g => g.team == id && g.callee)).map (·.uid)
      bars := (List.range 16).map (fun b => (b, ⟨false, recGroups r, 0, 0, 0, 0⟩))
      rings := freshRings r
      evts := []
      spad := []
      prio := r.prio
      order := id
      left := 0
      held := [] }
  let s2 := { s1 with teams := s1.teams ++ [t] }
  if r.nmat = 0 then s2 else updMat s2 p.core (fun _ => { MatrixSt.empty with team := some id })

/-- The first three conditions of R103 on a context's place table. -/
def tableOk (s : State) (ctx : Nat) : Bool :=
  let distinct (l : List Nat) : Bool := decide (l.dedup.length = l.length)
  let dies := (List.range 4).map (physDie s ctx)
  distinct dies && dies.all (fun d => decide (d < 4)) &&
  (List.range 12).all (fun ds =>
    let d := ds / 3
    let sc := ds % 3
    let p := 3 * physDie s ctx d + sc
    let cl := (List.range 8).map (physCluster s ctx d sc)
    let ar := (List.range 16).map (fun a => physArm s ctx d sc a - 17 * p)
    distinct cl && cl.all (fun c => decide (c < 9) && c != s.config.dcl.getD p 8) &&
    distinct ar && ar.all (fun a => decide (a < 17) && a != s.config.darm.getD p 16) &&
    (List.range 8).all (fun c =>
      let ks := (List.range 6).map (physCoreIn s ctx d sc c)
      distinct ks && (List.range 6).all (fun k => let x := ks.getD k 6; decide (x < 6) && (decide (k < 2) == decide (x < 2)))))

/-- The placing device of a launch's partition is the launch's (R349). -/
def mayPlace (s : State) (l : Launch) : Bool :=
  l.kind == 1 && (l.phase == .ready || l.phase == .running) && (partAt s l.part).placing == some l.vd && !(vdAt s l.vd).susp

/-- The plan for a launch's next teams where they can be placed now: a place table that R103 permits, room, and the image in every
cluster (R346, R348). -/
def placeable (s : State) (l : Launch) : Option (List Spot) :=
  if mayPlace s l && tableOk s l.ctx then
    match planNext s l true with
    | some plan => if plan.all (fun p => hasImage s p.core l.record.code) then some plan else none
    | none => none
  else none

/-- The teams of a plan start, and their launch counts them (R90, R91, R346). -/
def placeTeams (s : State) (id : Nat) (l : Launch) (plan : List Spot) : State :=
  let s1 := plan.foldl (fun st p => startTeam l p st) s
  let first := (plan.head?.map (·.cluster)).getD 0
  let ci := coreLevel l.record
  let news := (outerLevels l.record).filterMap (fun j =>
    let inst := l.placed / levelTeams l.record.levels j
    if l.units.any (fun u => u.1 == j && u.2.1 == inst) then none
    else some (j, inst, unitIn (((l.record.levels[ci + j]?).map (·.domain)).getD 7) first))
  updLaunch s1 id (fun l => { l with
    placed := l.placed + plan.length, live := l.live + plan.length, phase := .running, units := l.units ++ news })

/-- TEAM_PLACE (R90, R91, R346): the next team of a launch, or all teams of its next co-resident instance. -/
def execTeamPlace (id : Nat) (s : State) : Host.Outcome State Fault Refusal :=
  .next (match launchAt? s id with
    | none => s
    | some l =>
      match placeable s l with
      | none => s
      | some plan =>
        placeTeams s id l plan)

/-! ### The halt for a save (R198, R199, R201) -/

/-- Loads and reading promise operations become replay packets (R198, R317); one that holds or awaits a lock, or writes,
goes on until it has let go, and a `pwait` whose record is registered leaves that record behind. -/
def becomesPacket (f : Flight) : Bool :=
  match f.work with
  | .load _ => true
  | .promise => (f.op == .pwait || f.op == .ppoll || f.op == .pfind) && f.locks.isEmpty &&
      (match f.step with | .lock _ | .write => false | .waiting => f.op == .pwait | _ => true)
  | _ => false

/-- A load from global memory. -/
def isLoad (f : Flight) : Bool := match f.work with | .load _ => true | _ => false

/-- Groups of the teams of a save: a group that has migrated has left its team and goes only with its whole context. -/
def inSave (v : SaveSt) (g : Group) : Bool := v.ids.contains g.team && (v.whole || !g.moved)

/-- The arrival of one of some groups leaves the latch and is kept for the save (R232). -/
def withdrawArrival (us : List Nat) (m : MatrixSt) : MatrixSt :=
  match m.arrival with
  | some a => if us.contains a.uid then { m with arrival := none, withdrawn := some a } else m
  | none => m

/-- A request whose operation the save takes: it names none any more, and its slot's generation as before (R201). -/
def dropSource (r : Req) : Req :=
  { r with op := 0, src := match r.src with | .core _ k => .core 0 k | .prom _ k => .prom 0 k | x => x }

/-- Stop the groups of some teams in this clk and open their save (R199): generations advance (R201), loads become packets
where they still own a register (R200; one that owns none has nothing left to write and is complete, log 84), an arrival at a
rendezvous latch is kept with the matrix engine for the save alone (R232). -/
def haltTeams (s : State) (ctx : Nat) (whole : Bool) (ids : List Nat) : State :=
  match vdOfCtx? s ctx with
  | none => s
  | some vd =>
    let (id, s1) := newId s
    let b := vdAt s vd
    let v0 : SaveSt :=
      { id := id, ctx := ctx, vd := vd, part := b.part, whole := whole, area := b.save, count := 0, len := 0, depart := 0,
        done := false, held := false, ids := ids, teams := [], groups := [], flights := [], copies := [], mats := [], queues := [],
        cores := [], foot := [] }
    let mine := s1.groups.filter (inSave v0)
    let us := mine.map (·.uid)
    let takes (f : Flight) : Bool := us.contains f.uid && becomesPacket f
    let idle (f : Flight) : Bool := takes f && isLoad f && !(mine.any (fun g => g.owners.any (fun p => p.2 == f.id)))
    let v := { v0 with flights := s1.flights.filter (fun f => takes f && !(idle f)) }
    let s1 := (s1.flights.filter idle).foldl completeFlight s1
    let packs := v.flights.map (·.id)
    let s2 := { s1 with
      saves := s1.saves ++ [v]
      -- a reply to what a packet will send again finds no operation any more (R201)
      reqs := s1.reqs.map (fun r => if packs.contains r.op then dropSource r else r)
      walks := s1.walks.map (fun w => { w with ops := w.ops.filter (fun o => !(packs.contains o)) })
      flights := (s1.flights.filter (fun f => !(takes f))).map (fun f =>
        -- what is awaited goes on under the new generation (R198 before R201: DEDUCED, log 15)
        if us.contains f.uid then { f with gen := f.gen + 1 } else f)
      groups := s1.groups.map (fun g =>
        if inSave v0 g then
          { bumpGen g with halted := true, stop := g.stop.map (fun r => { r with saved := true }) }
        else g)
      cores := s1.cores.map (fun p => (p.1, { p.2 with mat := withdrawArrival us p.2.mat })) }
    mine.foldl (fun st g => noteGen st g.core g.slot (g.gen.toNat + 1)) s2

/-- PREEMPT (R199): every group of a context stops issuing, for a save of the whole context. -/
def execPreempt (ctx : Nat) (s : State) : Host.Outcome State Fault Refusal :=
  .next (if s.saves.any (fun v => v.ctx == ctx && v.whole && !v.done) then s
    else
      -- teams that a partial eviction is saving already go on with that save
      let out := (s.saves.filter (fun v => v.ctx == ctx && !v.done)).flatMap (·.ids)
      haltTeams s ctx true ((s.teams.filter (fun t => t.ctx == ctx && !(out.contains t.id))).map (·.id)))

/-- Whether a team is being saved. -/
def beingSaved (s : State) (id : Nat) : Bool := s.saves.any (fun v => !v.done && v.ids.contains id)

/-- Teams that hold members of one gang are one victim (R231). -/
def gangMates (s : State) (id : Nat) : List Nat :=
  match s.teams.find? (fun t => t.id == id) with
  | none => [id]
  | some t =>
    let m := matAt s t.core
    if m.team = some id && inGang m then (id :: (gangCores s t.ctx t.core).filterMap (fun k => (matAt s k).team)).dedup else [id]

/-- Highest of the lowest group slots decides last; a larger key is evicted first (R202): lowest priority, most recently
placed, highest lowest slot. -/
def victimKey (s : State) (t : Team) : Nat :=
  let low := (t.held ++ (s.groups.filter (fun g => g.team == t.id && g.core == t.core)).map (·.slot)).foldl min 63
  ((7 - t.prio) * 2 ^ 64 + t.order) * 64 + low

/-- Teams of other contexts on a core in the order of eviction (R202). -/
def victims (s : State) (ctx core : Nat) : List Team :=
  let ts := s.teams.filter (fun t => t.core == core && t.ctx != ctx && !(beingSaved s t.id))
  let rec pick : Nat → List Team → List Team
    | 0, _ => []
    | n + 1, l =>
      match l.foldl (fun (b : Option Team) t => match b with
          | none => some t
          | some x => if victimKey s x < victimKey s t then some t else some x) none with
      | none => []
      | some t => t :: pick n (l.filter (fun x => x.id != t.id))
  pick ts.length ts

/-- Whether a core takes `n` teams of a launch under R89 once some teams have gone, those that are being saved already among them
(R202). -/
def fitsWithout (s : State) (l : Launch) (core n : Nat) (gone : List Nat) : Bool :=
  let s1 := { s with teams := s.teams.filter (fun t => !(gone.contains t.id) && !(beingSaved s t.id)) }
  decide (0 < n) && fitsCore s1 l true core (n - 1)

/-- The teams that must leave a core for `n` teams of a launch: no more than it needs (R202), and every matrix team of
another context for a matrix team. -/
def evictees (s : State) (l : Launch) (core n : Nat) : List Nat :=
  let vs := victims s l.ctx core
  let k := ((List.range (vs.length + 1)).find? (fun k => fitsWithout s l core n ((vs.take k).map (·.id)))).getD vs.length
  let mats := if l.record.nmat = 0 then [] else (vs.filter (·.matrix)).map (·.id)
  ((((vs.take k).map (·.id)) ++ mats).dedup.map (gangMates s)).flatten.dedup

/-- The core that must be cleared for a launch: with other contexts' teams disregarded its next teams fit, with them they
do not (R202). -/
def evictCore? (s : State) (l : Launch) : Option (Nat × Nat) :=
  if !(mayPlace s l) || (planNext s l true).isSome then none
  else
    match planNext s l false with
    | none => none
    | some plan =>
      ((plan.map (·.core)).dedup.map (fun c => (c, (plan.filter (fun p => p.core == c)).length))).find? (fun x =>
        !(roomFor s l true x.1 (x.2 - 1)) && !(evictees s l x.1 x.2).isEmpty)

/-- Open the saves of some teams, one for each context (R202). -/
def evictTeams (s : State) (ids : List Nat) : State :=
  let ts := s.teams.filter (fun t => ids.contains t.id && !(beingSaved s t.id))
  ((ts.map (·.ctx)).dedup).foldl (fun st c => haltTeams st c false ((ts.filter (fun t => t.ctx == c)).map (·.id))) s

/-- PARTIAL_EVICTION (R202). -/
def execPartialEviction (launch core : Nat) (s : State) : Host.Outcome State Fault Refusal :=
  .next (match launchAt? s launch with
    | none => s
    | some l =>
      match evictCore? s l with
      | none => s
      | some (c, n) => if c = core then evictTeams s (evictees s l c n) else s)

/-! ### Code stores (R348, R368) -/

/-- Load address, length and wait masks of the image at an address (R368). -/
def imageOf (s : State) (code : Nat) : Image :=
  let h := leNat (directRead s code 64)
  ⟨code, bits h 255 237, bits h 236 217, (List.range 8).map (fun i => BitVec.ofNat 16 (bits h (399 + 16 * i) (384 + 16 * i)))⟩

/-- Teams on a cluster whose image overlaps a new image's range (R348). -/
def imageVictims (s : State) (cluster : Nat) (i : Image) : List Team :=
  let cs := (mfind cluster s.codes).getD CodeStore.empty
  s.teams.filter (fun t => t.core != 1000 && coreCluster t.core == cluster &&
    (match launchAt? s t.launch with
      | none => false
      | some l => cs.images.any (fun x => x.code == l.record.code && imagesOverlap x i)))

/-- Whether a load of a launch's image can go on in a cluster: none is under way, and no team of the same context keeps an
overlapping image (R348). -/
def loadReady (s : State) (cluster : Nat) (l : Launch) : Bool :=
  let cs := (mfind cluster s.codes).getD CodeStore.empty
  let vs := imageVictims s cluster (imageOf s l.record.code)
  cs.loading.isNone && vs.all (fun t => t.ctx != l.ctx) && (vs.isEmpty || vs.any (fun t => !(beingSaved s t.id)))

/-- The image is written at its load address and takes the place of what it overlaps. -/
def writeImage (s : State) (cluster : Nat) (i : Image) : State :=
  let cs := (mfind cluster s.codes).getD CodeStore.empty
  let bytes := (List.range i.len).filterMap (fun n =>
    if i.load + n < 524288 then some (i.load + n, readByte (frontMem s) (i.code + 64 + n)) else none)
  let cs1 : CodeStore := ⟨msetAll 0 bytes cs.bytes, cs.images.filter (fun x => !(imagesOverlap x i) && x.code != i.code) ++ [i], none⟩
  { s with codes := mput cluster cs1 s.codes }

/-- A cluster's groups stop for 32 clk and one for each 64 bytes of an image (R348). -/
def startLoad (s : State) (cluster launch : Nat) (i : Image) : State :=
  let die := cluster / 27
  let n := 32 + (i.len + 63) / 64
  let cs := (mfind cluster s.codes).getD CodeStore.empty
  afterClk { s with codes := mput cluster { cs with loading := some (dieClk s die + n, i) } s.codes } die n 0
    (.codeStoreLoad cluster launch)

/-- CODE_STORE_LOAD (R348): teams of other contexts with overlapping images are evicted; then the cluster's groups stop, and
the image is written 32 clk and one clk for each 64 bytes later. -/
def execCodeStoreLoad (cluster launch : Nat) (s : State) : Host.Outcome State Fault Refusal :=
  .next (match launchAt? s launch with
    | none => s
    | some l =>
      let i := imageOf s l.record.code
      let die := cluster / 27
      match ((mfind cluster s.codes).getD CodeStore.empty).loading with
      | some t => if t.1 ≤ dieClk s die then writeImage s cluster t.2 else s
      | none =>
        if !(loadReady s cluster l) then s
        else
          match imageVictims s cluster i with
          | [] =>
            startLoad s cluster launch i
          | v :: vs => evictTeams s ((v :: vs).map (·.id)))

/-! ### The placing device (R349, R350) -/

/-- A save of a device's context waits to be restored. -/
def restorable (s : State) (v : Nat) : Bool :=
  s.saves.any (fun x => x.vd == v && x.held) && s.saves.all (fun x => x.vd != v || x.done)

/-- A virtual device is eligible (R349): valid, not suspended, and with a launch ready to place, or saved teams to bring
back; a launch in the operating-point hold counts, since the hold is charged to the device (R92). -/
def isEligible (s : State) (v : Nat) : Bool :=
  let b := vdAt s v
  b.valid && !b.susp &&
  (restorable s v || s.launches.any (fun l => l.vd == v && l.kind == 1 &&
    (l.phase == .held || l.phase == .ready || (l.phase == .running && decide (l.placed < l.total)))))

/-- Devices of a partition, ascending. -/
def partVds (s : State) (part : Nat) : List Nat := ((s.vds.filter (fun p => p.2.valid && p.2.part == part)).map (·.1))

/-- The device with the least virtual time, the lower number on a tie. -/
def leastVt (s : State) (vs : List Nat) : Option Nat :=
  vs.foldl (fun (b : Option Nat) v => match b with
    | none => some v
    | some x => if (vdAt s v).vt < (vdAt s x).vt then some v else some x) none

/-- A device that becomes eligible takes at least the least virtual time (R349). -/
def eligibleTick (s : State) : State :=
  (s.vds.map (·.1)).foldl (fun st v =>
    let b := vdAt st v
    let now := isEligible st v
    if now && !b.eligible then
      let pos := (partVds st b.part).filter (fun x => x != v && (vdAt st x).eligible && (vdAt st x).weight != 0)
      let least := ((leastVt st pos).map (fun x => (vdAt st x).vt)).getD b.vt
      updVd st v (fun b => { b with eligible := true, vt := max b.vt least })
    else if b.eligible && !now then updVd st v (fun b => { b with eligible := false })
    else st) s

/-- A scheduling point falls due in a partition (R349). -/
def pointDue (s : State) (part : Nat) : Bool :=
  let p := partAt s part
  match p.placing with
  | some v => !((vdAt s v).eligible) || decide (p.chosenAt + (vdAt s v).quant ≤ timeNs s)
  | none => (partVds s part).any (fun v => (vdAt s v).eligible)

/-- The placing device's virtual time is charged, and the eligible device of least virtual time places next; without one of
positive weight, those of weight 0 in turn (R349). -/
def choosePlacing (s : State) (part : Nat) : State :=
  let p := partAt s part
  let s1 := match p.placing with
    | none => s
    | some v => updVd s v (fun b =>
        if b.weight = 0 then b else { b with vt := b.vt + (timeNs s - p.chosenAt) * 65536 / b.weight })
  let el := (partVds s1 part).filter (fun v => (vdAt s1 v).eligible)
  let pos := el.filter (fun v => (vdAt s1 v).weight != 0)
  match leastVt s1 pos with
  | some v => updPart s1 part (fun p => { p with placing := some v, chosenAt := timeNs s })
  | none =>
    let order := (List.range 64).map (fun i => (p.lastZero + 1 + i) % 64)
    match order.find? (fun v => el.contains v) with
    | some v => updPart s1 part (fun p => { p with placing := some v, chosenAt := timeNs s, lastZero := v })
    | none => updPart s1 part (fun p => { p with placing := none })

/-- SCHEDULING_POINT (R349). -/
def execSchedulingPoint (part : Nat) (s : State) : Host.Outcome State Fault Refusal :=
  .next (
    if !(pointDue s part) then s
    else
      choosePlacing s part)

end Sys2Proof.Machine
end

