-- ==== Sys2Proof/Machine/Crypto.lean ====
section
/-!
DEFINITION. The standard algorithms that the manual names: SHA-384 (FIPS 180-4), HKDF (RFC 5869), AES-256 (FIPS 197), GMAC
(NIST SP 800-38D) for the tags of save areas (R206), and ECDSA over P-384 (FIPS 186-5) for the configuration record (R370).
-/
namespace Sys2Proof.Machine

/-! ### SHA-384 -/

/-- The largest r below 2⁷² whose k-th power is at most x. -/
def rootFloor (k x : Nat) : Nat :=
  (List.range 72).foldl (fun r i => if (r + 2 ^ (71 - i)) ^ k ≤ x then r + 2 ^ (71 - i) else r) 0

/-- The prime numbers up to 409, which are the first eighty. -/
def hashPrimes : List Nat :=
  (List.range 410).filter (fun p => 2 ≤ p && (List.range 21).all (fun d => d < 2 || p ≤ d || p % d != 0))

/-- The constants of the rounds: 64 bits of the fractions of the cube roots of those primes. -/
def roundWords : List (BitVec 64) := hashPrimes.map (fun p => BitVec.ofNat 64 (rootFloor 3 (p * 2 ^ 192)))

/-- Where SHA-384 starts: 64 bits of the fractions of the square roots of the ninth to the sixteenth prime. -/
def startWords : List (BitVec 64) :=
  ((hashPrimes.drop 8).take 8).map (fun p => BitVec.ofNat 64 (rootFloor 2 (p * 2 ^ 128)))

/-- A number from bytes, most significant first. -/
def beNat (bs : List Byte) : Nat := bs.foldl (fun a b => 256 * a + b.toNat) 0

/-- The `n` bytes of a number, most significant first. -/
def beBytes (n x : Nat) : List Byte := (leBytes n x).reverse

/-- The exclusive or of a word's right rotations, over some first word. -/
def turnXor (first x : BitVec 64) (turns : List Nat) : BitVec 64 := turns.foldl (fun a r => a ^^^ x.rotateRight r) first

/-- One round on the sixteen words that the schedule still needs, the oldest first, and the eight working variables: the
oldest word is used up, and the word sixteen places later comes in. -/
def hashTurn (wv : List (BitVec 64) × List (BitVec 64)) (k : BitVec 64) : List (BitVec 64) × List (BitVec 64) :=
  let w := fun i => wv.1.getD i 0
  let v := fun i => wv.2.getD i 0
  let later := w 0 + turnXor (w 1 >>> 7) (w 1) [1, 8] + w 9 + turnXor (w 14 >>> 6) (w 14) [19, 61]
  let select := v 6 ^^^ (v 4 &&& (v 5 ^^^ v 6))
  let most := (v 0 &&& v 1) ||| (v 2 &&& (v 0 ||| v 1))
  let mixed := k + w 0 + v 7 + select + turnXor 0 (v 4) [14, 18, 41]
  let out := (wv.2.take 7).set 3 (v 3 + mixed)
  (wv.1.drop 1 ++ [later], (mixed + most + turnXor 0 (v 0) [28, 34, 39]) :: out)

/-- The bytes cut into pieces of `n`. -/
def pieces (n : Nat) (bs : List Byte) : List (List Byte) :=
  (List.range (bs.length / n)).map (fun i => (bs.drop (n * i)).take n)

/-- SHA-384 of some bytes: they are followed by a one bit, by zeros and by their length in bits in 16 bytes, so that whole
blocks of 128 bytes result; each block goes through eighty rounds. -/
def sha384 (bs : List Byte) : List Byte :=
  let whole := bs ++ 0x80 :: List.replicate ((239 - bs.length % 128) % 128) 0 ++ beBytes 16 (8 * bs.length)
  let last := (pieces 128 whole).foldl (fun h block =>
    let words := (pieces 8 block).map (fun b => BitVec.ofNat 64 (beNat b))
    h.zipWith (· + ·) (roundWords.foldl hashTurn (words, h)).2) startWords
  (last.take 6).flatMap (fun w => beBytes 8 w.toNat)

/-- HMAC with SHA-384, for keys of at most 128 bytes. -/
def hmac384 (key msg : List Byte) : List Byte :=
  let k := key ++ List.replicate (128 - key.length) 0
  sha384 (k.map (· ^^^ 0x5c) ++ sha384 (k.map (· ^^^ 0x36) ++ msg))

/-- HKDF with SHA-384 and an output of at most 48 bytes: one block of its expansion. -/
def hkdf384 (ikm salt info : List Byte) (n : Nat) : List Byte := (hmac384 (hmac384 salt ikm) (info ++ [1])).take n

/-! ### AES-256 -/

/-- Multiplication by x in the field of AES. -/
def gfDouble (x : Byte) : Byte := if x.getLsbD 7 then (x <<< 1) ^^^ 0x1b else x <<< 1

/-- Multiplication in the field of AES. -/
def gfMul (x y : Byte) : Byte :=
  ((List.range 8).foldl (fun (a : Byte × Byte) i => (if y.getLsbD i then a.1 ^^^ a.2 else a.1, gfDouble a.2)) (0, x)).1

/-- The inverse, as the power 254; 0 for 0. -/
def gfInv (x : Byte) : Byte := (List.range 7).foldl (fun a _ => gfMul (gfMul a a) x) 1 |> fun a => gfMul a a

/-- The substitution of AES. -/
def aesSub (x : Byte) : Byte :=
  let i := gfInv x
  i ^^^ i.rotateLeft 1 ^^^ i.rotateLeft 2 ^^^ i.rotateLeft 3 ^^^ i.rotateLeft 4 ^^^ 0x63

def xorBytes (a b : List Byte) : List Byte := a.zipWith (· ^^^ ·) b

/-- One word more of the key schedule, which holds its words newest first, and the next round constant. -/
def aesNextWord (a : List (List Byte) × Byte) (j : Nat) : List (List Byte) × Byte :=
  let t := a.1.headD []
  let turned := if j % 8 = 0 then xorBytes ((t.drop 1 ++ t.take 1).map aesSub) [a.2, 0, 0, 0] else if j % 8 = 4 then t.map aesSub else t
  (xorBytes (a.1.getD 7 []) turned :: a.1, if j % 8 = 0 then gfDouble a.2 else a.2)

/-- The sixty words of the key schedule, newest first. -/
def aesWords (key : List Byte) : List (List Byte) :=
  ((List.range 52).foldl aesNextWord (((List.range 8).map (fun i => (key.drop (4 * i)).take 4)).reverse, (1 : Byte))).1

/-- The sixteen bytes of round key `r`. -/
def roundKey (ws : List (List Byte)) (r : Nat) : List Byte := ((List.range 4).map (fun i => ws.getD (4 * r + i) [])).flatten

/-- The rows of the state shifted; the state is held column by column. -/
def aesShift (st : List Byte) : List Byte := (List.range 16).map (fun i => st.getD ((i + 4 * (i % 4)) % 16) 0)

/-- The columns of the state mixed. -/
def aesMix (st : List Byte) : List Byte :=
  (List.range 16).map (fun i =>
    let b (k : Nat) : Byte := st.getD (i / 4 * 4 + (i + k) % 4) 0
    gfDouble (b 0) ^^^ (gfDouble (b 1) ^^^ b 1) ^^^ b 2 ^^^ b 3)

/-- AES-256 of one block. -/
def aes256 (key block : List Byte) : List Byte :=
  let ws := (aesWords key).reverse
  let st := (List.range 13).foldl (fun st r => xorBytes (aesMix (aesShift (st.map aesSub))) (roundKey ws (r + 1)))
    (xorBytes block (roundKey ws 0))
  xorBytes (aesShift (st.map aesSub)) (roundKey ws 14)

/-! ### GMAC -/

/-- The product of two blocks in the field of GCM, blocks as numbers whose most significant bit is bit 0 of the standard. -/
def ghashMul (x y : BitVec 128) : BitVec 128 :=
  ((List.range 128).foldl (fun (a : BitVec 128 × BitVec 128) i =>
    (if x.getMsbD i then a.1 ^^^ a.2 else a.1, if a.2.getLsbD 0 then (a.2 >>> 1) ^^^ (0xe1#128 <<< 120) else a.2 >>> 1)) (0, y)).1

/-- GHASH of whole blocks. -/
def ghash (h : BitVec 128) (bs : List Byte) : BitVec 128 :=
  (List.range ((bs.length + 15) / 16)).foldl (fun y i =>
    let b := (bs.drop (16 * i)).take 16
    ghashMul (y ^^^ BitVec.ofNat 128 (beNat (b ++ List.replicate (16 - b.length) 0))) h) 0

/-- GMAC with AES-256 and a 96-bit IV: the tag of additional data with no plaintext. -/
def gmac (key iv aad : List Byte) : List Byte :=
  let h := BitVec.ofNat 128 (beNat (aes256 key (List.replicate 16 0)))
  let pad := List.replicate ((16 - aad.length % 16) % 16) (0 : Byte)
  let y := ghash h (aad ++ pad ++ beBytes 8 (8 * aad.length) ++ List.replicate 8 0)
  xorBytes (beBytes 16 y.toNat) (aes256 key (iv ++ [0, 0, 0, 1]))

/-! ### ECDSA over P-384 -/

def p384P : Nat := 2 ^ 384 - 2 ^ 128 - 2 ^ 96 + 2 ^ 32 - 1
def p384N : Nat := 0xffffffffffffffffffffffffffffffffffffffffffffffffc7634d81f4372ddf581a0db248b0a77aecec196accc52973
def p384B : Nat := 0xb3312fa7e23ee7e4988e056be3f82d19181d9c6efe8141120314088f5013875ac656398d8a2ed19d2a85c8edd3ec2aef
/-- The base point. -/
def p384G : Nat × Nat :=
  (0xaa87ca22be8b05378eb1c71ef320ad746e1d3b628ba79b9859f741e082542a385502f25dbf55296c3a545e3872760ab7,
   0x3617de4a96262c6f5d9e98bf9292dc29f8f41dbd289a147ce9da3113b5f0b8c00a60b1ce1d7e819d7a431d7c90ea0e5f)

/-- A power modulo m, for exponents below 2^384. -/
def powMod (m b e : Nat) : Nat :=
  ((List.range 384).foldl (fun (a : Nat × Nat) i => (if e.testBit i then a.1 * a.2 % m else a.1, a.2 * a.2 % m)) (1, b % m)).1

/-- The inverse modulo a prime. -/
def invMod (m x : Nat) : Nat := powMod m x (m - 2)

/-- Addition of points; none is the point at infinity. -/
def ecAdd (a b : Option (Nat × Nat)) : Option (Nat × Nat) :=
  match a, b with
  | none, q => q
  | q, none => q
  | some (x1, y1), some (x2, y2) =>
    let p := p384P
    if x1 = x2 ∧ (y1 + y2) % p = 0 then none
    else
      let l := if x1 = x2 then (3 * x1 * x1 + p - 3) * invMod p (2 * y1) % p else (y2 + p - y1) * invMod p ((x2 + p - x1) % p) % p
      let x := (l * l + 2 * p - x1 - x2) % p
      some (x, (l * (x1 + p - x) + p - y1) % p)

/-- A multiple of a point. -/
def ecMul (k : Nat) (q : Option (Nat × Nat)) : Option (Nat × Nat) :=
  ((List.range 384).foldl (fun (a : Option (Nat × Nat) × Option (Nat × Nat)) i =>
    (if k.testBit i then ecAdd a.1 a.2 else a.1, ecAdd a.2 a.2)) (none, q)).1

/-- ECDSA verification with SHA-384: a signature is r and s, 48 bytes each, most significant first. -/
def ecdsaOk (key : Nat × Nat) (msg sig : List Byte) : Bool :=
  let r := beNat (sig.take 48)
  let s := beNat (sig.drop 48)
  if r = 0 ∨ s = 0 ∨ p384N ≤ r ∨ p384N ≤ s then false
  else
    let w := invMod p384N s
    match ecAdd (ecMul (beNat (sha384 msg) * w % p384N) (some p384G)) (ecMul (r * w % p384N) (some key)) with
    | none => false
    | some (x, _) => x % p384N == r

end Sys2Proof.Machine
end

