-- ==== Sys2Proof/Machine/Save.lean ====
section
/-!
DEFINITION. Context saves and restores (R198, R200, R203 to R208, R226, R232, R275, R317, R337), and the suspension of a
virtual device (R351).
-/
namespace Sys2Proof.Machine

/-! ### Whether a save may complete (R198) -/

/-- Work that a save takes with it instead of awaiting it (R198, R317, R337): a waiting `mclaim` too, where no work in flight will
free its slots (DEDUCED, log 56), so that it cannot complete before the save. -/
def savedWork (s : State) (f : Flight) : Bool :=
  match f.work with
  | .callv _ _ _ | .launchWait _ | .migrate _ | .coll _ => true
  | .claim mask => (match groupAt? s f.uid with | some g => !(claimFree s g mask) | none => true)
  | .promise => f.op == .pwait && f.step == .waiting
  | _ => false

/-- A command stands where a save may take it: not started, or stopped at a portion with everything read placed (R275). -/
def cmdStopped (c : CopyCmd) : Bool :=
  isColl c.op || c.phase == .waiting ||
  (c.phase != .signalled && c.reads.isEmpty && (c.landed == c.sent || c.op == .xprf) &&
    (c.phase == .parked || atPortion c || c.sent == c.total || c.op == .xhand))

/-- The bytes of a command that need not be copied again (R275). -/
def placedBytes (c : CopyCmd) : Nat := if c.op = .xprf then c.sent else c.landed

/-- The record of a group that stopped has been delivered, or waits for room in its queue (R193, R199). -/
def recordOut (s : State) (g : Group) : Bool :=
  match g.stop with
  | none => true
  | some r => r.delivered || !(isPageRec r || (match groupVd? s g with | some v => queueRoom (vdAt s v) | none => false))

/-- Writes of some groups whose requests have not all been performed and acknowledged: a save awaits each, for the completion horizon
that it keeps (R176, R198). -/
def writesOut (s : State) (us : List Nat) : Bool :=
  s.reqs.any (fun r => us.contains r.uid && asksWrite r.ask && !(fromEngine r.src) && r.phase != .done)

/-- Every group of a save has drained (R198): its awaited work is complete, and the record of a stopped group is delivered as
well as saved (R199). -/
def saveReady (s : State) (v : SaveSt) : Bool :=
  let us := (s.groups.filter (inSave v)).map (·.uid)
  !v.done && s.flights.all (fun f => !(us.contains f.uid) || savedWork s f) && !(writesOut s us) &&
  s.cmds.all (fun c => !(us.contains c.uid) || cmdStopped c) &&
  s.groups.all (fun g => !(us.contains g.uid) || ((decide (g.aborts = []) || g.stop.isSome) && recordOut s g))

/-! ### The bytes of the area (R203 to R205, R232) -/

def b1 (x : Bool) (n : Nat) : Nat := if x then 2 ^ n else 0

/-- The state of a team barrier (R128). -/
def barBytes (b : TeamBar) : List Byte :=
  leBytes 8 (b1 b.phase 56 + b.exp * 2 ^ 48 + b.count * 2 ^ 40 + b.drops * 2 ^ 32 + b.pend)

/-- A ring header (R25). -/
def ringHeader (r : Ring) : Nat := b1 r.popph 24 + r.popix * 2 ^ 16 + b1 r.pushph 8 + r.pushix

/-- A team record (R203). -/
def teamBytes (t : Team) : List Byte :=
  ((List.range 16).map (fun b => barBytes (mget ⟨false, 0, 0, 0, 0, 0⟩ b t.bars))).flatten ++
  ((List.range 8).map (fun n => leBytes 8 (mget 0 n t.evts).toNat)).flatten ++
  ((List.range 16).map (fun q => leBytes 4 (((mfind q t.rings).map ringHeader).getD 0))).flatten

/-- Team storage (R203): the data allocation, then header and entries of each declared ring, to a whole KiB. -/
def storageBytes (t : Team) : List Byte :=
  let d := readBytes t.spad 0 (1024 * t.spadKiB) ++
    (t.rings.map (fun p => leBytes 4 (ringHeader p.2) ++
      ((List.range p.2.depth).map (fun i => leBytes 4 (mget 0 i p.2.ents).toNat)).flatten)).flatten
  (d ++ List.replicate (1024 * t.storeKiB - d.length) 0).take (1024 * t.storeKiB)

/-- Logical number of a physical core in a save: 6 × logical cluster + core. -/
def logNumber (v : SaveSt) (core : Nat) : Nat := (mfind core v.cores).getD 0

/-- A split place and its arms (R205): the sub-layout is the model's (log 14). -/
def splitBytes (sp : Option Split) : List Byte :=
  match sp with
  | none => List.replicate 16 0
  | some sp => leBytes 8 (sp.pc % 2 ^ 19 + 2 ^ 19 + sp.mask.toNat * 2 ^ 32) ++ leBytes 8 sp.stamp
def armBytes (g : Group) : List Byte :=
  let as := (g.splits.map (fun sp => sp.arms.map (fun a => (sp.place, a)))).flatten.take 32
  (as.map (fun p => leBytes 8 (p.2.pc % 2 ^ 19 + p.1 * 2 ^ 19 + 2 ^ 21 + p.2.mask.toNat * 2 ^ 32))).flatten ++
    List.replicate (8 * (32 - as.length)) 0

/-- A group record (R205), with the number of its replay packets. -/
def groupBytes (g : Group) (packets : Nat) : List Byte :=
  let full (c : RegClass) (n : Nat) : List Byte :=
    leBytes (n / 8) (((List.range n).map (fun r => if isEmptyReg g ⟨c, r⟩ then 0 else 2 ^ r)).sum)
  let bars := ((List.range 16).map (fun b =>
    let x := barBits g b
    b1 x.arv (16 + 3 * b) + b1 x.aph (17 + 3 * b) + b1 x.drop (18 + 3 * b))).sum
  ((List.range 4).map (fun p => splitBytes (splitAt? g p))).flatten ++ armBytes g ++
  ((List.range 64).map (fun r => leBytes 8 (sread g r).toNat)).flatten ++
  ((List.range 8).map (fun r => leBytes 4 (kread g r).toNat)).flatten ++
  full .v 256 ++ full .s 64 ++ full .k 8 ++ List.replicate 7 0 ++
  leBytes 8 (g.flags.toNat + bars) ++ leBytes 8 g.seed.toNat ++ leBytes 8 g.rgn.toNat ++ leBytes 8 g.horizon ++
  leBytes 8 ((g.sleep.map (·.1)).getD (2 ^ 64 - 1)) ++ leBytes 4 g.mres.toNat ++ leBytes 2 g.gen.toNat ++ leBytes 1 g.mcap ++
  leBytes 1 g.prio ++
  leBytes 1 (b1 (g.nr || !g.nrMay.isEmpty) 0 + b1 g.stop.isSome 1 + b1 g.sleep.isSome 2 + b1 (g.splits.any (·.calling.isSome)) 3 +
    b1 g.callee 4) ++
  leBytes 1 (if g.role == .vector then 0 else if g.role == .matrix then 1 else 2) ++ leBytes 2 packets ++ List.replicate 60 0

/-- The vector registers of a group (R203). -/
def vregBytes (g : Group) (n : Nat) : List Byte :=
  ((List.range n).map (fun r => ((List.range 32).map (fun l => leBytes 4 (vread g r l).toNat)).flatten)).flatten

/-- Flights of a save that become packets: loads and reading promise operations (R200, R317). -/
def packetFlight (f : Flight) : Bool :=
  match f.work with
  | .load _ | .promise => true
  | _ => false

/-- A load's replay packet (R200): its contents in a layout of the model's (log 14). -/
def loadPacket (f : Flight) : List Byte :=
  let addr (l : Nat) : Nat := ((f.lanes.find? (fun a => a.lane == l)).map (·.va)).getD 0
  leBytes 4 (opCode f.op + f.f.ty.toNat * 2 ^ 9 + f.f.opx.toNat * 2 ^ 14 + f.f.d.toNat * 2 ^ 23) ++
  leBytes 4 (f.f.sc.toNat + f.setf * 2 ^ 8) ++ leBytes 4 f.sel.toNat ++ List.replicate 52 0 ++
  ((List.range 32).map (fun l => leBytes 8 (addr l))).flatten

/-- A copy command's replay packet (R275). -/
def copyPacket (c : CopyCmd) : List Byte :=
  leBytes 4 (2 ^ 31 + opCode c.op) ++ leBytes 4 (c.f.opx.toNat + c.f.setf.toNat * 2 ^ 16 + c.f.sc.toNat * 2 ^ 24) ++
  leBytes 8 (placedBytes c) ++ leBytes 8 c.dest ++ leBytes 8 c.src ++
  leBytes 8 (if c.op = .xfill then c.value.toNat else if c.op = .xhand then c.f.d.toNat * 2 ^ 32 + c.value.toNat else c.total) ++
  (List.range 4).flatMap (fun i => leBytes 4 (descField c.desc i)) ++ (List.range 4).flatMap (fun i => leBytes 8 (descField c.desc (4 + i))) ++
  List.replicate 16 0 ++ List.replicate 216 0

/-- A matrix state block (R232), 790,784 bytes. -/
def matBytes (m : MatrixSt) : List Byte :=
  let l := m.loop
  readBytes m.slots 0 524288 ++
  ((List.range 65536).map (fun i => leBytes 4 (mget 0 i m.acc).toNat)).flatten ++
  ((List.range 512).map (fun i => leBytes 4 (mget 0 i m.cb).toNat)).flatten ++
  ((List.range 256).map (fun i => leBytes 4 (mxAt m i).toNat)).flatten ++
  ((List.range 256).map (fun i => leBytes 4 (mget 0 i m.lx).toNat)).flatten ++
  ((List.range 16).map (fun i => leBytes 4 (coefAt m i).toNat)).flatten ++
  leBytes 32 (l.res0.toNat * 2 ^ 224 + l.res1.toNat * 2 ^ 192 + l.res2.toNat * 2 ^ 160 + l.thr.toNat * 2 ^ 128 + l.n * 2 ^ 55 +
    l.cap * 2 ^ 47 + l.step * 2 ^ 39 + l.phase * 2 ^ 36 + l.rise * 2 ^ 34 + l.kind * 2 ^ 32 + l.xq * 2 ^ 30 + l.slot * 2 ^ 24) ++
  leBytes 8 (m.resf.toNat * 2 ^ 32 + m.steps * 2 ^ 24 + m.out) ++
  leBytes 4 (m.gang.size * 2 ^ 27 + m.gang.grm1 * 2 ^ 26 + m.gang.gcm1 * 2 ^ 24 + m.gang.row * 2 ^ 23 + m.gang.col * 2 ^ 21 +
    m.gang.mask * 2 ^ 15 + m.gang.seq) ++
  leBytes 4 (if m.withdrawn.isSome then 2 ^ 31 + m.gang.seq % 2 ^ 12 else 0) ++
  (List.range 16).flatMap (fun o => leBytes 1 (match mget 0 o m.claims with | 0 => 0 | k + 1 => 2 ^ 7 + k % 2 ^ 6)) ++
  List.replicate 128 0

/-- A core record (R203): bindings of the callee queues with the number of their entries in the item store, those of every save that
it holds, and the owner of the matrix state, in a layout of the model's (log 14). -/
def coreBytes (v : SaveSt) (core : Nat) : List Byte :=
  let qs := (v.queues.filter (fun p => p.1 == core)).flatMap (·.2)
  let own := ((v.mats.find? (fun p => p.1 == core)).bind (·.2.team)).getD 0
  ((List.range 32).map (fun n =>
    match qs[n]? with
    | none => leBytes 8 (if n = 0 then own % 2 ^ 16 * 2 ^ 47 else 0)
    | some q => leBytes 8 (q.pc % 2 ^ 19 + q.items.length * 2 ^ 19 + q.team % 2 ^ 16 * 2 ^ 31 + 2 ^ 63 +
        (if n = 0 then own % 2 ^ 16 * 2 ^ 47 else 0)))).flatten

/-- An outer-level barrier's state (R132). -/
def outerBytes (b : OuterBar) : List Byte := leBytes 16 (b1 b.phase 72 + b.exp * 2 ^ 48 + b.count * 2 ^ 24 + b.drops)

/-- The outer-level barriers of the instances that a save's teams belong to (R132, R203): sixteen for each co-resident level
of each instance, in ascending level, instance and barrier number; one that nothing has used stands in its first state. -/
def heldOuter (s : State) (v : SaveSt) : List OuterBar :=
  let recs := (v.teams.map (·.launch)).dedup.filterMap (launchAt? s)
  (List.range 7).flatMap (fun i => recs.flatMap (fun l =>
    let r := l.record
    if ((r.levels[coreLevel r + i + 1]?).map (·.cor)).getD false then
      let insts := ((v.teams.filter (fun t => t.launch == l.id)).map (fun t => t.num / levelTeams r.levels (i + 1))).dedup
      (sortBy (fun a b : Nat => decide (a ≤ b)) insts).flatMap (fun n => (List.range 16).map (fun b =>
        let key := 16 * (i + 1) + b
        (s.outer.find? (fun x => x.launch == l.id && x.inst == n && x.key == key)).getD
          ⟨l.id, n, key, false, recGroups r * levelTeams r.levels (i + 1), 0, 0⟩))
    else []))

/-- The area after its header (R203). -/
def bodyBytes (s : State) (v : SaveSt) : List Byte :=
  let v1 (g : Group) : Nat := ((v.teams.find? (fun t => t.id == g.team)).map (·.vregs)).getD 0
  let packs (g : Group) : List Flight := v.flights.filter (fun f => f.uid == g.uid && packetFlight f)
  let cops (g : Group) : List CopyCmd := v.copies.filter (fun c => c.uid == g.uid && !(isColl c.op))
  let outs := heldOuter s v
  (v.foot.map (fun p =>
    let n := p.1 / 6
    leBytes 8 (n / 24 * 2 ^ 56 + n / 8 % 3 * 2 ^ 48 + n % 8 * 2 ^ 40 + p.1 % 6 * 2 ^ 32 + p.2))).flatten ++
  (v.cores.map (fun p => coreBytes v p.1)).flatten ++ (v.mats.map (fun p => matBytes p.2)).flatten ++
  (v.teams.map teamBytes).flatten ++ (outs.map outerBytes).flatten ++ (v.teams.map storageBytes).flatten ++
  (v.groups.map (fun g => groupBytes g ((packs g).length + (cops g).length))).flatten ++
  (v.groups.map (fun g => vregBytes g (v1 g))).flatten ++
  (v.groups.map (fun g => (packs g).flatMap loadPacket ++ (cops g).flatMap copyPacket)).flatten ++
  (v.groups.map (fun g => match g.stop with | some r => recordBytes s g r | none => [])).flatten

/-- Bits 383:0 of a header (R204). -/
def headerLow (s : State) (v : SaveSt) (len : Nat) : Nat :=
  len * 2 ^ 320 + v.ctx * 2 ^ 288 + v.foot.length * 2 ^ 272 + 2 ^ 264 + 2 ^ 256 + v.depart * 2 ^ 192 +
    s.config.serial.toNat * 2 ^ 128 + v.count * 2 ^ 64

/-- The save-area key of this boot (R206, R370 step 5). -/
def saveKey (s : State) : List Byte :=
  hkdf384 s.config.kseed (leBytes 8 s.config.serial.toNat) (leBytes 32 (Config.bootNonce s.bootNo).toNat) 32

/-- The tag of an area (R206), from the low 48 bytes of its header and what follows the header. -/
def areaTag (s : State) (ctx count : Nat) (low body : List Byte) : List Byte :=
  gmac (saveKey s) (beBytes 4 ctx ++ beBytes 8 count) (low ++ body)

/-! ### SAVE_COMPLETE -/

/-- The held save of a device's context, which a further save takes in. -/
def heldSave? (s : State) (vd : Nat) : Option SaveSt := s.saves.find? (fun v => v.vd == vd && v.held)

/-- A matrix engine as a save holds it (R226, R227): what its array still waits for counts from the clk of the save, and its
interlocks are at rest. -/
def matRest (m : MatrixSt) (clk : Nat) : MatrixSt :=
  { m with startAt := m.startAt - clk, endAt := m.endAt - clk, marked := 0, rose := [], fell := [] }

/-- What a save holds: the state of its teams as it stands, and what an earlier save of the context still holds. -/
def fillSave (s : State) (v : SaveSt) : SaveSt :=
  let gs := s.groups.filter (inSave v)
  let us := gs.map (·.uid)
  let ts := s.teams.filter (fun t => v.ids.contains t.id)
  let cores := ((gs.map (·.core) ++ ts.map (·.core)).filter (· != 1000)).dedup
  let logOf (c : Nat) : Nat := let (d, sc, cl, k) := logCore s v.ctx c; 6 * (24 * d + 8 * sc + cl) + k
  let new : SaveSt := { v with
    count := s.saveCount.toNat
    depart := timeNs s
    done := true
    held := true
    teams := ts
    groups := gs.map (fun g => { g with
      placed := coreClk s g.core - g.placed
      stop := g.stop.map (fun r => { r with saved := true }) })
    flights := v.flights ++ s.flights.filter (fun f => us.contains f.uid)
    copies := s.cmds.filter (fun c => us.contains c.uid)
    mats := (cores.map (fun c => (c, matRest (matAt s c) (coreClk s c)))).filter (fun p => match p.2.team with | some t => v.ids.contains t | none => false)
    queues := (cores.map (fun c => (c, (coreAt s c).queues.filter (fun q => v.ids.contains q.team)))).filter (fun p => !p.2.isEmpty)
    cores := cores.map (fun c => (c, logOf c))
    foot := cores.map (fun c => (logOf c, coreCap s c)) }
  match heldSave? s v.vd with
  | none => new
  | some o =>
    { new with
      ids := o.ids ++ new.ids
      teams := o.teams ++ new.teams.filter (fun t => !(o.ids.contains t.id))
      groups := o.groups ++ new.groups
      flights := o.flights ++ new.flights
      copies := o.copies ++ new.copies
      mats := o.mats ++ new.mats
      queues := o.queues ++ new.queues
      cores := (o.cores ++ new.cores).dedup
      foot := (o.foot ++ new.foot).dedup }

/-- The state without the teams that a save has taken: slots, registers, storage, entries and matrix engines are free. -/
def dropSaved (s : State) (v : SaveSt) : State :=
  let us := (s.groups.filter (inSave v)).map (·.uid)
  let gone := s.cmds.filter (fun c => us.contains c.uid && !(isColl c.op))
  let s1 := gone.foldl (fun st c =>
    let s1 := freePageReq st c.id true
    if isLinkEng c.eng then setDie s1 (engDie c.eng) { dieAt s1 (engDie c.eng) with xfers := (dieAt s1 (engDie c.eng)).xfers - 1 }
    else s1) s
  let isGone (id : Nat) : Bool := gone.any (fun c => c.id == id)
  let stays (t : Team) : Bool := s.groups.any (fun g => g.team == t.id && !(us.contains g.uid))
  { s1 with
    groups := s1.groups.filter (fun g => !(us.contains g.uid))
    teams := s1.teams.filterMap (fun t =>
      if !(v.ids.contains t.id) then some t
      else if stays t then
        some { t with core := 1000, storeKiB := 0, spadKiB := 0, matrix := false, callees := [], spad := [], rings := [], held := [] }
      else none)
    flights := s1.flights.filter (fun f => !(us.contains f.uid) || (match f.work with | .coll _ => true | _ => false))
    cmds := s1.cmds.filter (fun c => !(isGone c.id))
    cores := s1.cores.map (fun p => (p.1, { p.2 with
      guards := p.2.guards.filter (fun g => !(isGone g.cmd))
      queues := p.2.queues.filter (fun q => !(v.ids.contains q.team))
      mat := match p.2.mat.team with
        | some t => if v.ids.contains t then MatrixSt.empty else p.2.mat
        | none => p.2.mat })) }

/-- A save writes its area with the tag last, and its teams leave their cores (R198, R203 to R206); a write of SUSP that
awaits it completes (R351). -/
def writeSave (s : State) (id : Nat) (v0 : SaveSt) : State :=
  let us := (s.groups.filter (inSave v0)).map (·.uid)
  let s1 := us.foldl flushPend s
  let v := fillSave s1 v0
  let body := bodyBytes s1 v
  let len := 64 + body.length
  let low := leBytes 48 (headerLow s1 v len)
  let tag := areaTag s1 v.ctx v.count low body
  let s2 := directWrite (dropSaved s1 v0) v.part v.area (low ++ tag ++ body)
  let s3 := { s2 with
    saveCount := s2.saveCount + 1
    saves := s2.saves.map (fun x => if x.id == id then { v with len := len } else if x.vd == v.vd then { x with held := false } else x)
    cpStatus := if v.whole && s2.cpWaits.contains v.vd then 0 else s2.cpStatus
    cpWaits := if v.whole then s2.cpWaits.filter (· != v.vd) else s2.cpWaits }
  let s4 := if v.whole then clearPins s3 v.ctx else s3
  updVd s4 v.vd (fun b => { b with damaged := false })

/-- SAVE_COMPLETE (R198, R203 to R206): the area is written with its tag last, and the teams leave their cores. -/
def execSaveComplete (id : Nat) (s : State) : Host.Outcome State Fault Refusal :=
  .next (match s.saves.find? (fun v => v.id == id) with
    | none => s
    | some v0 =>
      if !(saveReady s v0) then s
      else
        writeSave s id v0)

/-! ### Restore (R103, R207, R208) -/

/-- The physical core of a logical core by number. -/
def coreOfNumber (s : State) (ctx n : Nat) : Nat := clusterCore s ctx (n / 6) (n % 6)

/-- Teams of a save that still have something to do. -/
def liveTeams (s : State) (v : SaveSt) : List Team :=
  v.teams.filter (fun t => match launchAt? s t.launch with | some l => !(hasEnded l) && l.status == 0 | none => false)
def liveGroups (s : State) (v : SaveSt) : List Group :=
  let ts := (liveTeams s v).map (·.id)
  v.groups.filter (fun g => ts.contains g.team)

/-- The core that a saved core becomes. -/
def newCore (s : State) (v : SaveSt) (core : Nat) : Nat := if core = 1000 then 1000 else coreOfNumber s v.ctx (logNumber v core)

/-- The partition has free slots, registers and scratchpad for the saved teams, on the cores of the footprint (R207). -/
def restoreRoom (s : State) (v : SaveSt) : Bool :=
  let ts := liveTeams s v
  let gs := liveGroups s v
  let part := (vdAt s v.vd).part
  let cores := ((gs.map (·.core) ++ ts.map (·.core)).filter (· != 1000)).dedup
  let regs (g : Group) : Nat := ((ts.find? (fun t => t.id == g.team)).map (·.vregs)).getD 0
  cores.all (fun c =>
    let n := newCore s v c
    let (slots, rs, kib, mat) := coreUse s v.ctx n true
    let mine := gs.filter (fun g => g.core == c)
    let here := ts.filter (fun t => t.core == c)
    let kept := (here.map (·.held.length)).sum
    (partClusters s part).contains (logNumber v c / 6) &&
    decide (slots + mine.length + kept ≤ 64) &&
    decide (rs + (mine.map regs).sum + (here.map (fun t => t.held.length * t.vregs)).sum ≤ 4096) &&
    decide (kib + (here.map (·.storeKiB)).sum ≤ 512) && !(mat && here.any (·.matrix)))

/-- Header of the area at an address. -/
def areaHeader (s : State) (a : Nat) : Nat := leNat (directRead s a 64)

/-- The save that an area's header names. -/
def saveOf? (s : State) (vd a : Nat) : Option SaveSt :=
  let h := areaHeader s a
  s.saves.find? (fun v => v.vd == vd && v.done && v.count == bits h 127 64)

/-- Footprint entries of an area as (logical core number, capability word). -/
def areaFoot (s : State) (a : Nat) : List (Nat × Nat) :=
  (List.range (bits (areaHeader s a) 287 272)).map (fun i =>
    let x := leNat (directRead s (a + 64 + 8 * i) 8)
    (6 * (24 * bits x 63 56 + 8 * bits x 55 48 + bits x 47 40) + bits x 39 32, bits x 31 0))

/-- The first line of an area that holds an uncorrectable error. -/
def areaError? (s : State) (a len : Nat) : Option Nat :=
  ((List.range ((len + 127) / 128)).find? (fun i => s.poison.contains (a / 128 + i) || s.latent.contains (a / 128 + i))).map (128 * ·)

/-- The checks of R207 in order: a status, and the byte offset that R208 reports. -/
def restoreStatus (s : State) (vd : Nat) : Nat × Nat :=
  let b := vdAt s vd
  let h := areaHeader s b.save
  let len := bits h 383 320
  if bits h 257 256 != 1 || bits h 271 264 != 1 then (0x30, 0)
  else if bits h 191 128 != s.config.serial.toNat then (0x36, 0)
  else if !(tableOk s b.ctx) then (0x31, 0)
  else if (areaFoot s b.save).any (fun p => coreCap s (coreOfNumber s b.ctx p.1) != p.2) then (0x32, 0)
  else if (match saveOf? s vd b.save with | some v => !(restoreRoom s v) | none => false) then (0x33, 0)
  else
    match areaError? s b.save len with
    | some o => (0x34, o)
    | none =>
      let tag := directRead s (b.save + 48) 16
      let body := directRead s (b.save + 64) (len - 64)
      if tag != areaTag s (bits h 319 288) (bits h 127 64) (directRead s b.save 48) body || (saveOf? s vd b.save).isNone then (0x35, 0)
      else (0, 0)

/-- Whether a restore asks for a context of which no save is held, and whose area is none that R207 restores. -/
def nothingSaved (s : State) (vd : Nat) : Bool :=
  !(restorable s vd) && tableOk s (vdAt s vd).ctx && (restoreStatus s vd).1 == 0x30

/-- The checks of a resume: those of R207, and for a context of which no save is held those of its place table (R103) and of the
area's STATE (DEDUCED, log 57). -/
def resumeStatus (s : State) (vd : Nat) : Nat × Nat :=
  if restorable s vd then restoreStatus s vd
  else (if nothingSaved s vd then 0x30 else if tableOk s (vdAt s vd).ctx then 0 else 0x31, 0)

/-- Write STATE in the header of an area. -/
def writeAreaState (s : State) (part a st : Nat) : State := directWrite s part (a + 32) (leBytes 1 st)

/-- A saved group stands again on its core, in the lowest free slot, under a new generation (R201, R207). -/
def liveGroup (v : SaveSt) (s : State) (g : Group) : State :=
  let core := newCore s v g.core
  let slot := (freeSlot s core []).getD 0
  let gen := nextGen s core slot
  let clk := coreClk s core
  let g1 : Group := { g with
    core := core
    slot := slot
    gen := BitVec.ofNat 16 gen
    halted := false
    resumed := true
    lastIssue := clk
    yieldUntil := 0
    placed := clk - g.placed
    depart := some v.depart
    replays := (v.flights.filter (fun f => f.uid == g.uid && packetFlight f)).map (·.id)
    splits := g.splits.map (fun sp => { sp with earliest := 0, arms := sp.arms.map (fun a => { a with earliest := 0 }) }) }
  let s1 := noteGen { s with groups := s.groups ++ [g1] } core slot gen
  let s2 := match g1.sleep with | some (dl, _) => addDue s1 (.ns dl) 0 (.sleepDeadline g.uid) | none => s1
  if g1.aborts.isEmpty then s2 else afterClk s2 (coreDie core) 1 0 (.copyAbortFault g.uid)

/-- The matrix state of a restored team (R232): claims and the loop state follow the groups' new slots (R227), and an arrival
at the rendezvous latch is registered anew. -/
def liveMat (v : SaveSt) (s : State) (p : Nat × MatrixSt) : State :=
  let m := p.2
  let slotOf (old : Nat) : Nat :=
    match v.groups.find? (fun g => g.core == p.1 && g.slot == old && some g.team == m.team) with
    | some g => ((groupAt? s g.uid).map (·.slot)).getD old
    | none => old
  let clk := coreClk s (newCore s v p.1)
  updMat s (newCore s v p.1) (fun _ => { m with
    startAt := clk + m.startAt
    endAt := clk + m.endAt
    claims := m.claims.map (fun c => (c.1, if c.2 = 0 then 0 else slotOf (c.2 - 1) + 1))
    loop := { m.loop with slot := slotOf m.loop.slot }
    arrival := m.withdrawn.map (fun a => { a with since := clk, granted := 0 })
    withdrawn := none })

/-- Callee queues take the lowest free numbers of their core (R99). -/
def liveQueues (v : SaveSt) (s : State) (p : Nat × List CalleeQueue) : State :=
  p.2.foldl (fun st q =>
    let core := newCore st v p.1
    let n := ((List.range 32).find? (fun n => !((coreAt st core).queues.any (fun x => x.num == n)))).getD 0
    updCore st core (fun c => { c with queues := c.queues ++ [{ q with num := n }] })) s

/-- The bytes that a collective's destination still had to receive at the save, and has received since (R337). -/
def collCatchUp (v : SaveSt) (s : State) (f : Flight) : State :=
  match ((flightAt? s f.id).getD f).work, groupAt? s f.uid with
  | .coll id, some g =>
    let then_ := ((v.copies.find? (fun c => c.id == f.id)).map (·.counted)).getD 0
    let total := (linkSizes f.op (commNm1 s (groupPart s g) (linkComm f.f) + 1) f.at2).2
    let gone := (flightAt? s f.id).isNone
    let now :=
      if gone || ((s.colls.find? (fun x => x.id == id)).map (·.written)).getD true then total
      else ((cmdAt? s f.id).map (·.counted)).getD 0
    let s1 := match linkBar f with
      | some b => updBar s g.team b (fun y => { y with delta := y.delta - ((now - then_ : Nat) : Int) })
      | none => s
    if gone then completeFlight s1 f else s1
  | _, _ => s

/-- Work in flight is taken up again (R198, R200, R317): packets are sent anew in issue order, the rest goes on. -/
def liveFlight (v : SaveSt) (s : State) (f : Flight) : State :=
  match groupAt? s f.uid with
  | none => s
  | some g =>
    match f.work with
    | .coll _ => collCatchUp v s f
    | .load _ | .promise =>
      let f1 : Flight := { f with
        gen := g.gen
        reqs := []
        sent := false
        failT := []
        failD := []
        step := .done
        roots := []
        pas := []
        locks := []
        vals := [] }
      advanceFlight { s with flights := s.flights ++ [f1] } f.id
    | _ => { s with flights := s.flights ++ [{ f with gen := g.gen }] }

/-- A copy command is sent again (R275): it takes its command and guard entries anew, and its remaining bytes are read
afresh. -/
def liveCopy (v : SaveSt) (s : State) (c : CopyCmd) : State :=
  match groupAt? s c.uid with
  | none => s
  | some g =>
    if isColl c.op then s
    else
      let core := newCore s v c.core
      let eng := if isLinkEng c.eng then linkEng (coreDie core) else engineOf s g c.f
      let c1 : CopyCmd := { c with
        core := core
        eng := eng
        entry := (freeEntry s eng).getD 0
        issuedClk := coreClk s core
        phase := if c.phase == .parked then .started else c.phase
        reads := []
        writes := []
        fails := []
        got := []
        places := []
        pages := [] }
      let spad := ((teamAt? s c.team).map (·.spad)).getD []
      let rs := copyRanges spad c.op c.f c.desc c.src c.dest c.total
      let gd (w : Bool) (p : Nat × Nat) : Guard := ⟨c.id, w, c.team, p.1, p.2⟩
      let gs := if isLinkOp c.op then [] else
        (if c.sent = c.total && !(copyDstSpad c.op c.f) then [] else ((spanOf rs).map (gd (copyDstSpad c.op c.f))).toList) ++
        (if c.sent = c.total then [] else ((spanOf (idxRange c.op c.desc)).map (gd false)).toList)
      let s1 := updCore { s with cmds := s.cmds ++ [c1] } core (fun x => { x with guards := x.guards ++ gs })
      if isLinkEng eng then setDie s1 (engDie eng) { dieAt s1 (engDie eng) with xfers := (dieAt s1 (engDie eng)).xfers + 1 } else s1

/-- Insertion by issue order. -/
def byOrder {α : Type} (key : α → Nat) (l : List α) : List α :=
  l.foldl (fun acc x => (acc.filter (fun y => decide (key y ≤ key x))) ++ [x] ++ acc.filter (fun y => decide (key x < key y))) []

/-- The slots that a restored team keeps for its ended groups are the lowest that are free (R107). -/
def liveHeld (s : State) (t : Team) : State :=
  t.held.foldl (fun st _ => match freeSlot st (((teamAt? st t.id).map (·.core)).getD 1000) [] with
    | some n => updTeam st t.id (fun x => { x with held := x.held ++ [n] })
    | none => st) s

/-- Everything that a save holds becomes live (R207). -/
def makeLive (s : State) (v : SaveSt) : State :=
  let ts := liveTeams s v
  let gs := byOrder (fun g => 1000 * g.core + g.slot) (liveGroups s v)
  let ids := ts.map (·.id)
  let s1 := { s with
    teams := s.teams.filter (fun t => !(ids.contains t.id)) ++ ts.map (fun t => { t with core := newCore s v t.core, held := [] })
    saves := s.saves.map (fun x => if x.vd == v.vd then { x with held := false } else x) }
  let s2 := ts.foldl liveHeld (gs.foldl (liveGroup v) s1)
  let s3 := (v.mats.filter (fun p => match p.2.team with | some t => ids.contains t | none => false)).foldl (liveMat v) s2
  let s4 := (v.queues.map (fun p => (p.1, p.2.filter (fun q => ids.contains q.team)))).foldl (liveQueues v) s3
  let s5 := (byOrder (·.id) v.flights).foldl (liveFlight v) s4
  (byOrder (·.id) v.copies).foldl (liveCopy v) s5

/-- CONTEXT_RESTORE (R207, R208, R351): what a save holds becomes live, or the resume is refused and the device left suspended, that of
a context without a save for its place table alone (R103); a restore where nothing is saved is refused and changes nothing else. -/
def execContextRestore (vd : Nat) (s : State) : Host.Outcome State Fault Refusal :=
  .next (
    let b := vdAt s vd
    let (st, off) := resumeStatus s vd
    let s1 := { s with cpStatus := st }
    if st = 0 then
      match (if restorable s vd then saveOf? s vd b.save else none) with
      | none => s1
      | some v => makeLive (writeAreaState s1 b.part b.save 3) v
    else if nothingSaved s vd then s1
    else
      let s2 := updVd s1 vd (fun b => { b with susp := true })
      if st = 0x34 ∨ st = 0x35 then
        let s3 := { writeAreaState s2 b.part b.save 2 with hvLog := s2.hvLog ++ [(b.ctx, off)] }
        let ls := (s3.launches.filter (fun l => l.kind == 1 && l.ctx == b.ctx && !(hasEnded l))).map (·.id)
        let s4 := ls.foldl (fun st l => killLaunch st l 0x25) (updVd s3 vd (fun b => { b with damaged := true }))
        { s4 with saves := s4.saves.map (fun x => if x.vd == vd then { x with held := false } else x) }
      else s2)

/-- A restore that is due at the next placement of its device (R351): the first cluster that still lacks an image of its
teams, with the launch it belongs to. -/
def restoreImage? (s : State) (v : SaveSt) : Option (Nat × Nat) :=
  (liveTeams s v).findSome? (fun t =>
    if t.core = 1000 then none
    else
      match launchAt? s t.launch with
      | none => none
      | some l =>
        let core := newCore s v t.core
        if hasImage s core l.record.code then none else some (coreCluster core, l.id))

/-- Whether the slots that the groups of a save will take may have their next generation (R201: placement waits otherwise). -/
def restoreGens (s : State) (v : SaveSt) : Bool :=
  let gs := liveGroups s v
  (gs.map (fun g => newCore s v g.core)).dedup.all (fun k =>
    ((freeSlots s k).take (gs.filter (fun g => newCore s v g.core == k)).length).all (genFree s k))

/-- Whether every command of a save finds an entry and its guards on its core (R275). -/
def restoreEntries (s : State) (v : SaveSt) : Bool :=
  let cs := v.copies.filter (fun c => !(isColl c.op))
  cs.all (fun c =>
    let eng := if isLinkEng c.eng then linkEng (coreDie (newCore s v c.core)) else 4 * coreSector (newCore s v c.core) + c.eng % 4
    decide ((s.cmds.filter (fun x => x.eng == eng)).length + cs.length ≤ engEntries eng)) &&
  cs.all (fun c => decide ((coreAt s (newCore s v c.core)).guards.length + 2 * (cs.filter (fun x => x.core == c.core)).length ≤ 16) || (coreAt s (newCore s v c.core)).guards.isEmpty)

/-! ### Suspension (R351) -/

/-- SUSP := 1 pre-empts the device's context; the write completes, with status 0, when the save area holds STATE 1 (R351). -/
def suspendVd (s : State) (vd : Nat) : State :=
  let s1 := updVd s vd (fun b => { b with susp := true })
  if (vdAt s vd).valid && !(vdAt s vd).susp then
    addDue { s1 with cpWaits := s1.cpWaits ++ [vd] } (.ns (timeNs s)) 0 (.preempt (vdAt s vd).ctx)
  else { s1 with cpStatus := 0 }

/-- SUSP := 0 lets the context be restored at its next placement. -/
def unsuspendVd (s : State) (vd : Nat) : State := { updVd s vd (fun b => { b with susp := false }) with cpStatus := 0 }

/-- VD_SUSPEND. -/
def execVdSuspend (vd : Nat) (s : State) : Host.Outcome State Fault Refusal := .next (suspendVd s vd)

/-- VD_UNSUSPEND. -/
def execVdUnsuspend (vd : Nat) (s : State) : Host.Outcome State Fault Refusal := .next (unsuspendVd s vd)

end Sys2Proof.Machine
end

