-- ==== Sys2Proof/Machine/Device.lean ====
section
/-!
DEFINITION. What system software writes through the control processors (R102, R103, R338 to R341, R347, R350, R371), the
reset of a partition (R357) and of the module (R370 to R373), operating points (R374 to R377), the black box (R378), patrol
scrub (R379), and words with no assigned opcode (R78).
-/
namespace Sys2Proof.Machine

/-! ### Virtual devices (R338, R339, R350) -/

/-- Clusters of a partition. -/
def clusterCount (s : State) (part : Nat) : Nat := (partAt s part).limit + 1 - (partAt s part).base

/-- Whether a device's context has teams on cores, or is being saved. -/
def vdBusy (s : State) (v : Nat) : Bool :=
  s.teams.any (fun t => some v == vdOfCtx? s t.ctx) || s.saves.any (fun x => x.vd == v && !x.done)

/-- Whether another valid device claims a front end of a mask, or the context. -/
def maskClash (s : State) (v mask : Nat) : Bool := s.vds.any (fun p => p.1 != v && p.2.valid && (p.2.femask &&& mask) != 0)
def ctxClash (s : State) (v ctx : Nat) : Bool := s.vds.any (fun p => p.1 != v && p.2.valid && p.2.ctx == ctx)

/-- The status of a write of a virtual-device descriptor (R339); the first failing one in ascending order. -/
def vdStatus (s : State) (v x : Nat) : Nat :=
  let b := vdAt s v
  let valid := bits x 0 0 == 1
  let part := bits x 31 28
  if bits x 95 64 = 0 then 0x10
  else if valid && maskClash s v (bits x 47 32) then 0x13
  else if b.valid && (!b.susp || vdBusy s v) then 0x14
  else if bits x 27 2 != 0 || bits x 255 192 % 4096 != 0 || bits x 191 128 % 8 != 0 || !((partAt s part).valid) ||
    (valid && ctxClash s v (bits x 127 96)) then 0x15
  else if bits x 95 64 < 625 * clusterCount s part then 0x01
  else 0

/-- The bits of a descriptor as it reads. -/
def vdWord (b : VdSt) : Nat :=
  b.save * 2 ^ 192 + b.dlog * 2 ^ 128 + b.ctx * 2 ^ 96 + b.quant * 2 ^ 64 + b.weight * 2 ^ 48 + b.femask * 2 ^ 32 + b.part * 2 ^ 28 +
    b1 b.susp 1 + b1 b.valid 0

/-- A virtual-device descriptor takes the fields of R338, its quantum at least 0.625 µs for each cluster (R350). -/
def writeVd (s : State) (v x : Nat) : State :=
  let part := bits x 31 28
  let s1 := updVd s v (fun b => { b with
    save := bits x 255 192
    dlog := bits x 191 128
    ctx := bits x 127 96
    quant := max (bits x 95 64) (625 * clusterCount s part)
    weight := bits x 63 48
    femask := bits x 47 32
    part := part
    susp := bits x 1 1 == 1
    valid := bits x 0 0 == 1 })
  { s1 with cpStatus := vdStatus s v x }

/-- VD_DESCRIPTOR_WRITE (R338, R339, R350). A write that changes SUSP alone suspends the device or ends its suspension
(R351). -/
def execVdDescriptorWrite (v : Nat) (value : BitVec 256) (s : State) : Host.Outcome State Fault Refusal :=
  let x := value.toNat
  let b := vdAt s v
  let st := vdStatus s v x
  .next (if b.valid && vdWord { b with susp := !b.susp } == x then (if b.susp then unsuspendVd s v else suspendVd s v)
    else if 64 ≤ v then { s with cpStatus := 0x15 }
    else if 0x10 ≤ st then { s with cpStatus := st }
    else writeVd s v x)

/-- The status of a write of a service block (R339, R340). -/
def serviceStatus (s : State) (v x : Nat) : Nat :=
  let b := vdAt s v
  let base := bits x 511 448
  let n := bits x 447 432
  if vdBusy s v && (base != b.tqbase || n != b.tqn) then 0x14
  else if bits x 255 2 != 0 || base % 64 != 0 || bits x 399 336 % 32 != 0 || (n != 0 && decide (n < 16)) then 0x15
  else 0

/-- A service block takes the fields of R340. -/
def writeService (s : State) (v x : Nat) : State :=
  let s1 := updVd s v (fun b =>
    let moved := bits x 511 448 != b.tqbase || bits x 447 432 != b.tqn
    { b with
      tqbase := bits x 511 448
      tqn := bits x 447 432
      tqhead := bits x 431 416
      tqtail := if moved then 0 else b.tqtail
      trbase := bits x 399 336
      trn := bits x 335 320
      trcnt := if bits x 399 336 != b.trbase then 0 else b.trcnt
      optok := bits x 1 1 == 1
      dbg := bits x 0 0 == 1 })
  { s1 with cpStatus := 0 }

/-- SERVICE_BLOCK_WRITE (R340). A changed trap queue is written from its first record on; TRCNT counts from the write that
changes TRBASE. -/
def execServiceBlockWrite (v : Nat) (value : BitVec 512) (s : State) : Host.Outcome State Fault Refusal :=
  let x := value.toNat
  let st := serviceStatus s v x
  .next (if 64 ≤ v then { s with cpStatus := 0x15 }
    else if st != 0 then { s with cpStatus := st }
    else
      writeService s v x)

/-! ### Partitions (R347) -/

/-- The colour of a partition descriptor on each physical die. -/
def colourOf (x : Nat) : List Nat := (List.range 4).map (fun d => bits x (367 + 48 * d) (320 + 48 * d))

/-- Whether another valid partition has a cluster of the range, or an arm of the colour. -/
def rangeClash (s : State) (p lo hi : Nat) : Bool :=
  s.parts.any (fun q => q.1 != p && q.2.valid && decide (q.2.base ≤ hi) && decide (lo ≤ q.2.limit))
def colourClash (s : State) (p : Nat) (c : List Nat) : Bool :=
  s.parts.any (fun q => q.1 != p && q.2.valid && (List.range 4).any (fun d => (q.2.colour.getD d 0 &&& c.getD d 0) != 0))

/-- The status of a write of a partition descriptor (R339). -/
def partStatus (s : State) (p x : Nat) : Nat :=
  let lo := bits x 6 0
  let hi := bits x 14 8
  let valid := bits x 15 15 == 1
  if decide (hi < lo) || decide (95 < hi) || (valid && rangeClash s p lo hi) then 0x11
  else if valid && colourClash s p (colourOf x) then 0x12
  else if s.teams.any (fun t => t.part == p) then 0x14
  else if bits x 219 176 != 0 || bits x 169 16 != 0 || bits x 7 7 != 0 || bits x 255 220 % 16 != 0 then 0x15
  else 0

/-- The blocks of a partition whose home a new colour changes keep their home until the change, which follows (R188, R291). -/
def recolour (s : State) (p : Nat) (c : List Nat) : State :=
  if !((partAt s p).valid) then s
  else
    (s.owners.filter (fun o => o.2 / 128 == 1 && o.2 % 16 == p)).foldl (fun st o =>
      let pa := 2 ^ 16 * o.1
      let die := pa / (144 * 2 ^ 30)
      if colourBits ((partAt s p).colour.getD die 0) == [] || colourBits (c.getD die 0) == [] then st
      else
        let old := homeArm s p pa
        let new := colourHome s c pa
        if old = new then { st with homes := mdel o.1 st.homes }
        else addDue { st with homes := mput o.1 old st.homes } (.ns (timeNs s)) 0 (.homeChange o.1 new)) s

/-- A partition descriptor takes the fields of R347; a new pool has every record free. -/
def writePart (s : State) (p x : Nat) : State :=
  let s1 := updPart (recolour s p (colourOf x)) p (fun q =>
    let pool := 16 * bits x 319 276
    let n := bits x 275 256
    { q with
      colour := colourOf x
      pool := pool
      pooln := n
      ptroot := bits x 255 220
      lt := bits x 175 170
      valid := bits x 15 15 == 1
      base := bits x 6 0
      limit := bits x 14 8
      free := if pool = q.pool ∧ n = q.pooln then q.free else List.range n })
  { s1 with cpStatus := 0, timeSet := s.timeSet || bits x 15 15 == 1 }

/-- PARTITION_WRITE (R347). A new pool has every record free. -/
def execPartitionWrite (p : Nat) (value : BitVec 512) (s : State) : Host.Outcome State Fault Refusal :=
  let x := value.toNat
  let st := partStatus s p x
  .next (if 16 ≤ p then { s with cpStatus := 0x15 }
    else if st != 0 then { s with cpStatus := st }
    else
      writePart s p x)

/-! ### Other tables -/

/-- The logical die that an index of a place table belongs to (R102). -/
def placeDie (i : Nat) : Nat := if i < 4 then i else if i < 100 then (i - 4) / 24 else if i < 676 then (i - 100) / 144 else (i - 676) / 48

/-- PLACE_TABLE_WRITE (R102, R103). The table belongs to the context number, and keeps its entries when its device becomes invalid and
another takes the number (DESIGN CHOICE, log 95). -/
def execPlaceTableWrite (ctx index : Nat) (v : BitVec 16) (s : State) : Host.Outcome State Fault Refusal :=
  .next (if 867 < index || (vdOfCtx? s ctx).isNone then { s with cpStatus := 1 }
    else if s.teams.any (fun t => t.ctx == ctx) then
      { boxAppend s 0x51 (placeDie index) 0 ctx index with cpStatus := 1 }
    else { s with places := mset 0 (ctx * 868 + index) (v &&& 0x801F) s.places, cpStatus := 0 })

/-- TIME_SET (R371): once, before the first partition, and not backwards; %time has 64 bits (R7). -/
def execTimeSet (t : Nat) (s : State) : Host.Outcome State Fault Refusal :=
  .next (if s.timeSet || decide (t < timeNs s) || decide (2 ^ 64 ≤ t) then { s with cpStatus := 1 }
    else { s with ns := t, frac := 0, timeSet := true, cpStatus := 0 })

/-- Home blocks of a module (R280). -/
def blockCount : Nat := 576 * 2 ^ 30 / 2 ^ 16

/-- REGISTER_WRITE: the block ownership table (R347), the base and size of a host queue (R341), the point that firmware
allows a die (R377). A value out of range is not written. -/
def execRegisterWrite (r : SysReg) (s : State) : Host.Outcome State Fault Refusal :=
  let bad := { s with cpStatus := 1 }
  let ok (st : State) : State := { st with cpStatus := 0 }
  .next (match r with
    | .owner b v => if blockCount ≤ b then bad else ok { s with owners := mset 0 b (v &&& 0x8F).toNat s.owners }
    | .feBase f v => if 16 ≤ f || v.toNat % 64 != 0 then bad else ok (updFe s f (fun x => { x with base := v.toNat }))
    | .feSize f v =>
      if 16 ≤ f || !((List.range' 6 11).any (fun k => v.toNat == 2 ^ k)) then bad else ok (updFe s f (fun x => { x with size := v.toNat }))
    | .dieLower d p => if 4 ≤ d || 7 < p then bad else ok (setDie s d { dieAt s d with ceiling := p }))

/-! ### Partition reset (R357) -/

/-- Front ends of a partition's devices. -/
def partFes (s : State) (p : Nat) : List Nat :=
  (List.range 16).filter (fun f => match vdOfFe? s f with | some v => (vdAt s v).part == p | none => false)

/-- The commands of a front end's host queue that have not been read (R341). -/
def unread (s : State) (f : Nat) : List (BitVec 512) :=
  let q := feAt s f
  if q.size = 0 then []
  else (List.range ((q.tail + q.size - q.head) % q.size)).map (fun i =>
    BitVec.ofNat 512 (leNat (directRead s (q.base + 64 * ((q.head + i) % q.size)) 64)))

/-- End every queued and running launch with status 0x26, with their completion records; the queues are empty. -/
def endLaunches (s : State) (p : Nat) : State :=
  let ls := s.launches.filter (fun l => l.part == p && l.phase != .ended)
  let s1 := ls.foldl (fun st l => writeDone st p l.done l.id 0x26) s
  let s2 := { s1 with
    launches := s1.launches.map (fun l => if l.part == p && l.phase != .ended then
      { l with phase := .ended, status := 0x26, total := l.placed, live := 0, outstanding := [] } else l)
    outer := s1.outer.filter (fun b => !(ls.any (fun l => l.id == b.launch))) }
  (partFes s p).foldl (fun st f =>
    let st1 := ((unread s f).filter (fun c => cmdField c 7 0 == 1)).foldl (fun x c => writeDone x p (cmdField c 447 384) 0 0x26) st
    updFe st1 f (fun q => { q with head := q.tail, devq := [] })) s2

/-- An arm without some requests. -/
def leaveArm (gone : List Nat) (a : ArmSt) : ArmSt :=
  { a with queue := a.queue.filter (fun r => !(gone.contains r)), parked := a.parked.filter (fun x => !(gone.contains x.2))
           held := a.held.filter (fun x => !(gone.contains x.2)) }

/-- Stop the groups of a partition without saving: their teams, instructions, commands and collectives are gone, their
generations advance (R201), and the peers of their collectives are told (R336). -/
def endGroups (s : State) (p : Nat) : State :=
  let ts := (s.teams.filter (fun t => t.part == p)).map (·.id)
  let gs := s.groups.filter (fun g => ts.contains g.team)
  let us := gs.map (·.uid)
  let fs := s.flights.filter (fun f => us.contains f.uid || flightPart s f == p)
  let ops := fs.map (·.id)
  let cs := s.cmds.filter (fun c => us.contains c.uid || ops.contains c.id)
  let mine (r : Req) : Bool := match r.src with | .prom op _ => ops.contains op | .walker _ => r.part == p | _ => false
  let gone := (s.reqs.filter mine).map (·.id)
  let s1 := (s.colls.filter (fun x => x.part == p)).foldl (fun st x => tellMembers st p x.comm (.peerGone p x.comm)) s
  let s2 := gs.foldl (fun st g => noteGen st g.core g.slot (g.gen.toNat + 1)) s1
  -- transfer entries that their link instructions hold
  let held := (((fs.filter (fun f => match f.work with | .coll _ => true | _ => false)).map (fun f => (f.id, coreDie (flightCore s f)))) ++
    ((cs.filter (fun c => isLinkOp c.op)).map (fun c => (c.id, coreDie c.core)))).dedup
  let s3 := held.foldl (fun st h => setDie st h.2 { dieAt st h.2 with xfers := (dieAt st h.2).xfers - 1 }) s2
  { s3 with
    groups := s3.groups.filter (fun g => !(us.contains g.uid))
    teams := s3.teams.filter (fun t => !(ts.contains t.id))
    flights := s3.flights.filter (fun f => !(ops.contains f.id))
    pend := s3.pend.filter (fun w => !(us.contains w.uid))
    cmds := s3.cmds.filter (fun c => !(cs.any (fun x => x.id == c.id)))
    colls := s3.colls.filter (fun x => x.part != p)
    walks := s3.walks.filter (fun w => w.part != p)
    reqs := s3.reqs.filter (fun r => !(gone.contains r.id))
    lockq := s3.lockq.filter (fun x => !(gone.contains x.2))
    wakes := s3.wakes.filter (fun w => w.part != p)
    pageReqs := s3.pageReqs.filter (fun x => !(us.contains x.token) && !(cs.any (fun c => c.id == x.token)))
    pageHeld := s3.pageHeld.filter (fun x => !(us.contains x.token) && !(cs.any (fun c => c.id == x.token)))
    agenda := s3.agenda.filter (fun d => match d.ev with
      -- what the arrays of its matrix teams were to complete (R214, R357)
      | .arrayComplete c | .iterationPhaseEnd c => (match (matAt s3 c).team with | some t => !(ts.contains t) | none => true)
      | _ => true)
    saves := (s3.saves.filter (fun v => v.part != p || v.done)).map (fun v => if v.part == p then { v with held := false } else v)
    cores := s3.cores.map (fun c => (c.1, { c.2 with
      guards := c.2.guards.filter (fun g => !(ts.contains g.team))
      queues := c.2.queues.filter (fun q => !(ts.contains q.team))
      landings := c.2.landings.filter (fun l => !(cs.any (fun x => x.id == l.cmd)))
      mat := match c.2.mat.team with | some t => if ts.contains t then MatrixSt.empty else c.2.mat | none => c.2.mat }))
    arms := s3.arms.map (fun a => (a.1, leaveArm gone a.2)) }

/-- Write back the dirty lines of a home tile, with a poison mark where a line cannot be read (R292, R357). -/
def flushTile (s : State) (t : Tile) : State :=
  ((t.lines.filter (fun p => p.2.dirty)).map (fun p => localLine p.1)).foldl (fun st l =>
    let s1 := writeBack st l
    if s1.latent.contains l then poisonLine s1 l else s1) s

/-- Clear an arm of a partition: dirty lines are written back, and copies, pins and waiter records are dropped. -/
def clearArm (s : State) (arm : Nat) : State :=
  let a := armAt s arm
  let s1 := (a.tiles.filter (fun t => !t.copy)).foldl flushTile s
  let s2 := (a.tiles.filter (·.copy)).foldl (fun st t => updArm st arm (fun x => removeTile x t.tile)) s1
  updArm s2 arm (fun x => { x with
    waiters := []
    heads := []
    repins := []
    tiles := x.tiles.map (fun t => { t with pin := none, lines := t.lines.map (fun p => (p.1, { p.2 with sharers := 0 })) }) })

/-- A peer's requests to a partition that is reset are not performed any more: it is told (R336). -/
def refusePeers (s : State) (p : Nat) : State :=
  let rs := s.reqs.filter (fun r => r.part == p && r.phase != .done && (match r.src with | .link _ _ => true | _ => false))
  let gone := rs.map (·.id)
  let s1 : State := { s with reqs := s.reqs.filter (fun r => !(gone.contains r.id)), arms := s.arms.map (fun a => (a.1, leaveArm gone a.2)) }
  rs.foldl (fun st r => match r.src with
    | .link m token => sendTo st m 0 (.refused token 2)
    | _ => st) s1

/-- A partition's groups and launches end, its arms are cleared without write-back, its waiter pool is free again (R357). -/
def resetPart (s : State) (p : Nat) : State :=
  let s1 := endLaunches (endGroups (refusePeers s p) p) p
  let s2 := ((s1.arms.map (·.1)).filter (armInColour s1 p)).foldl clearArm s1
  let s3 := updPart s2 p (fun q => { q with free := List.range q.pooln, placing := none })
  let s4 := (partVds s3 p).foldl (fun st v => updVd st v (fun b => { b with opt := 0, eligible := false })) s3
  boxAppend s4 0x50 ((partAt s p).base / 24) 0 0 p

/-- PARTITION_RESET (R357). Save areas and memory contents are kept. -/
def execPartitionReset (p : Nat) (s : State) : Host.Outcome State Fault Refusal :=
  .next (resetPart s p)

/-! ### Module reset (R370 to R373) -/

/-- The fields of a configuration record (R372). -/
def parseConfig (bs : List Byte) : ConfigRec :=
  let entries := (List.range 12).map (fun i => recNat bs (24 + 4 * i) 4)
  { serial := BitVec.ofNat 64 (recNat bs 8 8)
    pwrlim := recNat bs 16 4
    linken := recNat bs 20 2
    darm := entries.map (fun e => bits e 12 8)
    dcl := entries.map (fun e => bits e 3 0)
    cap := ((bs.drop 72).take 648).map (·.toNat)
    fwhash := (bs.drop 720).take 48
    kseed := (bs.drop 768).take 32
    sig := (bs.drop 800).take 96 }

/-- Every field of a record is valid (R372). -/
def configOk (bs : List Byte) : Bool :=
  let c := parseConfig bs
  recNat bs 0 4 == 0x59470960 && recNat bs 4 4 == 1 && decide (1 ≤ c.pwrlim) && decide (c.pwrlim ≤ 2800) && recNat bs 22 2 == 0 &&
  (List.range 12).all (fun i =>
    let e := recNat bs (24 + 4 * i) 4
    bits e 31 13 == 0 && bits e 7 4 == 0 && decide (bits e 12 8 ≤ 16) && decide (bits e 3 0 ≤ 8)) &&
  (List.range 648).all (fun i => decide (c.cap.getD i 0 ≤ (if i % 6 < 2 then 1 else 0)))

/-- The boot step that fails on a flash image at the n-th reset, if one does (R370). -/
def bootFails (flash : List Byte) (n : Nat) : Option Nat :=
  if flash.length ≠ 896 then some 1
  else if !(ecdsaOk Config.bootKey (flash.take 800) (flash.drop 800)) then some 2
  else if !(configOk flash) then some 3
  else if sha384 Config.firmware != (parseConfig flash).fwhash then some 4
  else if !(Config.trains n) then some 6
  else none

/-- What reaches the module from outside: system software, host cores, PCIe devices, links and power. -/
def fromOutside : Event → Bool
  | .resumeContinue _ | .resumeRerun _ | .resumeEndGroup _ | .resumeEndLaunch _ | .resumeInvalid _ _ | .linkFrameReceive _ _
  | .linkDown _ | .hostAccess _ | .hostBarrier _ | .pcieWrite _ _ _ | .pcieRead _ _ _ | .pcieMsi _ _ _ | .timeSample _ _
  | .timeAgreementLoss | .doorbell _ _ | .pageRequestTake | .pageRequestRetry _ | .pageRequestAbort _
  | .vdDescriptorWrite _ _ | .vdSuspend _ | .vdUnsuspend _ | .partitionWrite _ _ | .serviceBlockWrite _ _
  | .placeTableWrite _ _ _ | .occupancyEntryWrite _ _ _ | .routeTableWrite _ | .communicatorWrite _ _ _ | .timeSet _
  | .registerWrite _ | .partitionReset _ | .moduleReset _ | .recoveryRecord _ | .limiterWindow _ | .firmwareWriteDropped _ _
  | .patrolScrub | .powerLoss | .moduleFatalError => true
  | _ => false

/-- What is still to come from outside, at moments counted from a reset, at which %time and the clk counts start again. -/
def outsideAgenda (s : State) : List Due :=
  (s.agenda.filter (fun d => fromOutside d.ev)).map (fun d => { d with moment := match d.moment with
    | .ns n => .ns (n - timeNs s)
    | .clk k n => .clk k (n - dieClk s k) })

/-- The next patrol scrub stands in the agenda, 24 h after the last one (R379). -/
def planScrub (s : State) : State :=
  if s.agenda.any (fun d => d.ev == .patrolScrub) then s else addDue s (.ns (timeNs s + scrubPeriod)) 3 .patrolScrub

/-- The module before a boot: everything as at reset, but for the flash, the domain's module number, a black box that
survives where power did, and what is still to come from outside. -/
def beforeBoot (s : State) (cold : Bool) : State :=
  planScrub { State.reset with
    module := s.module
    flash := s.flash
    bootNo := s.bootNo + 1
    agenda := outsideAgenda s
    upsets := s.upsets.map (fun u => (u.1 - timeNs s, u.2))
    box := if cold then [] else s.box
    boxSeq := if cold then 0 else s.boxSeq
    boxBoot := if cold then 0 else s.boxSeq }

/-- MODULE_RESET (R370): the boot steps in order, each with its black-box entry; the first that fails leaves the compute
dies in reset. -/
def execModuleReset (cold : Bool) (s : State) : Host.Outcome State Fault Refusal :=
  .next (
    let s0 := beforeBoot s cold
    match bootFails s.flash s0.bootNo with
    | some k =>
      let s1 := (List.range' 1 (k - 1)).foldl (fun st n => boxAppend st 0x01 4 0 0 n) s0
      { boxAppend s1 0x02 4 0 0 k with boot := .recovery k }
    | none =>
      let c := parseConfig s.flash
      let s1 := { s0 with
        config := c
        links := (List.range 16).map (fun l => ⟨c.linken.testBit l, 0, 0, 0, 0, 0, [], [], false⟩) }
      (List.range' 1 7).foldl (fun st n => boxAppend st 0x01 4 0 0 n) s1)

/-- RECOVERY_RECORD (R370): the recovery service takes a replacement record; it takes effect at the next module reset. -/
def execRecoveryRecord (r : List (BitVec 8)) (s : State) : Host.Outcome State Fault Refusal :=
  .next (match s.boot with
    | .recovery _ => if r.length = 896 then { s with flash := r } else s
    | _ => s)

/-- POWER_LOSS (R378): the black box and all state but the flash are lost, until a module reset. -/
def execPowerLoss (s : State) : Host.Outcome State Fault Refusal :=
  .next { beforeBoot s true with boot := .off, bootNo := s.bootNo }

/-- MODULE_FATAL_ERROR (R378): the black box freezes. -/
def execModuleFatalError (s : State) : Host.Outcome State Fault Refusal := .next { s with boxFrozen := true }

/-! ### Operating points (R374 to R377) -/

/-- Whether a physical die is one of a device's partition. -/
def vdOnDie (s : State) (v die : Nat) : Bool := (partDies s (vdAt s v).ctx (vdAt s v).part).contains die

/-- The requested point of a die (R375): the highest of its launches' OPPT, from their acceptance on (R92, log 82), and its
granted `opt`. -/
def requestedPoint (s : State) (die : Nat) : Nat :=
  let ls := s.launches.filter (fun l => l.kind == 1 && !(hasEnded l) && (partDies s l.ctx l.part).contains die)
  let vs := s.vds.filter (fun p => p.2.valid && p.2.opt != 0 && vdOnDie s p.1 die)
  ((ls.map (·.record.oppt)) ++ vs.map (fun p => p.2.opt)).foldl max 0

/-- The point a die is to run at: the requested one, lowered by the limiter and by firmware (R375, R377). -/
def targetPoint (s : State) (die : Nat) : Nat := min (min (requestedPoint s die) (dieAt s die).limit) (dieAt s die).ceiling

/-- The clock of a die changes: it stops for at most 2 µs (R375). -/
def changePoint (s : State) (die p : Nat) : State :=
  let d := dieAt s die
  let stop := Config.clockStop s.freeCount % 2001
  let s1 := boxAppend s 0x10 die die 0 (256 * d.point + p)
  setDie { s1 with freeCount := s1.freeCount + 1 } die { d with point := p, pending := none, stall := timeNs s + stop }

/-- Whether a die has a change of its point to begin: a fall at once, a rise when no ramp is under way. -/
def opptReady (s : State) (die : Nat) : Bool :=
  decide (targetPoint s die < (dieAt s die).point) || (targetPoint s die != (dieAt s die).point && (dieAt s die).pending.isNone)

/-- OPPT_CHANGE (R375): to a higher point the voltage ramps first, at the lower clock; the ramp and the stop together stay
within 50 µs (R92). -/
def execOpptChange (die : Nat) (s : State) : Host.Outcome State Fault Refusal :=
  .next (
    let d := dieAt s die
    let t := targetPoint s die
    if t = d.point then setDie s die { d with pending := none }
    else if t < d.point then changePoint s die t
    else
      match d.pending with
      | none =>
        let n := timeNs s + Config.rampTime s.freeCount % 48001
        addDue (setDie { s with freeCount := s.freeCount + 1 } die { d with pending := some n }) (.ns n) 0 (.opptChange die)
      | some n => if n ≤ timeNs s then changePoint s die t else s)

/-- The limiter lowers a die by one point, down to point 0 (R377). -/
def limitDown (d : DieSt) : DieSt := if d.point = 0 then d else { d with limit := d.point - 1 }

/-- Whether the limiter holds a die below the point that it would run at otherwise. -/
def limited (s : State) (die : Nat) : Bool :=
  decide ((dieAt s die).limit < min (requestedPoint s die) (dieAt s die).ceiling)

/-- LIMITER_WINDOW (R377): a window above PWRLIM lowers every die by one point, one below 95 % of it lets every die that is
held back one step up. -/
def execLimiterWindow (w : Nat) (s : State) : Host.Outcome State Fault Refusal :=
  .next (
    let down := decide (s.config.pwrlim < w) && (List.range 4).any (fun d => decide (0 < (dieAt s d).point))
    let up := decide (100 * w < 95 * s.config.pwrlim) && (List.range 4).any (limited s)
    if down then boxAppend { s with dies := s.dies.map limitDown } 0x11 5 0 0 w
    else if up then
      boxAppend ((List.range 4).foldl (fun st d =>
        if limited s d then setDie st d { dieAt st d with limit := (dieAt st d).limit + 1 } else st) s) 0x11 5 0 0 w
    else s)

/-- FIRMWARE_WRITE_DROPPED (R376): a control processor's write outside its windows has no effect but the bus error that its firmware
takes and a black-box entry. -/
def execFirmwareWriteDropped (die addr : Nat) (s : State) : Host.Outcome State Fault Refusal :=
  .next (if s.windows.any (fun w => w.1 == die && decide (w.2.1 ≤ addr) && decide (addr < w.2.2)) then s
    else boxAppend { s with busErrors := s.busErrors ++ [(die, addr)] } 0x20 die die 0 addr)

/-- Whether a line stands dirty in its home tile, so that memory does not hold it. -/
def lineInSpiral (s : State) (l : Nat) : Bool :=
  s.arms.any (fun p => (homeTile? p.2 (s.module * 2 ^ 41 + l)).any (fun t => (tileLine t (s.module * 2 ^ 41 + l)).dirty))

/-- PATROL_SCRUB (R379): uncorrectable lines of memory that it finds are poisoned (R292); the next scrub is 24 h later. -/
def execPatrolScrub (s : State) : Host.Outcome State Fault Refusal :=
  .next (planScrub ((s.latent.filter (fun l => !(lineInSpiral s l))).foldl poisonLine s))

/-! ### Unassigned opcodes (R78) -/

/-- The illegal-instruction trap at the next instruction of the group and split that `cur` names, for a word that stands
for no instruction (R79). -/
def illegalTrap (cause : Nat) (s : State) : Host.Outcome State Fault Refusal :=
  match s.cur with
  | none => .fault .noIssuingGroup
  | some (u, pl) =>
    match groupAt? s u with
    | none => .fault .noIssuingGroup
    | some g =>
      match splitAt? g pl with
      | none => .fault .noIssuingGroup
      | some sp =>
        let w : Word3 := .base ⟨0, 0, 0, 0, 0⟩
        let c := mkCtx s g sp .nop w (fieldsOf .nop w).e
        .next (if !(delivered c) then { s with turn := .held } else raiseAt s c 0x01 cause sp.mask 0)

/-- UNASSIGNED_OPCODE (R78): cause 1. -/
def execUnassignedOpcode (_word : BitVec 32) (s : State) : Host.Outcome State Fault Refusal := illegalTrap 1 s

end Sys2Proof.Machine
end

