-- ==== Sys2Proof/Machine/Vector.lean ====
section
/-!
DEFINITION. Vector arithmetic, conversions and lane operations (R142 to R157).
-/
namespace Sys2Proof.Machine

/-- The type code of an instruction. -/
def vTy (c : Ctx) : Nat := c.f.ty.toNat

/-- Apply an element operation to every element of a lane (R142): `f e` is element e of the result. -/
def mapElems (t : Nat) (f : Nat → Nat) : Nat :=
  if tyWidth t = 64 then f 0 % 2 ^ 64 else joinElems (tyWidth t) ((List.range (32 / tyWidth t)).map f)

/-- Element e of a lane value of type t. -/
def elemOf (t x e : Nat) : Nat := if tyWidth t = 64 then x else elemAt (tyWidth t) x e

/-- Write lane values into the destination register, or a pair for 64-bit types, with latency `lat`. -/
def vecPut (c : Ctx) (lat t : Nat) (f : Nat → Nat) (s : State) : State :=
  let ls := lanesOf c.sel
  let lo : WriteTo := .v c.f.d.toNat (wholeLanes ls (fun l => BitVec.ofNat 32 (f l)))
  if tyWidth t = 64 then
    let hi : WriteTo := .v (c.f.d.toNat + 1) (wholeLanes ls (fun l => BitVec.ofNat 32 (f l / 2 ^ 32)))
    writeAt (later s c.g.core c.g.uid lat lo) c lat hi
  else writeAt s c lat lo

def vecWrite (c : Ctx) (lat t : Nat) (f : Nat → Nat) (s : State) : Verdict := .act (vecPut c lat t f s)

/-- Element-wise operation of one, two and three sources on element patterns. -/
def vec1 (lat : Nat) (op : Nat → Nat → Nat → Nat) (c : Ctx) (s : State) : Verdict :=
  let t := vTy c
  vecWrite c lat t (fun l =>
    let a := srcV s c t 1 l
    mapElems t (fun e => op l e (elemOf t a e))) s
def vec2 (lat : Nat) (op : Nat → Nat → Nat → Nat → Nat) (c : Ctx) (s : State) : Verdict :=
  let t := vTy c
  vecWrite c lat t (fun l =>
    let a := srcV s c t 1 l
    let b := srcV s c t 2 l
    mapElems t (fun e => op l e (elemOf t a e) (elemOf t b e))) s
def vec3 (lat : Nat) (op : Nat → Nat → Nat → Nat → Nat → Nat) (c : Ctx) (s : State) : Verdict :=
  let t := vTy c
  vecWrite c lat t (fun l =>
    let a := srcV s c t 1 l
    let b := srcV s c t 2 l
    let d := srcV s c t 3 l
    mapElems t (fun e => op l e (elemOf t a e) (elemOf t b e) (elemOf t d e))) s

/-! ### Integers (R145) -/

/-- The integer that an element pattern of an instruction's type stands for. -/
def vInt (c : Ctx) (x : Nat) : Int := intOf (tySigned (vTy c)) (tyWidth (vTy c)) x
def vWrap (c : Ctx) (z : Int) : Nat := wrapN (tyWidth (vTy c)) z

def intOp2 (lat : Nat) (op : Int → Int → Int) (c : Ctx) (s : State) : Verdict :=
  vec2 lat (fun _ _ a b => vWrap c (op (vInt c a) (vInt c b))) c s
def bitOp2 (op : Nat → Nat → Nat) (c : Ctx) (s : State) : Verdict := vec2 2 (fun _ _ a b => op a b) c s

def ownVaddInt : Ctx → State → Verdict := intOp2 2 (· + ·)
def ownVsubInt : Ctx → State → Verdict := intOp2 2 (· - ·)
def ownVmulInt : Ctx → State → Verdict := intOp2 4 (· * ·)
def ownVmulh (c : Ctx) (s : State) : Verdict := intOp2 4 (fun a b => (a * b).fdiv (2 ^ tyWidth (vTy c))) c s
def ownVmad (c : Ctx) (s : State) : Verdict := vec3 4 (fun _ _ a b d => vWrap c (vInt c a * vInt c b + vInt c d)) c s
def ownVand : Ctx → State → Verdict := bitOp2 (fun a b => a &&& b)
def ownVor : Ctx → State → Verdict := bitOp2 (fun a b => a ||| b)
def ownVxor : Ctx → State → Verdict := bitOp2 (fun a b => a ^^^ b)
def ownVshl (c : Ctx) (s : State) : Verdict := bitOp2 (scShl (tyWidth (vTy c))) c s
def ownVshr (c : Ctx) (s : State) : Verdict :=
  vec2 2 (fun _ _ a b => vWrap c (scShr (tyWidth (vTy c)) (vInt c a) b)) c s
def ownVminInt : Ctx → State → Verdict := intOp2 2 min
def ownVmaxInt : Ctx → State → Verdict := intOp2 2 max
def ownVabsInt (c : Ctx) (s : State) : Verdict := vec1 2 (fun _ _ a => vWrap c (vInt c a).natAbs) c s
def ownVnegInt (c : Ctx) (s : State) : Verdict := vec1 2 (fun _ _ a => vWrap c (-(vInt c a))) c s
def ownVadds (c : Ctx) (s : State) : Verdict :=
  intOp2 2 (fun a b => clampN (tySigned (vTy c)) (tyWidth (vTy c)) (a + b)) c s
def ownVsubs (c : Ctx) (s : State) : Verdict :=
  intOp2 2 (fun a b => clampN (tySigned (vTy c)) (tyWidth (vTy c)) (a - b)) c s
def ownVsel (c : Ctx) (s : State) : Verdict :=
  let k := kread c.g c.f.sc.toNat
  vec2 2 (fun l _ a b => if k.getLsbD l then a else b) c s
def ownVmov : Ctx → State → Verdict := vec1 2 (fun _ _ a => a)
def ownVclz (c : Ctx) (s : State) : Verdict := vec1 2 (fun _ _ a => tyWidth (vTy c) - bitLen a) c s
def ownVpopc (c : Ctx) (s : State) : Verdict := vec1 2 (fun _ _ a => popCount (tyWidth (vTy c)) a) c s

/-- `vdot4` (R145): four 8-bit products added to a 32-bit accumulator; C is a 32-bit operand. -/
def ownVdot4 (c : Ctx) (s : State) : Verdict :=
  let t := vTy c
  vecWrite c 4 tyS32 (fun l =>
    let a := srcV s c t 1 l
    let b := srcV s c t 2 l
    let d := srcV s c tyS32 3 l
    wrapN 32 (intOf true 32 d +
      ((List.range 4).map (fun e => vInt c (elemAt 8 a e) * vInt c (elemAt 8 b e))).sum)) s

/-- The field of a 32-bit word that b names (R145): its lowest and highest bit. -/
def fieldBounds32 (b : Nat) : Nat × Nat :=
  let p := b % 32
  (p, min (p + b / 2 ^ 8 % 32) 31)

def ownVbfe (c : Ctx) (s : State) : Verdict :=
  vec2 2 (fun _ _ a b =>
    let (p, h) := fieldBounds32 b
    wrapN 32 (intOf (tySigned (vTy c)) (h + 1 - p) (bits a h p))) c s

def ownVbfi (c : Ctx) (s : State) : Verdict :=
  vec3 2 (fun _ _ a b d =>
    let (p, h) := fieldBounds32 b
    let m := (2 ^ (h + 1 - p) - 1) * 2 ^ p
    (d - (d &&& m)) + (a * 2 ^ p &&& m)) c s

def execVaddS32 (f : BaseWord) (s : State) : Host.Outcome State Fault Refusal := issue .vaddS32 (.base f) ownVaddInt s
def execVaddS32Ext (f : XWord) (s : State) : Host.Outcome State Fault Refusal := issue .vaddS32 f.toWord3 ownVaddInt s
def execVsubS32 (f : BaseWord) (s : State) : Host.Outcome State Fault Refusal := issue .vsubS32 (.base f) ownVsubInt s
def execVsubS32Ext (f : XWord) (s : State) : Host.Outcome State Fault Refusal := issue .vsubS32 f.toWord3 ownVsubInt s
def execVmulS32 (f : BaseWord) (s : State) : Host.Outcome State Fault Refusal := issue .vmulS32 (.base f) ownVmulInt s
def execVmulS32Ext (f : XWord) (s : State) : Host.Outcome State Fault Refusal := issue .vmulS32 f.toWord3 ownVmulInt s
def execVmad (f : BaseWord) (s : State) : Host.Outcome State Fault Refusal := issue .vmad (.base f) ownVmad s
def execVmadExt (f : XWord) (s : State) : Host.Outcome State Fault Refusal := issue .vmad f.toWord3 ownVmad s
def execVand (f : BaseWord) (s : State) : Host.Outcome State Fault Refusal := issue .vand (.base f) ownVand s
def execVandExt (f : XWord) (s : State) : Host.Outcome State Fault Refusal := issue .vand f.toWord3 ownVand s
def execVor (f : BaseWord) (s : State) : Host.Outcome State Fault Refusal := issue .vor (.base f) ownVor s
def execVorExt (f : XWord) (s : State) : Host.Outcome State Fault Refusal := issue .vor f.toWord3 ownVor s
def execVxor (f : BaseWord) (s : State) : Host.Outcome State Fault Refusal := issue .vxor (.base f) ownVxor s
def execVxorExt (f : XWord) (s : State) : Host.Outcome State Fault Refusal := issue .vxor f.toWord3 ownVxor s
def execVshl (f : BaseWord) (s : State) : Host.Outcome State Fault Refusal := issue .vshl (.base f) ownVshl s
def execVshlExt (f : XWord) (s : State) : Host.Outcome State Fault Refusal := issue .vshl f.toWord3 ownVshl s
def execVshr (f : BaseWord) (s : State) : Host.Outcome State Fault Refusal := issue .vshr (.base f) ownVshr s
def execVshrExt (f : XWord) (s : State) : Host.Outcome State Fault Refusal := issue .vshr f.toWord3 ownVshr s
def execVminS32 (f : BaseWord) (s : State) : Host.Outcome State Fault Refusal := issue .vminS32 (.base f) ownVminInt s
def execVminS32Ext (f : XWord) (s : State) : Host.Outcome State Fault Refusal := issue .vminS32 f.toWord3 ownVminInt s
def execVmaxS32 (f : BaseWord) (s : State) : Host.Outcome State Fault Refusal := issue .vmaxS32 (.base f) ownVmaxInt s
def execVmaxS32Ext (f : XWord) (s : State) : Host.Outcome State Fault Refusal := issue .vmaxS32 f.toWord3 ownVmaxInt s
def execVabsS32 (f : BaseWord) (s : State) : Host.Outcome State Fault Refusal := issue .vabsS32 (.base f) ownVabsInt s
def execVabsS32Ext (f : XWord) (s : State) : Host.Outcome State Fault Refusal := issue .vabsS32 f.toWord3 ownVabsInt s
def execVnegS32 (f : BaseWord) (s : State) : Host.Outcome State Fault Refusal := issue .vnegS32 (.base f) ownVnegInt s
def execVnegS32Ext (f : XWord) (s : State) : Host.Outcome State Fault Refusal := issue .vnegS32 f.toWord3 ownVnegInt s
def execVsel (f : BaseWord) (s : State) : Host.Outcome State Fault Refusal := issue .vsel (.base f) ownVsel s
def execVselExt (f : XWord) (s : State) : Host.Outcome State Fault Refusal := issue .vsel f.toWord3 ownVsel s
def execVmov (f : BaseWord) (s : State) : Host.Outcome State Fault Refusal := issue .vmov (.base f) ownVmov s
def execVmovExt (f : XWord) (s : State) : Host.Outcome State Fault Refusal := issue .vmov f.toWord3 ownVmov s
def execVdot4 (f : BaseWord) (s : State) : Host.Outcome State Fault Refusal := issue .vdot4 (.base f) ownVdot4 s
def execVdot4Ext (f : XWord) (s : State) : Host.Outcome State Fault Refusal := issue .vdot4 f.toWord3 ownVdot4 s
def execVclz (f : BaseWord) (s : State) : Host.Outcome State Fault Refusal := issue .vclz (.base f) ownVclz s
def execVclzExt (f : XWord) (s : State) : Host.Outcome State Fault Refusal := issue .vclz f.toWord3 ownVclz s
def execVpopc (f : BaseWord) (s : State) : Host.Outcome State Fault Refusal := issue .vpopc (.base f) ownVpopc s
def execVpopcExt (f : XWord) (s : State) : Host.Outcome State Fault Refusal := issue .vpopc f.toWord3 ownVpopc s
def execVbfe (f : BaseWord) (s : State) : Host.Outcome State Fault Refusal := issue .vbfe (.base f) ownVbfe s
def execVbfeExt (f : XWord) (s : State) : Host.Outcome State Fault Refusal := issue .vbfe f.toWord3 ownVbfe s
def execVbfi (f : BaseWord) (s : State) : Host.Outcome State Fault Refusal := issue .vbfi (.base f) ownVbfi s
def execVbfiExt (f : XWord) (s : State) : Host.Outcome State Fault Refusal := issue .vbfi f.toWord3 ownVbfi s
def execVmulh (f : BaseWord) (s : State) : Host.Outcome State Fault Refusal := issue .vmulh (.base f) ownVmulh s
def execVmulhExt (f : XWord) (s : State) : Host.Outcome State Fault Refusal := issue .vmulh f.toWord3 ownVmulh s
def execVadds (f : BaseWord) (s : State) : Host.Outcome State Fault Refusal := issue .vadds (.base f) ownVadds s
def execVaddsExt (f : XWord) (s : State) : Host.Outcome State Fault Refusal := issue .vadds f.toWord3 ownVadds s
def execVsubs (f : BaseWord) (s : State) : Host.Outcome State Fault Refusal := issue .vsubs (.base f) ownVsubs s
def execVsubsExt (f : XWord) (s : State) : Host.Outcome State Fault Refusal := issue .vsubs f.toWord3 ownVsubs s

/-! ### Comparisons and masks (R146, R147) -/

/-- Write bits of a mask register for the selected lanes. -/
def maskWrite (c : Ctx) (lat : Nat) (m : Word) (s : State) : Verdict :=
  .act (writeAt s c lat (.k c.f.d.toNat c.sel m))

/-- The selected lanes whose comparison holds (R146). -/
def cmpMask (c : Ctx) (s : State) : Word :=
  maskOf ((lanesOf c.sel).filter (fun l => cmpElem (c.f.opx.toNat % 8) (vTy c) (srcV s c (vTy c) 1 l) (srcV s c (vTy c) 2 l)))

def ownVcmp (c : Ctx) (s : State) : Verdict := maskWrite c 2 (cmpMask c s) s

/-- A mask source (R147). -/
def srcK (s : State) (c : Ctx) (i : Nat) : Word :=
  match kindOf c.f i with
  | 0 => kread c.g (fieldOf c.f i).toNat
  | _ => (srcS s c i).setWidth 32

/-- The mask operations by code (R147). -/
def kopValue (code : Nat) (a b : Word) : Word :=
  match code with
  | 0 => a &&& b
  | 1 => a ||| b
  | 2 => a ^^^ b
  | 3 => a &&& ~~~b
  | 4 => a ||| ~~~b
  | 5 => ~~~a
  | 6 => a
  | _ => 0xFFFFFFFF

def ownVkop (c : Ctx) (s : State) : Verdict := maskWrite c 2 (kopValue (c.f.opx.toNat % 8) (srcK s c 1) (srcK s c 2)) s

def execVcmpS32 (f : BaseWord) (s : State) : Host.Outcome State Fault Refusal := issue .vcmpS32 (.base f) ownVcmp s
def execVcmpS32Ext (f : XWord) (s : State) : Host.Outcome State Fault Refusal := issue .vcmpS32 f.toWord3 ownVcmp s
def execVcmpF32 (f : BaseWord) (s : State) : Host.Outcome State Fault Refusal := issue .vcmpF32 (.base f) ownVcmp s
def execVcmpF32Ext (f : XWord) (s : State) : Host.Outcome State Fault Refusal := issue .vcmpF32 f.toWord3 ownVcmp s
def execVkop (f : BaseWord) (s : State) : Host.Outcome State Fault Refusal := issue .vkop (.base f) ownVkop s
def execVkopExt (f : XWord) (s : State) : Host.Outcome State Fault Refusal := issue .vkop f.toWord3 ownVkop s

/-! ### Floating point (R148 to R150) -/

/-- Round an exact value into the instruction's type under its RM, for element e of lane l (R48, R49). -/
def vRound (c : Ctx) (t l e : Nat) (x : Xr) : Nat :=
  convertTo t c.f.rm.toNat c.f.sat (drawRand c.g.seed l e) x

def fltOp1 (lat : Nat) (op : Nat → Nat → Xr → Nat) (c : Ctx) (s : State) : Verdict :=
  vec1 lat (fun l e a => op l e (elemValue (vTy c) a)) c s
def fltOp2 (lat : Nat) (op : Xr → Xr → Xr) (c : Ctx) (s : State) : Verdict :=
  vec2 lat (fun l e a b => vRound c (vTy c) l e (op (elemValue (vTy c) a) (elemValue (vTy c) b))) c s
def fltOp3 (op : Xr → Xr → Xr → Xr) (c : Ctx) (s : State) : Verdict :=
  vec3 4 (fun l e a b d =>
    vRound c (vTy c) l e (op (elemValue (vTy c) a) (elemValue (vTy c) b) (elemValue (vTy c) d))) c s

def ownVaddF (c : Ctx) (s : State) : Verdict := fltOp2 4 (xadd c.f.rm.toNat) c s
def ownVsubF (c : Ctx) (s : State) : Verdict := fltOp2 4 (fun a b => xadd c.f.rm.toNat a (xneg b)) c s
def ownVmulF : Ctx → State → Verdict := fltOp2 4 xmul
def ownVfma (c : Ctx) (s : State) : Verdict := fltOp3 (fun a b d => xadd c.f.rm.toNat (xmul a b) d) c s
def ownVfms (c : Ctx) (s : State) : Verdict := fltOp3 (fun a b d => xadd c.f.rm.toNat (xmul a b) (xneg d)) c s
def ownVfnma (c : Ctx) (s : State) : Verdict := fltOp3 (fun a b d => xadd c.f.rm.toNat (xneg (xmul a b)) d) c s
def ownVminF : Ctx → State → Verdict := fltOp2 4 xmin
def ownVmaxF : Ctx → State → Verdict := fltOp2 4 xmax
def ownVdiv : Ctx → State → Verdict := fltOp2 14 xdiv
def ownVsqrt (c : Ctx) (s : State) : Verdict := fltOp1 14 (fun l e a => vRound c (vTy c) l e (xsqrt a)) c s

/-- The magnitude of a value, and its negation by the sign bit (R148). -/
def xabs : Xr → Xr
  | .nan => .nan
  | .inf _ => .inf false
  | .fin _ m e st => .fin false m e st

def ownVabsF (c : Ctx) (s : State) : Verdict := fltOp1 4 (fun l e a => vRound c (vTy c) l e (xabs a)) c s
def ownVnegF (c : Ctx) (s : State) : Verdict := fltOp1 4 (fun l e a => vRound c (vTy c) l e (xneg a)) c s

/-- A special function of R56 on FP32 lanes. -/
def ownSpecial (fn : Word → Word) : Ctx → State → Verdict := vec1 10 (fun _ _ a => (fn (BitVec.ofNat 32 a)).toNat)

def execVaddF32 (f : BaseWord) (s : State) : Host.Outcome State Fault Refusal := issue .vaddF32 (.base f) ownVaddF s
def execVaddF32Ext (f : XWord) (s : State) : Host.Outcome State Fault Refusal := issue .vaddF32 f.toWord3 ownVaddF s
def execVsubF32 (f : BaseWord) (s : State) : Host.Outcome State Fault Refusal := issue .vsubF32 (.base f) ownVsubF s
def execVsubF32Ext (f : XWord) (s : State) : Host.Outcome State Fault Refusal := issue .vsubF32 f.toWord3 ownVsubF s
def execVmulF32 (f : BaseWord) (s : State) : Host.Outcome State Fault Refusal := issue .vmulF32 (.base f) ownVmulF s
def execVmulF32Ext (f : XWord) (s : State) : Host.Outcome State Fault Refusal := issue .vmulF32 f.toWord3 ownVmulF s
def execVfma (f : BaseWord) (s : State) : Host.Outcome State Fault Refusal := issue .vfma (.base f) ownVfma s
def execVfmaExt (f : XWord) (s : State) : Host.Outcome State Fault Refusal := issue .vfma f.toWord3 ownVfma s
def execVfms (f : BaseWord) (s : State) : Host.Outcome State Fault Refusal := issue .vfms (.base f) ownVfms s
def execVfmsExt (f : XWord) (s : State) : Host.Outcome State Fault Refusal := issue .vfms f.toWord3 ownVfms s
def execVfnma (f : BaseWord) (s : State) : Host.Outcome State Fault Refusal := issue .vfnma (.base f) ownVfnma s
def execVfnmaExt (f : XWord) (s : State) : Host.Outcome State Fault Refusal := issue .vfnma f.toWord3 ownVfnma s
def execVminF32 (f : BaseWord) (s : State) : Host.Outcome State Fault Refusal := issue .vminF32 (.base f) ownVminF s
def execVminF32Ext (f : XWord) (s : State) : Host.Outcome State Fault Refusal := issue .vminF32 f.toWord3 ownVminF s
def execVmaxF32 (f : BaseWord) (s : State) : Host.Outcome State Fault Refusal := issue .vmaxF32 (.base f) ownVmaxF s
def execVmaxF32Ext (f : XWord) (s : State) : Host.Outcome State Fault Refusal := issue .vmaxF32 f.toWord3 ownVmaxF s
def execVabsF32 (f : BaseWord) (s : State) : Host.Outcome State Fault Refusal := issue .vabsF32 (.base f) ownVabsF s
def execVabsF32Ext (f : XWord) (s : State) : Host.Outcome State Fault Refusal := issue .vabsF32 f.toWord3 ownVabsF s
def execVnegF32 (f : BaseWord) (s : State) : Host.Outcome State Fault Refusal := issue .vnegF32 (.base f) ownVnegF s
def execVnegF32Ext (f : XWord) (s : State) : Host.Outcome State Fault Refusal := issue .vnegF32 f.toWord3 ownVnegF s
def execVdiv (f : BaseWord) (s : State) : Host.Outcome State Fault Refusal := issue .vdiv (.base f) ownVdiv s
def execVdivExt (f : XWord) (s : State) : Host.Outcome State Fault Refusal := issue .vdiv f.toWord3 ownVdiv s
def execVsqrt (f : BaseWord) (s : State) : Host.Outcome State Fault Refusal := issue .vsqrt (.base f) ownVsqrt s
def execVsqrtExt (f : XWord) (s : State) : Host.Outcome State Fault Refusal := issue .vsqrt f.toWord3 ownVsqrt s
def execVrsqrt (f : BaseWord) (s : State) : Host.Outcome State Fault Refusal :=
  issue .vrsqrt (.base f) (ownSpecial rsqrtF32) s
def execVrsqrtExt (f : XWord) (s : State) : Host.Outcome State Fault Refusal :=
  issue .vrsqrt f.toWord3 (ownSpecial rsqrtF32) s
def execVrcp (f : BaseWord) (s : State) : Host.Outcome State Fault Refusal :=
  issue .vrcp (.base f) (ownSpecial rcpF32) s
def execVrcpExt (f : XWord) (s : State) : Host.Outcome State Fault Refusal :=
  issue .vrcp f.toWord3 (ownSpecial rcpF32) s
def execVexp2 (f : BaseWord) (s : State) : Host.Outcome State Fault Refusal :=
  issue .vexp2 (.base f) (ownSpecial (specialF32 .exp2)) s
def execVexp2Ext (f : XWord) (s : State) : Host.Outcome State Fault Refusal :=
  issue .vexp2 f.toWord3 (ownSpecial (specialF32 .exp2)) s
def execVexp (f : BaseWord) (s : State) : Host.Outcome State Fault Refusal :=
  issue .vexp (.base f) (ownSpecial (specialF32 .exp)) s
def execVexpExt (f : XWord) (s : State) : Host.Outcome State Fault Refusal :=
  issue .vexp f.toWord3 (ownSpecial (specialF32 .exp)) s
def execVlog2 (f : BaseWord) (s : State) : Host.Outcome State Fault Refusal :=
  issue .vlog2 (.base f) (ownSpecial (specialF32 .log2)) s
def execVlog2Ext (f : XWord) (s : State) : Host.Outcome State Fault Refusal :=
  issue .vlog2 f.toWord3 (ownSpecial (specialF32 .log2)) s
def execVlog (f : BaseWord) (s : State) : Host.Outcome State Fault Refusal :=
  issue .vlog (.base f) (ownSpecial (specialF32 .log)) s
def execVlogExt (f : XWord) (s : State) : Host.Outcome State Fault Refusal :=
  issue .vlog f.toWord3 (ownSpecial (specialF32 .log)) s
def execVsin (f : BaseWord) (s : State) : Host.Outcome State Fault Refusal :=
  issue .vsin (.base f) (ownSpecial (specialF32 .sin)) s
def execVsinExt (f : XWord) (s : State) : Host.Outcome State Fault Refusal :=
  issue .vsin f.toWord3 (ownSpecial (specialF32 .sin)) s
def execVcos (f : BaseWord) (s : State) : Host.Outcome State Fault Refusal :=
  issue .vcos (.base f) (ownSpecial (specialF32 .cos)) s
def execVcosExt (f : XWord) (s : State) : Host.Outcome State Fault Refusal :=
  issue .vcos f.toWord3 (ownSpecial (specialF32 .cos)) s
def execVtanh (f : BaseWord) (s : State) : Host.Outcome State Fault Refusal :=
  issue .vtanh (.base f) (ownSpecial (specialF32 .tanh)) s
def execVtanhExt (f : XWord) (s : State) : Host.Outcome State Fault Refusal :=
  issue .vtanh f.toWord3 (ownSpecial (specialF32 .tanh)) s
def execVsigm (f : BaseWord) (s : State) : Host.Outcome State Fault Refusal :=
  issue .vsigm (.base f) (ownSpecial (specialF32 .sigm)) s
def execVsigmExt (f : XWord) (s : State) : Host.Outcome State Fault Refusal :=
  issue .vsigm f.toWord3 (ownSpecial (specialF32 .sigm)) s

/-- The integral value that a mode selects, with the sign of the operand (R150). -/
def xint32 (rm rand : Nat) : Xr → Xr
  | .fin neg m e st => .fin neg (roundAt rm neg m e st 0 rand) 0 false
  | x => x

def ownVrint (c : Ctx) (s : State) : Verdict :=
  fltOp1 4 (fun l e a => roundF fmtF32 0 false 0 (xint32 c.f.rm.toNat (drawRand c.g.seed l e) a)) c s

/-- `vscale` (R150): b is read as `.s32`. -/
def ownVscale (c : Ctx) (s : State) : Verdict :=
  let t := tyF32
  vecWrite c 4 t (fun l =>
    let a := srcV s c t 1 l
    let b := srcV s c tyS32 2 l
    vRound c t l 0 (xscale (intOf true 32 b) (elemValue t a))) s

/-- The exponent of a value (R150). -/
def xexpo : Xr → Int
  | .fin _ m e _ => if m = 0 then -(2 ^ 31) else e + Nat.log2 m
  | _ => 2 ^ 31 - 1

def ownVexpo (c : Ctx) (s : State) : Verdict := fltOp1 4 (fun _ _ a => wrapN 32 (xexpo a)) c s
def ownVmant (c : Ctx) (s : State) : Verdict :=
  fltOp1 4 (fun _ _ a => roundF fmtF32 0 false 0 (match a with
    | .fin neg m e st => if m = 0 then a else xscale (-(xexpo a)) (.fin neg m e st)
    | x => x)) c s

def execVrint (f : BaseWord) (s : State) : Host.Outcome State Fault Refusal := issue .vrint (.base f) ownVrint s
def execVrintExt (f : XWord) (s : State) : Host.Outcome State Fault Refusal := issue .vrint f.toWord3 ownVrint s
def execVscale (f : BaseWord) (s : State) : Host.Outcome State Fault Refusal := issue .vscale (.base f) ownVscale s
def execVscaleExt (f : XWord) (s : State) : Host.Outcome State Fault Refusal := issue .vscale f.toWord3 ownVscale s
def execVexpo (f : ExtWord) (s : State) : Host.Outcome State Fault Refusal := issue .vexpo (.ext f) ownVexpo s
def execVmant (f : ExtWord) (s : State) : Host.Outcome State Fault Refusal := issue .vmant (.ext f) ownVmant s

/-! ### Conversions (R151 to R153) -/

/-- Write some elements of each selected lane, the others keeping their values (R151, R152): elements as (index, value) of
width w. -/
def elemPut (c : Ctx) (lat w : Nat) (f : Nat → List (Nat × Nat)) (s : State) : State :=
  writeAt s c lat (.v c.f.d.toNat ((lanesOf c.sel).map (fun l =>
    let es := f l
    (l, BitVec.ofNat 32 ((es.map (fun p => (2 ^ w - 1) * 2 ^ (w * p.1))).sum),
      BitVec.ofNat 32 ((es.map (fun p => p.2 % 2 ^ w * 2 ^ (w * p.1))).sum)))))

def elemWrite (c : Ctx) (lat w : Nat) (f : Nat → List (Nat × Nat)) (s : State) : Verdict := .act (elemPut c lat w f s)

/-- `vcvt` (R151): element `i` of the conversion in lane `l`, as (destination element, value). -/
def cvtElem (s : State) (c : Ctx) (n l i : Nat) : Nat × Nat :=
  let t := vTy c
  let u := c.f.opx.toNat % 32
  let pos := c.f.opx.toNat / 32 % 8
  let src := if tyWidth u < tyWidth t then pos * n + i else i
  let dst := if tyWidth t < tyWidth u then pos * n + i else i
  (dst, vRound c t l dst (elemValue u (elemOf u (srcV s c u 1 l) src)))

/-- The elements that a conversion converts per lane: those of the wider type (R151). -/
def cvtCount (c : Ctx) : Nat :=
  let wide := max (tyWidth (vTy c)) (tyWidth (c.f.opx.toNat % 32))
  if wide = 64 then 1 else 32 / wide

/-- A narrowing conversion writes one slice of the destination, any other the whole register (R151). -/
def convertLanes (c : Ctx) (s : State) : State :=
  let t := vTy c
  let n := cvtCount c
  if tyWidth t < tyWidth (c.f.opx.toNat % 32) then elemPut c 4 (tyWidth t) (fun l => (List.range n).map (cvtElem s c n l)) s
  else vecPut c 4 t (fun l =>
    if tyWidth t = 64 then (cvtElem s c n l 0).2 else joinElems (tyWidth t) ((List.range n).map (fun i => (cvtElem s c n l i).2))) s

def ownVcvt (c : Ctx) (s : State) : Verdict := .act (convertLanes c s)

/-- `vquant` (R152): the value of lane `l` over its scale, in the instruction's type. -/
def quantElem (s : State) (c : Ctx) (pos l : Nat) : Nat :=
  let e := srcV s c tyN32 2 l % 256
  vRound c (vTy c) l pos (if e = 255 then .nan else xscale (127 - e) (elemValue tyF32 (srcV s c tyF32 1 l)))

def ownVquant (c : Ctx) (s : State) : Verdict :=
  let pos := c.f.opx.toNat / 32 % 8
  elemWrite c 4 (tyWidth (vTy c)) (fun l => [(pos, quantElem s c pos l)]) s

/-- `vdequant` (R152): an element of lane `l` times its scale, in FP32. -/
def dequantLane (s : State) (c : Ctx) (l : Nat) : Nat :=
  let t := vTy c
  let e := srcV s c tyN32 2 l % 256
  let a := elemOf t (srcV s c t 1 l) (c.f.opx.toNat / 32 % 8)
  vRound c tyF32 l 0 (if e = 255 then .nan else xscale ((e : Int) - 127) (elemValue t a))

def ownVdequant (c : Ctx) (s : State) : Verdict := vecWrite c 4 tyF32 (dequantLane s c) s

/-- `vpack` and `vunpack` (R153). -/
def ownVpack (c : Ctx) (s : State) : Verdict :=
  let t := vTy c
  vecWrite c 4 t (fun l =>
    joinElems 16 [vRound c t l 0 (elemValue tyF32 (srcV s c tyF32 1 l)), vRound c t l 1 (elemValue tyF32 (srcV s c tyF32 2 l))]) s

def ownVunpack (c : Ctx) (s : State) : Verdict :=
  let t := vTy c
  vecWrite c 4 tyF32 (fun l =>
    roundF fmtF32 0 false 0 (elemValue t (elemOf t (srcV s c t 1 l) (c.f.opx.toNat / 32 % 8)))) s

/-- `scvt` (R153): one draw at lane 0, element 0. -/
def cvtScalar (c : Ctx) (s : State) : DWord :=
  let t := vTy c
  let u := c.f.opx.toNat % 32
  let a := if kindOf c.f 1 = 2 || kindOf c.f 1 = 3 then constBits u (kindOf c.f 1 == 2) (srcS s c 1)
           else (srcS s c 1).toNat % 2 ^ tyWidth u
  let r := vRound c t 0 0 (elemValue u a)
  if tyInt t then scExtend t r else BitVec.ofNat 64 r

def ownScvt (c : Ctx) (s : State) : Verdict := scWrite c 2 (cvtScalar c s) s

def execVcvt (f : ExtWord) (s : State) : Host.Outcome State Fault Refusal := issue .vcvt (.ext f) ownVcvt s
def execVquant (f : ExtWord) (s : State) : Host.Outcome State Fault Refusal := issue .vquant (.ext f) ownVquant s
def execVdequant (f : ExtWord) (s : State) : Host.Outcome State Fault Refusal := issue .vdequant (.ext f) ownVdequant s
def execVpack (f : BaseWord) (s : State) : Host.Outcome State Fault Refusal := issue .vpack (.base f) ownVpack s
def execVpackExt (f : XWord) (s : State) : Host.Outcome State Fault Refusal := issue .vpack f.toWord3 ownVpack s
def execVunpack (f : BaseWord) (s : State) : Host.Outcome State Fault Refusal := issue .vunpack (.base f) ownVunpack s
def execVunpackExt (f : XWord) (s : State) : Host.Outcome State Fault Refusal := issue .vunpack f.toWord3 ownVunpack s
def execScvt (f : ExtWord) (s : State) : Host.Outcome State Fault Refusal := issue .scvt (.ext f) ownScvt s

/-! ### Lane operations (R154 to R157) -/

/-- A shuffle (R154): lane l receives lane `m l` of A. -/
def shuffle (m : State → Ctx → Nat → Nat) (c : Ctx) (s : State) : Verdict :=
  vecWrite c 4 tyN32 (fun l => (vread c.g c.f.sa.toNat (m s c l % 32)).toNat) s

/-- The scalar operand B of a shuffle, `vext` or `vins`: kind 1 or 2. -/
def laneIndex (s : State) (c : Ctx) : Nat := (srcS s c 2).toNat % 32

def ownVshfl : Ctx → State → Verdict := shuffle (fun s c l => srcV s c tyN32 2 l)
def ownVbcast : Ctx → State → Verdict := shuffle (fun s c _ => laneIndex s c)
def ownVrot : Ctx → State → Verdict := shuffle (fun s c l => l + laneIndex s c)
def ownVbfly : Ctx → State → Verdict := shuffle (fun s c l => l ^^^ laneIndex s c)

def execVshfl (f : BaseWord) (s : State) : Host.Outcome State Fault Refusal := issue .vshfl (.base f) ownVshfl s
def execVshflExt (f : XWord) (s : State) : Host.Outcome State Fault Refusal := issue .vshfl f.toWord3 ownVshfl s
def execVbcast (f : ExtWord) (s : State) : Host.Outcome State Fault Refusal := issue .vbcast (.ext f) ownVbcast s
def execVrot (f : ExtWord) (s : State) : Host.Outcome State Fault Refusal := issue .vrot (.ext f) ownVrot s
def execVbfly (f : ExtWord) (s : State) : Host.Outcome State Fault Refusal := issue .vbfly (.ext f) ownVbfly s

/-- The operation of `vred` and `vscan` by code (R155): on patterns of type t, rounding under RM with a draw. -/
def redOp (c : Ctx) (code t rand a b : Nat) : Nat :=
  let w := tyWidth t
  let i (x : Nat) : Int := intOf (tySigned t) w x
  match code with
  | 0 => if tyInt t then wrapN w (i a + i b) else roundF (fmtOf t) c.f.rm.toNat false rand (xadd c.f.rm.toNat (elemValue t a) (elemValue t b))
  | 1 => if tyInt t then wrapN w (max (i a) (i b)) else roundF (fmtOf t) 0 false 0 (xmax (elemValue t a) (elemValue t b))
  | 2 => if tyInt t then wrapN w (min (i a) (i b)) else roundF (fmtOf t) 0 false 0 (xmin (elemValue t a) (elemValue t b))
  | 3 => a &&& b
  | 4 => a ||| b
  | _ => a ^^^ b

/-- The identity of an operation (R55). -/
def redIdentity (code t : Nat) : Nat :=
  let w := tyWidth t
  match code with
  | 0 => if tyInt t then 0 else 2 ^ (w - 1)
  | 1 => if tyInt t then (if tySigned t then 2 ^ (w - 1) else 0) else roundF (fmtOf t) 0 false 0 (.inf true)
  | 2 => if tyInt t then (if tySigned t then 2 ^ (w - 1) - 1 else 2 ^ w - 1) else roundF (fmtOf t) 0 false 0 (.inf false)
  | 3 => 2 ^ w - 1
  | _ => 0

/-- One level of the tree with its nodes numbered from k on (R155). -/
def pairUpK (op : Nat → Nat → Nat → Nat) : Nat → List Nat → List Nat
  | k, a :: b :: r => op k a b :: pairUpK op (k + 1) r
  | _, l => l

/-- The numbered tree over a power of two of operands. -/
def treeK (op : Nat → Nat → Nat → Nat) (id : Nat) : Nat → Nat → List Nat → Nat
  | 0, _, l => l.headD id
  | f + 1, k, l => treeK op id f (k + l.length / 2) (pairUpK op k l)

/-- `vred` (R155). -/
def redValue (c : Ctx) (s : State) : DWord :=
  let t := vTy c
  let code := c.f.opx.toNat % 8
  let id := redIdentity code t
  let n := 32 / tyWidth t
  let xs := ((List.range 32).map (fun l =>
    let a := srcV s c t 1 l
    (List.range n).map (fun e => if c.sel.getLsbD l then elemAt (tyWidth t) a e else id))).flatten
  let r := treeK (fun k a b => redOp c code t (drawRand c.g.seed (k % 32) (k / 32)) a b) id (ceilLog2 (32 * n)) 0 xs
  if tyInt t then scExtend t r else BitVec.ofNat 64 r

def ownVred (c : Ctx) (s : State) : Verdict := scWrite c 10 (redValue c s) s

/-- One step of the prefix (R156). -/
def scanStep (op : Nat → Nat → Nat → Nat) (d : Nat) (xs : List Nat) : List Nat :=
  (List.range 32).map (fun l => if l < d then xs.getD l 0 else op l (xs.getD (l - d) 0) (xs.getD l 0))

/-- `vscan` (R156): the prefixes of the 32 lanes. Lane 0 is a copy of the source as R156's steps give it, a NaN's payload with
it (DESIGN CHOICE, log 78). -/
def scanValues (c : Ctx) (s : State) : List Nat :=
  let t := vTy c
  let code := c.f.opx.toNat % 8
  let x0 := (List.range 32).map (fun l => if c.sel.getLsbD l then srcV s c t 1 l else redIdentity code t)
  (List.range 5).foldl (fun x j => scanStep (fun l a b => redOp c code t (drawRand c.g.seed l j) a b) (2 ^ j) x) x0

/-- The prefix that lane `l` receives: its own, or under the exclusive form that of the lane below. -/
def scanLane (c : Ctx) (s : State) (l : Nat) : Nat :=
  if c.f.opx.getLsbD 3 then
    (if l = 0 then redIdentity (c.f.opx.toNat % 8) (vTy c) else (scanValues c s).getD (l - 1) 0)
  else (scanValues c s).getD l 0

def ownVscan (c : Ctx) (s : State) : Verdict :=
  let xs := scanValues c s
  let id := redIdentity (c.f.opx.toNat % 8) (vTy c)
  vecWrite c 12 (vTy c) (fun l =>
    if c.f.opx.getLsbD 3 then (if l = 0 then id else xs.getD (l - 1) 0) else xs.getD l 0) s

/-- `vballot`, `vext` and `vins` (R157). -/
def ballotValue (c : Ctx) : DWord := (maskOf ((lanesOf c.sel).filter (fun l => vread c.g c.f.sa.toNat l != 0))).setWidth 64

def ownVballot (c : Ctx) (s : State) : Verdict := scWrite c 4 (ballotValue c) s

def ownVext (c : Ctx) (s : State) : Verdict :=
  scWrite c 4 (scExtend (vTy c) (vread c.g c.f.sa.toNat (laneIndex s c)).toNat) s

def insertLane (c : Ctx) (s : State) : State :=
  let m := laneIndex s c
  writeAt s c 4 (.v c.f.d.toNat (if c.sel.getLsbD m then [(m, 0xFFFFFFFF, (srcS s c 1).setWidth 32)] else []))

def ownVins (c : Ctx) (s : State) : Verdict := .act (insertLane c s)

def execVred (f : BaseWord) (s : State) : Host.Outcome State Fault Refusal := issue .vred (.base f) ownVred s
def execVredExt (f : XWord) (s : State) : Host.Outcome State Fault Refusal := issue .vred f.toWord3 ownVred s
def execVscan (f : ExtWord) (s : State) : Host.Outcome State Fault Refusal := issue .vscan (.ext f) ownVscan s
def execVballot (f : BaseWord) (s : State) : Host.Outcome State Fault Refusal := issue .vballot (.base f) ownVballot s
def execVballotExt (f : XWord) (s : State) : Host.Outcome State Fault Refusal := issue .vballot f.toWord3 ownVballot s
def execVext (f : ExtWord) (s : State) : Host.Outcome State Fault Refusal := issue .vext (.ext f) ownVext s
def execVins (f : ExtWord) (s : State) : Host.Outcome State Fault Refusal := issue .vins (.ext f) ownVins s

end Sys2Proof.Machine
end

