-- ==== Sys2Proof/Machine/Dispatch.lean ====
section
/-!
DEFINITION. One arm per row of the opcode table: the meaning of each instruction and of each other step.
-/
namespace Sys2Proof.Machine

def exec (i : Instr) (s : State) : Host.Outcome State Fault Refusal :=
  match i with
  | .nop f => Sys2Proof.Machine.execNop f s
  | .nopExt f => Sys2Proof.Machine.execNopExt f s
  | .br f => Sys2Proof.Machine.execBr f s
  | .brExt f => Sys2Proof.Machine.execBrExt f s
  | .brZ f => Sys2Proof.Machine.execBrZ f s
  | .brZExt f => Sys2Proof.Machine.execBrZExt f s
  | .brNz f => Sys2Proof.Machine.execBrNz f s
  | .brNzExt f => Sys2Proof.Machine.execBrNzExt f s
  | .brLz f => Sys2Proof.Machine.execBrLz f s
  | .brLzExt f => Sys2Proof.Machine.execBrLzExt f s
  | .brGez f => Sys2Proof.Machine.execBrGez f s
  | .brGezExt f => Sys2Proof.Machine.execBrGezExt f s
  | .brx f => Sys2Proof.Machine.execBrx f s
  | .brxExt f => Sys2Proof.Machine.execBrxExt f s
  | .call f => Sys2Proof.Machine.execCall f s
  | .callExt f => Sys2Proof.Machine.execCallExt f s
  | .callx f => Sys2Proof.Machine.execCallx f s
  | .callxExt f => Sys2Proof.Machine.execCallxExt f s
  | .ret f => Sys2Proof.Machine.execRet f s
  | .retExt f => Sys2Proof.Machine.execRetExt f s
  | .exit f => Sys2Proof.Machine.execExit f s
  | .exitExt f => Sys2Proof.Machine.execExitExt f s
  | .yield f => Sys2Proof.Machine.execYield f s
  | .yieldExt f => Sys2Proof.Machine.execYieldExt f s
  | .split f => Sys2Proof.Machine.execSplit f s
  | .splitExt f => Sys2Proof.Machine.execSplitExt f s
  | .barArrive f => Sys2Proof.Machine.execBarArrive f s
  | .barArriveExt f => Sys2Proof.Machine.execBarArriveExt f s
  | .barWait f => Sys2Proof.Machine.execBarWait f s
  | .barWaitExt f => Sys2Proof.Machine.execBarWaitExt f s
  | .barSync f => Sys2Proof.Machine.execBarSync f s
  | .barSyncExt f => Sys2Proof.Machine.execBarSyncExt f s
  | .barDrop f => Sys2Proof.Machine.execBarDrop f s
  | .barDropExt f => Sys2Proof.Machine.execBarDropExt f s
  | .qpush f => Sys2Proof.Machine.execQpush f s
  | .qpushExt f => Sys2Proof.Machine.execQpushExt f s
  | .qpop f => Sys2Proof.Machine.execQpop f s
  | .qpopExt f => Sys2Proof.Machine.execQpopExt f s
  | .sadd f => Sys2Proof.Machine.execSadd f s
  | .saddExt f => Sys2Proof.Machine.execSaddExt f s
  | .ssub f => Sys2Proof.Machine.execSsub f s
  | .ssubExt f => Sys2Proof.Machine.execSsubExt f s
  | .smul f => Sys2Proof.Machine.execSmul f s
  | .smulExt f => Sys2Proof.Machine.execSmulExt f s
  | .sand f => Sys2Proof.Machine.execSand f s
  | .sandExt f => Sys2Proof.Machine.execSandExt f s
  | .sor f => Sys2Proof.Machine.execSor f s
  | .sorExt f => Sys2Proof.Machine.execSorExt f s
  | .sxor f => Sys2Proof.Machine.execSxor f s
  | .sxorExt f => Sys2Proof.Machine.execSxorExt f s
  | .sshl f => Sys2Proof.Machine.execSshl f s
  | .sshlExt f => Sys2Proof.Machine.execSshlExt f s
  | .sshr f => Sys2Proof.Machine.execSshr f s
  | .sshrExt f => Sys2Proof.Machine.execSshrExt f s
  | .smin f => Sys2Proof.Machine.execSmin f s
  | .sminExt f => Sys2Proof.Machine.execSminExt f s
  | .smax f => Sys2Proof.Machine.execSmax f s
  | .smaxExt f => Sys2Proof.Machine.execSmaxExt f s
  | .smov f => Sys2Proof.Machine.execSmov f s
  | .smovExt f => Sys2Proof.Machine.execSmovExt f s
  | .ssel f => Sys2Proof.Machine.execSsel f s
  | .sselExt f => Sys2Proof.Machine.execSselExt f s
  | .sspr f => Sys2Proof.Machine.execSspr f s
  | .scmp f => Sys2Proof.Machine.execScmp f s
  | .scmpExt f => Sys2Proof.Machine.execScmpExt f s
  | .slea f => Sys2Proof.Machine.execSlea f s
  | .sleaExt f => Sys2Proof.Machine.execSleaExt f s
  | .sbfe f => Sys2Proof.Machine.execSbfe f s
  | .sbfeExt f => Sys2Proof.Machine.execSbfeExt f s
  | .sbfi f => Sys2Proof.Machine.execSbfi f s
  | .sbfiExt f => Sys2Proof.Machine.execSbfiExt f s
  | .sclz f => Sys2Proof.Machine.execSclz f s
  | .sclzExt f => Sys2Proof.Machine.execSclzExt f s
  | .spopc f => Sys2Proof.Machine.execSpopc f s
  | .spopcExt f => Sys2Proof.Machine.execSpopcExt f s
  | .callv f => Sys2Proof.Machine.execCallv f s
  | .retv f => Sys2Proof.Machine.execRetv f s
  | .brAny f => Sys2Proof.Machine.execBrAny f s
  | .brAll f => Sys2Proof.Machine.execBrAll f s
  | .migrate f => Sys2Proof.Machine.execMigrate f s
  | .launch f => Sys2Proof.Machine.execLaunch f s
  | .launchWait f => Sys2Proof.Machine.execLaunchWait f s
  | .sleep f => Sys2Proof.Machine.execSleep f s
  | .smulh f => Sys2Proof.Machine.execSmulh f s
  | .sdiv f => Sys2Proof.Machine.execSdiv f s
  | .srem f => Sys2Proof.Machine.execSrem f s
  | .barTest f => Sys2Proof.Machine.execBarTest f s
  | .barAdd f => Sys2Proof.Machine.execBarAdd f s
  | .qpushn f => Sys2Proof.Machine.execQpushn f s
  | .qpopn f => Sys2Proof.Machine.execQpopn f s
  | .qlen f => Sys2Proof.Machine.execQlen f s
  | .qpeek f => Sys2Proof.Machine.execQpeek f s
  | .trap f => Sys2Proof.Machine.execTrap f s
  | .rgn f => Sys2Proof.Machine.execRgn f s
  | .brk f => Sys2Proof.Machine.execBrk f s
  | .mark f => Sys2Proof.Machine.execMark f s
  | .evt f => Sys2Proof.Machine.execEvt f s
  | .opt f => Sys2Proof.Machine.execOpt f s
  | .prio f => Sys2Proof.Machine.execPrio f s
  | .gstat f => Sys2Proof.Machine.execGstat f s
  | .vaddS32 f => Sys2Proof.Machine.execVaddS32 f s
  | .vaddS32Ext f => Sys2Proof.Machine.execVaddS32Ext f s
  | .vsubS32 f => Sys2Proof.Machine.execVsubS32 f s
  | .vsubS32Ext f => Sys2Proof.Machine.execVsubS32Ext f s
  | .vmulS32 f => Sys2Proof.Machine.execVmulS32 f s
  | .vmulS32Ext f => Sys2Proof.Machine.execVmulS32Ext f s
  | .vmad f => Sys2Proof.Machine.execVmad f s
  | .vmadExt f => Sys2Proof.Machine.execVmadExt f s
  | .vand f => Sys2Proof.Machine.execVand f s
  | .vandExt f => Sys2Proof.Machine.execVandExt f s
  | .vor f => Sys2Proof.Machine.execVor f s
  | .vorExt f => Sys2Proof.Machine.execVorExt f s
  | .vxor f => Sys2Proof.Machine.execVxor f s
  | .vxorExt f => Sys2Proof.Machine.execVxorExt f s
  | .vshl f => Sys2Proof.Machine.execVshl f s
  | .vshlExt f => Sys2Proof.Machine.execVshlExt f s
  | .vshr f => Sys2Proof.Machine.execVshr f s
  | .vshrExt f => Sys2Proof.Machine.execVshrExt f s
  | .vminS32 f => Sys2Proof.Machine.execVminS32 f s
  | .vminS32Ext f => Sys2Proof.Machine.execVminS32Ext f s
  | .vmaxS32 f => Sys2Proof.Machine.execVmaxS32 f s
  | .vmaxS32Ext f => Sys2Proof.Machine.execVmaxS32Ext f s
  | .vabsS32 f => Sys2Proof.Machine.execVabsS32 f s
  | .vabsS32Ext f => Sys2Proof.Machine.execVabsS32Ext f s
  | .vnegS32 f => Sys2Proof.Machine.execVnegS32 f s
  | .vnegS32Ext f => Sys2Proof.Machine.execVnegS32Ext f s
  | .vsel f => Sys2Proof.Machine.execVsel f s
  | .vselExt f => Sys2Proof.Machine.execVselExt f s
  | .vmov f => Sys2Proof.Machine.execVmov f s
  | .vmovExt f => Sys2Proof.Machine.execVmovExt f s
  | .vdot4 f => Sys2Proof.Machine.execVdot4 f s
  | .vdot4Ext f => Sys2Proof.Machine.execVdot4Ext f s
  | .vaddF32 f => Sys2Proof.Machine.execVaddF32 f s
  | .vaddF32Ext f => Sys2Proof.Machine.execVaddF32Ext f s
  | .vsubF32 f => Sys2Proof.Machine.execVsubF32 f s
  | .vsubF32Ext f => Sys2Proof.Machine.execVsubF32Ext f s
  | .vmulF32 f => Sys2Proof.Machine.execVmulF32 f s
  | .vmulF32Ext f => Sys2Proof.Machine.execVmulF32Ext f s
  | .vfma f => Sys2Proof.Machine.execVfma f s
  | .vfmaExt f => Sys2Proof.Machine.execVfmaExt f s
  | .vfms f => Sys2Proof.Machine.execVfms f s
  | .vfmsExt f => Sys2Proof.Machine.execVfmsExt f s
  | .vfnma f => Sys2Proof.Machine.execVfnma f s
  | .vfnmaExt f => Sys2Proof.Machine.execVfnmaExt f s
  | .vminF32 f => Sys2Proof.Machine.execVminF32 f s
  | .vminF32Ext f => Sys2Proof.Machine.execVminF32Ext f s
  | .vmaxF32 f => Sys2Proof.Machine.execVmaxF32 f s
  | .vmaxF32Ext f => Sys2Proof.Machine.execVmaxF32Ext f s
  | .vabsF32 f => Sys2Proof.Machine.execVabsF32 f s
  | .vabsF32Ext f => Sys2Proof.Machine.execVabsF32Ext f s
  | .vnegF32 f => Sys2Proof.Machine.execVnegF32 f s
  | .vnegF32Ext f => Sys2Proof.Machine.execVnegF32Ext f s
  | .vdiv f => Sys2Proof.Machine.execVdiv f s
  | .vdivExt f => Sys2Proof.Machine.execVdivExt f s
  | .vsqrt f => Sys2Proof.Machine.execVsqrt f s
  | .vsqrtExt f => Sys2Proof.Machine.execVsqrtExt f s
  | .vrsqrt f => Sys2Proof.Machine.execVrsqrt f s
  | .vrsqrtExt f => Sys2Proof.Machine.execVrsqrtExt f s
  | .vrcp f => Sys2Proof.Machine.execVrcp f s
  | .vrcpExt f => Sys2Proof.Machine.execVrcpExt f s
  | .vexp2 f => Sys2Proof.Machine.execVexp2 f s
  | .vexp2Ext f => Sys2Proof.Machine.execVexp2Ext f s
  | .vlog2 f => Sys2Proof.Machine.execVlog2 f s
  | .vlog2Ext f => Sys2Proof.Machine.execVlog2Ext f s
  | .vexp f => Sys2Proof.Machine.execVexp f s
  | .vexpExt f => Sys2Proof.Machine.execVexpExt f s
  | .vlog f => Sys2Proof.Machine.execVlog f s
  | .vlogExt f => Sys2Proof.Machine.execVlogExt f s
  | .vsin f => Sys2Proof.Machine.execVsin f s
  | .vsinExt f => Sys2Proof.Machine.execVsinExt f s
  | .vcos f => Sys2Proof.Machine.execVcos f s
  | .vcosExt f => Sys2Proof.Machine.execVcosExt f s
  | .vtanh f => Sys2Proof.Machine.execVtanh f s
  | .vtanhExt f => Sys2Proof.Machine.execVtanhExt f s
  | .vsigm f => Sys2Proof.Machine.execVsigm f s
  | .vsigmExt f => Sys2Proof.Machine.execVsigmExt f s
  | .vrint f => Sys2Proof.Machine.execVrint f s
  | .vrintExt f => Sys2Proof.Machine.execVrintExt f s
  | .vscale f => Sys2Proof.Machine.execVscale f s
  | .vscaleExt f => Sys2Proof.Machine.execVscaleExt f s
  | .vpack f => Sys2Proof.Machine.execVpack f s
  | .vpackExt f => Sys2Proof.Machine.execVpackExt f s
  | .vunpack f => Sys2Proof.Machine.execVunpack f s
  | .vunpackExt f => Sys2Proof.Machine.execVunpackExt f s
  | .vshfl f => Sys2Proof.Machine.execVshfl f s
  | .vshflExt f => Sys2Proof.Machine.execVshflExt f s
  | .vbcast f => Sys2Proof.Machine.execVbcast f s
  | .vrot f => Sys2Proof.Machine.execVrot f s
  | .vbfly f => Sys2Proof.Machine.execVbfly f s
  | .vred f => Sys2Proof.Machine.execVred f s
  | .vredExt f => Sys2Proof.Machine.execVredExt f s
  | .vballot f => Sys2Proof.Machine.execVballot f s
  | .vballotExt f => Sys2Proof.Machine.execVballotExt f s
  | .vld f => Sys2Proof.Machine.execVld f s
  | .vldExt f => Sys2Proof.Machine.execVldExt f s
  | .vst f => Sys2Proof.Machine.execVst f s
  | .vstExt f => Sys2Proof.Machine.execVstExt f s
  | .vldw f => Sys2Proof.Machine.execVldw f s
  | .vstw f => Sys2Proof.Machine.execVstw f s
  | .vlds f => Sys2Proof.Machine.execVlds f s
  | .vldsExt f => Sys2Proof.Machine.execVldsExt f s
  | .vsts f => Sys2Proof.Machine.execVsts f s
  | .vstsExt f => Sys2Proof.Machine.execVstsExt f s
  | .vldsw f => Sys2Proof.Machine.execVldsw f s
  | .vstsw f => Sys2Proof.Machine.execVstsw f s
  | .vldb f => Sys2Proof.Machine.execVldb f s
  | .fence f => Sys2Proof.Machine.execFence f s
  | .vaadd f => Sys2Proof.Machine.execVaadd f s
  | .vaaddExt f => Sys2Proof.Machine.execVaaddExt f s
  | .vradd f => Sys2Proof.Machine.execVradd f s
  | .vraddExt f => Sys2Proof.Machine.execVraddExt f s
  | .vcmpS32 f => Sys2Proof.Machine.execVcmpS32 f s
  | .vcmpS32Ext f => Sys2Proof.Machine.execVcmpS32Ext f s
  | .vcmpF32 f => Sys2Proof.Machine.execVcmpF32 f s
  | .vcmpF32Ext f => Sys2Proof.Machine.execVcmpF32Ext f s
  | .vkop f => Sys2Proof.Machine.execVkop f s
  | .vkopExt f => Sys2Proof.Machine.execVkopExt f s
  | .vclz f => Sys2Proof.Machine.execVclz f s
  | .vclzExt f => Sys2Proof.Machine.execVclzExt f s
  | .vpopc f => Sys2Proof.Machine.execVpopc f s
  | .vpopcExt f => Sys2Proof.Machine.execVpopcExt f s
  | .vbfe f => Sys2Proof.Machine.execVbfe f s
  | .vbfeExt f => Sys2Proof.Machine.execVbfeExt f s
  | .vbfi f => Sys2Proof.Machine.execVbfi f s
  | .vbfiExt f => Sys2Proof.Machine.execVbfiExt f s
  | .vmulh f => Sys2Proof.Machine.execVmulh f s
  | .vmulhExt f => Sys2Proof.Machine.execVmulhExt f s
  | .vadds f => Sys2Proof.Machine.execVadds f s
  | .vaddsExt f => Sys2Proof.Machine.execVaddsExt f s
  | .vsubs f => Sys2Proof.Machine.execVsubs f s
  | .vsubsExt f => Sys2Proof.Machine.execVsubsExt f s
  | .vcvt f => Sys2Proof.Machine.execVcvt f s
  | .vquant f => Sys2Proof.Machine.execVquant f s
  | .vdequant f => Sys2Proof.Machine.execVdequant f s
  | .vext f => Sys2Proof.Machine.execVext f s
  | .vins f => Sys2Proof.Machine.execVins f s
  | .scvt f => Sys2Proof.Machine.execScvt f s
  | .vmant f => Sys2Proof.Machine.execVmant f s
  | .vexpo f => Sys2Proof.Machine.execVexpo f s
  | .vscan f => Sys2Proof.Machine.execVscan f s
  | .vldnf f => Sys2Proof.Machine.execVldnf f s
  | .vldk f => Sys2Proof.Machine.execVldk f s
  | .vstk f => Sys2Proof.Machine.execVstk f s
  | .vprf f => Sys2Proof.Machine.execVprf f s
  | .vamin f => Sys2Proof.Machine.execVamin f s
  | .vamax f => Sys2Proof.Machine.execVamax f s
  | .vaand f => Sys2Proof.Machine.execVaand f s
  | .vaor f => Sys2Proof.Machine.execVaor f s
  | .vaxor f => Sys2Proof.Machine.execVaxor f s
  | .vaxch f => Sys2Proof.Machine.execVaxch f s
  | .vacas f => Sys2Proof.Machine.execVacas f s
  | .vrmin f => Sys2Proof.Machine.execVrmin f s
  | .vrmax f => Sys2Proof.Machine.execVrmax f s
  | .vrbit f => Sys2Proof.Machine.execVrbit f s
  | .mmac f => Sys2Proof.Machine.execMmac f s
  | .mgmac f => Sys2Proof.Machine.execMgmac f s
  | .mmaci f => Sys2Proof.Machine.execMmaci f s
  | .mcbload f => Sys2Proof.Machine.execMcbload f s
  | .msmx f => Sys2Proof.Machine.execMsmx f s
  | .msnorm f => Sys2Proof.Machine.execMsnorm f s
  | .mclaim f => Sys2Proof.Machine.execMclaim f s
  | .mrel f => Sys2Proof.Machine.execMrel f s
  | .mfeed f => Sys2Proof.Machine.execMfeed f s
  | .mfeeda f => Sys2Proof.Machine.execMfeeda f s
  | .mst f => Sys2Proof.Machine.execMst f s
  | .mld f => Sys2Proof.Machine.execMld f s
  | .mzero f => Sys2Proof.Machine.execMzero f s
  | .mpoly f => Sys2Proof.Machine.execMpoly f s
  | .miterG f => Sys2Proof.Machine.execMiterG f s
  | .miterS f => Sys2Proof.Machine.execMiterS f s
  | .mgang f => Sys2Proof.Machine.execMgang f s
  | .mgleave f => Sys2Proof.Machine.execMgleave f s
  | .mcoef f => Sys2Proof.Machine.execMcoef f s
  | .mscale f => Sys2Proof.Machine.execMscale f s
  | .mtrans f => Sys2Proof.Machine.execMtrans f s
  | .mstat f => Sys2Proof.Machine.execMstat f s
  | .xcopy f => Sys2Proof.Machine.execXcopy f s
  | .xcopy2 f => Sys2Proof.Machine.execXcopy2 f s
  | .xcopy3 f => Sys2Proof.Machine.execXcopy3 f s
  | .xgath f => Sys2Proof.Machine.execXgath f s
  | .xscat f => Sys2Proof.Machine.execXscat f s
  | .xslot f => Sys2Proof.Machine.execXslot f s
  | .xfill f => Sys2Proof.Machine.execXfill f s
  | .xprf f => Sys2Proof.Machine.execXprf f s
  | .xred f => Sys2Proof.Machine.execXred f s
  | .xstat f => Sys2Proof.Machine.execXstat f s
  | .xcancel f => Sys2Proof.Machine.execXcancel f s
  | .xhand f => Sys2Proof.Machine.execXhand f s
  | .hdist f => Sys2Proof.Machine.execHdist f s
  | .hpin f => Sys2Proof.Machine.execHpin f s
  | .hunpin f => Sys2Proof.Machine.execHunpin f s
  | .hpre f => Sys2Proof.Machine.execHpre f s
  | .hdemote f => Sys2Proof.Machine.execHdemote f s
  | .hocc f => Sys2Proof.Machine.execHocc f s
  | .pmake f => Sys2Proof.Machine.execPmake f s
  | .pfill f => Sys2Proof.Machine.execPfill f s
  | .peq f => Sys2Proof.Machine.execPeq f s
  | .pwait f => Sys2Proof.Machine.execPwait f s
  | .ppoll f => Sys2Proof.Machine.execPpoll f s
  | .pfind f => Sys2Proof.Machine.execPfind f s
  | .lput f => Sys2Proof.Machine.execLput f s
  | .lget f => Sys2Proof.Machine.execLget f s
  | .lallred f => Sys2Proof.Machine.execLallred f s
  | .lallgat f => Sys2Proof.Machine.execLallgat f s
  | .lredsc f => Sys2Proof.Machine.execLredsc f s
  | .lbcast f => Sys2Proof.Machine.execLbcast f s
  | .splitPromote a0 => Sys2Proof.Machine.execSplitPromote a0 s
  | .yieldEnd a0 => Sys2Proof.Machine.execYieldEnd a0 s
  | .sleepDeadline a0 => Sys2Proof.Machine.execSleepDeadline a0 s
  | .callvEnqueue a0 a1 => Sys2Proof.Machine.execCallvEnqueue a0 a1 s
  | .calleeTake a0 => Sys2Proof.Machine.execCalleeTake a0 s
  | .migrateMove a0 => Sys2Proof.Machine.execMigrateMove a0 s
  | .arrivalCounted a0 => Sys2Proof.Machine.execArrivalCounted a0 s
  | .loadReply a0 => Sys2Proof.Machine.execLoadReply a0 s
  | .spadAccessComplete a0 => Sys2Proof.Machine.execSpadAccessComplete a0 s
  | .storeAck a0 => Sys2Proof.Machine.execStoreAck a0 s
  | .fenceComplete a0 => Sys2Proof.Machine.execFenceComplete a0 s
  | .groupEnd a0 => Sys2Proof.Machine.execGroupEnd a0 s
  | .teamPlace a0 => Sys2Proof.Machine.execTeamPlace a0 s
  | .teamEnd a0 => Sys2Proof.Machine.execTeamEnd a0 s
  | .trapRecordAppend a0 => Sys2Proof.Machine.execTrapRecordAppend a0 s
  | .resumeContinue a0 => Sys2Proof.Machine.execResumeContinue a0 s
  | .resumeRerun a0 => Sys2Proof.Machine.execResumeRerun a0 s
  | .resumeEndGroup a0 => Sys2Proof.Machine.execResumeEndGroup a0 s
  | .resumeEndLaunch a0 => Sys2Proof.Machine.execResumeEndLaunch a0 s
  | .resumeInvalid a0 a1 => Sys2Proof.Machine.execResumeInvalid a0 a1 s
  | .preempt a0 => Sys2Proof.Machine.execPreempt a0 s
  | .saveComplete a0 => Sys2Proof.Machine.execSaveComplete a0 s
  | .partialEviction a0 a1 => Sys2Proof.Machine.execPartialEviction a0 a1 s
  | .contextRestore a0 => Sys2Proof.Machine.execContextRestore a0 s
  | .slotClaimTake a0 => Sys2Proof.Machine.execSlotClaimTake a0 s
  | .slotRelease a0 => Sys2Proof.Machine.execSlotRelease a0 s
  | .arrayStart a0 => Sys2Proof.Machine.execArrayStart a0 s
  | .arrayComplete a0 => Sys2Proof.Machine.execArrayComplete a0 s
  | .mfeedComplete a0 => Sys2Proof.Machine.execMfeedComplete a0 s
  | .mfeedaComplete a0 => Sys2Proof.Machine.execMfeedaComplete a0 s
  | .iterationPhaseEnd a0 => Sys2Proof.Machine.execIterationPhaseEnd a0 s
  | .gangRendezvous a0 => Sys2Proof.Machine.execGangRendezvous a0 s
  | .gangTimeout a0 => Sys2Proof.Machine.execGangTimeout a0 s
  | .copyCommandStart a0 => Sys2Proof.Machine.execCopyCommandStart a0 s
  | .copyBlock a0 => Sys2Proof.Machine.execCopyBlock a0 s
  | .copyLanding a0 => Sys2Proof.Machine.execCopyLanding a0 s
  | .copyComplete a0 => Sys2Proof.Machine.execCopyComplete a0 s
  | .xhandPush a0 => Sys2Proof.Machine.execXhandPush a0 s
  | .copyAbortFault a0 => Sys2Proof.Machine.execCopyAbortFault a0 s
  | .frontAccept a0 => Sys2Proof.Machine.execFrontAccept a0 s
  | .frontServe a0 => Sys2Proof.Machine.execFrontServe a0 s
  | .waveFind a0 => Sys2Proof.Machine.execWaveFind a0 s
  | .tileLand a0 a1 => Sys2Proof.Machine.execTileLand a0 a1 s
  | .memoryReply a0 a1 a2 => Sys2Proof.Machine.execMemoryReply a0 a1 a2 s
  | .tileLeaveComplete a0 a1 => Sys2Proof.Machine.execTileLeaveComplete a0 a1 s
  | .sharerDropAck a0 a1 a2 => Sys2Proof.Machine.execSharerDropAck a0 a1 a2 s
  | .writeUpdateWords a0 => Sys2Proof.Machine.execWriteUpdateWords a0 s
  | .copyTileReply a0 => Sys2Proof.Machine.execCopyTileReply a0 s
  | .leaseRenewal a0 => Sys2Proof.Machine.execLeaseRenewal a0 s
  | .leaseExpiry a0 a1 => Sys2Proof.Machine.execLeaseExpiry a0 a1 s
  | .departureWindowEnd a0 => Sys2Proof.Machine.execDepartureWindowEnd a0 s
  | .homeChange a0 a1 => Sys2Proof.Machine.execHomeChange a0 a1 s
  | .forwardEntryFree a0 a1 => Sys2Proof.Machine.execForwardEntryFree a0 a1 s
  | .promiseVisit a0 => Sys2Proof.Machine.execPromiseVisit a0 s
  | .promiseCasParent a0 => Sys2Proof.Machine.execPromiseCasParent a0 s
  | .promiseLockGrant a0 => Sys2Proof.Machine.execPromiseLockGrant a0 s
  | .promiseWakeSend a0 => Sys2Proof.Machine.execPromiseWakeSend a0 s
  | .promiseWakeArrive a0 => Sys2Proof.Machine.execPromiseWakeArrive a0 s
  | .linkFrameReceive a0 a1 => Sys2Proof.Machine.execLinkFrameReceive a0 a1 s
  | .linkDown a0 => Sys2Proof.Machine.execLinkDown a0 s
  | .collectiveMatch a0 => Sys2Proof.Machine.execCollectiveMatch a0 s
  | .collectiveTimeout a0 => Sys2Proof.Machine.execCollectiveTimeout a0 s
  | .collectiveComplete a0 => Sys2Proof.Machine.execCollectiveComplete a0 s
  | .lputSignal a0 => Sys2Proof.Machine.execLputSignal a0 s
  | .hostAccess a0 => Sys2Proof.Machine.execHostAccess a0 s
  | .hostBarrier a0 => Sys2Proof.Machine.execHostBarrier a0 s
  | .pcieWrite a0 a1 a2 => Sys2Proof.Machine.execPcieWrite a0 a1 a2 s
  | .pcieRead a0 a1 a2 => Sys2Proof.Machine.execPcieRead a0 a1 a2 s
  | .pcieMsi a0 a1 a2 => Sys2Proof.Machine.execPcieMsi a0 a1 a2 s
  | .timeSample a0 a1 => Sys2Proof.Machine.execTimeSample a0 a1 s
  | .timeAgreementLoss => Sys2Proof.Machine.execTimeAgreementLoss s
  | .doorbell a0 a1 => Sys2Proof.Machine.execDoorbell a0 a1 s
  | .cmdLaunch a0 a1 => Sys2Proof.Machine.execCmdLaunch a0 a1 s
  | .cmdFence a0 a1 => Sys2Proof.Machine.execCmdFence a0 a1 s
  | .cmdTranslationInvalidate a0 a1 => Sys2Proof.Machine.execCmdTranslationInvalidate a0 a1 s
  | .cmdInvalidKind a0 a1 => Sys2Proof.Machine.execCmdInvalidKind a0 a1 s
  | .deviceLaunchAccept a0 => Sys2Proof.Machine.execDeviceLaunchAccept a0 s
  | .launchHoldEnd a0 => Sys2Proof.Machine.execLaunchHoldEnd a0 s
  | .launchEnd a0 => Sys2Proof.Machine.execLaunchEnd a0 s
  | .fenceEnd a0 => Sys2Proof.Machine.execFenceEnd a0 s
  | .invalidateEnd a0 => Sys2Proof.Machine.execInvalidateEnd a0 s
  | .bufferListProcessed a0 => Sys2Proof.Machine.execBufferListProcessed a0 s
  | .launchWaitDone a0 => Sys2Proof.Machine.execLaunchWaitDone a0 s
  | .schedulingPoint a0 => Sys2Proof.Machine.execSchedulingPoint a0 s
  | .codeStoreLoad a0 a1 => Sys2Proof.Machine.execCodeStoreLoad a0 a1 s
  | .pageRequestEnter a0 => Sys2Proof.Machine.execPageRequestEnter a0 s
  | .pageRequestTake => Sys2Proof.Machine.execPageRequestTake s
  | .pageRequestRetry a0 => Sys2Proof.Machine.execPageRequestRetry a0 s
  | .pageRequestAbort a0 => Sys2Proof.Machine.execPageRequestAbort a0 s
  | .vdDescriptorWrite a0 a1 => Sys2Proof.Machine.execVdDescriptorWrite a0 a1 s
  | .vdSuspend a0 => Sys2Proof.Machine.execVdSuspend a0 s
  | .vdUnsuspend a0 => Sys2Proof.Machine.execVdUnsuspend a0 s
  | .partitionWrite a0 a1 => Sys2Proof.Machine.execPartitionWrite a0 a1 s
  | .serviceBlockWrite a0 a1 => Sys2Proof.Machine.execServiceBlockWrite a0 a1 s
  | .placeTableWrite a0 a1 a2 => Sys2Proof.Machine.execPlaceTableWrite a0 a1 a2 s
  | .occupancyEntryWrite a0 a1 a2 => Sys2Proof.Machine.execOccupancyEntryWrite a0 a1 a2 s
  | .routeTableWrite a0 => Sys2Proof.Machine.execRouteTableWrite a0 s
  | .communicatorWrite a0 a1 a2 => Sys2Proof.Machine.execCommunicatorWrite a0 a1 a2 s
  | .timeSet a0 => Sys2Proof.Machine.execTimeSet a0 s
  | .registerWrite a0 => Sys2Proof.Machine.execRegisterWrite a0 s
  | .partitionReset a0 => Sys2Proof.Machine.execPartitionReset a0 s
  | .moduleReset a0 => Sys2Proof.Machine.execModuleReset a0 s
  | .recoveryRecord a0 => Sys2Proof.Machine.execRecoveryRecord a0 s
  | .opptChange a0 => Sys2Proof.Machine.execOpptChange a0 s
  | .limiterWindow a0 => Sys2Proof.Machine.execLimiterWindow a0 s
  | .firmwareWriteDropped a0 a1 => Sys2Proof.Machine.execFirmwareWriteDropped a0 a1 s
  | .patrolScrub => Sys2Proof.Machine.execPatrolScrub s
  | .powerLoss => Sys2Proof.Machine.execPowerLoss s
  | .unassignedOpcode a0 => Sys2Proof.Machine.execUnassignedOpcode a0 s
  | .pageTableWalkComplete a0 => Sys2Proof.Machine.execPageTableWalkComplete a0 s
  | .moduleFatalError => Sys2Proof.Machine.execModuleFatalError s

end Sys2Proof.Machine
end

