-- ==== Sys2Proof/Machine/View.lean ====
section
/-!
DEFINITION. The rows of the opcode table by opcode and word: which constructor of Instr stands for a word, and the
opcode and word of a constructor.
-/
namespace Sys2Proof

/-- The opcode and the word of an instruction row; none for the rows that are other steps. -/
def instrWord : Instr → Option (Op × Word3)
  | .nop f => some (.nop, .base f)
  | .nopExt f => some (.nop, f.toWord3)
  | .br f => some (.br, .base f)
  | .brExt f => some (.br, f.toWord3)
  | .brZ f => some (.brZ, .base f)
  | .brZExt f => some (.brZ, f.toWord3)
  | .brNz f => some (.brNz, .base f)
  | .brNzExt f => some (.brNz, f.toWord3)
  | .brLz f => some (.brLz, .base f)
  | .brLzExt f => some (.brLz, f.toWord3)
  | .brGez f => some (.brGez, .base f)
  | .brGezExt f => some (.brGez, f.toWord3)
  | .brx f => some (.brx, .base f)
  | .brxExt f => some (.brx, f.toWord3)
  | .call f => some (.call, .base f)
  | .callExt f => some (.call, f.toWord3)
  | .callx f => some (.callx, .base f)
  | .callxExt f => some (.callx, f.toWord3)
  | .ret f => some (.ret, .base f)
  | .retExt f => some (.ret, f.toWord3)
  | .exit f => some (.exit, .base f)
  | .exitExt f => some (.exit, f.toWord3)
  | .yield f => some (.yield, .base f)
  | .yieldExt f => some (.yield, f.toWord3)
  | .split f => some (.split, .base f)
  | .splitExt f => some (.split, f.toWord3)
  | .barArrive f => some (.barArrive, .base f)
  | .barArriveExt f => some (.barArrive, f.toWord3)
  | .barWait f => some (.barWait, .base f)
  | .barWaitExt f => some (.barWait, f.toWord3)
  | .barSync f => some (.barSync, .base f)
  | .barSyncExt f => some (.barSync, f.toWord3)
  | .barDrop f => some (.barDrop, .base f)
  | .barDropExt f => some (.barDrop, f.toWord3)
  | .qpush f => some (.qpush, .base f)
  | .qpushExt f => some (.qpush, f.toWord3)
  | .qpop f => some (.qpop, .base f)
  | .qpopExt f => some (.qpop, f.toWord3)
  | .sadd f => some (.sadd, .base f)
  | .saddExt f => some (.sadd, f.toWord3)
  | .ssub f => some (.ssub, .base f)
  | .ssubExt f => some (.ssub, f.toWord3)
  | .smul f => some (.smul, .base f)
  | .smulExt f => some (.smul, f.toWord3)
  | .sand f => some (.sand, .base f)
  | .sandExt f => some (.sand, f.toWord3)
  | .sor f => some (.sor, .base f)
  | .sorExt f => some (.sor, f.toWord3)
  | .sxor f => some (.sxor, .base f)
  | .sxorExt f => some (.sxor, f.toWord3)
  | .sshl f => some (.sshl, .base f)
  | .sshlExt f => some (.sshl, f.toWord3)
  | .sshr f => some (.sshr, .base f)
  | .sshrExt f => some (.sshr, f.toWord3)
  | .smin f => some (.smin, .base f)
  | .sminExt f => some (.smin, f.toWord3)
  | .smax f => some (.smax, .base f)
  | .smaxExt f => some (.smax, f.toWord3)
  | .smov f => some (.smov, .base f)
  | .smovExt f => some (.smov, f.toWord3)
  | .ssel f => some (.ssel, .base f)
  | .sselExt f => some (.ssel, f.toWord3)
  | .sspr f => some (.sspr, .ext f)
  | .scmp f => some (.scmp, .base f)
  | .scmpExt f => some (.scmp, f.toWord3)
  | .slea f => some (.slea, .base f)
  | .sleaExt f => some (.slea, f.toWord3)
  | .sbfe f => some (.sbfe, .base f)
  | .sbfeExt f => some (.sbfe, f.toWord3)
  | .sbfi f => some (.sbfi, .base f)
  | .sbfiExt f => some (.sbfi, f.toWord3)
  | .sclz f => some (.sclz, .base f)
  | .sclzExt f => some (.sclz, f.toWord3)
  | .spopc f => some (.spopc, .base f)
  | .spopcExt f => some (.spopc, f.toWord3)
  | .callv f => some (.callv, .ext f)
  | .retv f => some (.retv, .ext f)
  | .brAny f => some (.brAny, .ext f)
  | .brAll f => some (.brAll, .ext f)
  | .migrate f => some (.migrate, .ext f)
  | .launch f => some (.launch, .ext f)
  | .launchWait f => some (.launchWait, .ext f)
  | .sleep f => some (.sleep, .ext f)
  | .smulh f => some (.smulh, .ext f)
  | .sdiv f => some (.sdiv, .ext f)
  | .srem f => some (.srem, .ext f)
  | .barTest f => some (.barTest, .ext f)
  | .barAdd f => some (.barAdd, .ext f)
  | .qpushn f => some (.qpushn, .ext f)
  | .qpopn f => some (.qpopn, .ext f)
  | .qlen f => some (.qlen, .ext f)
  | .qpeek f => some (.qpeek, .ext f)
  | .trap f => some (.trap, .ext f)
  | .rgn f => some (.rgn, .ext f)
  | .brk f => some (.brk, .ext f)
  | .mark f => some (.mark, .ext f)
  | .evt f => some (.evt, .ext f)
  | .opt f => some (.opt, .ext f)
  | .prio f => some (.prio, .ext f)
  | .gstat f => some (.gstat, .ext f)
  | .vaddS32 f => some (.vaddS32, .base f)
  | .vaddS32Ext f => some (.vaddS32, f.toWord3)
  | .vsubS32 f => some (.vsubS32, .base f)
  | .vsubS32Ext f => some (.vsubS32, f.toWord3)
  | .vmulS32 f => some (.vmulS32, .base f)
  | .vmulS32Ext f => some (.vmulS32, f.toWord3)
  | .vmad f => some (.vmad, .base f)
  | .vmadExt f => some (.vmad, f.toWord3)
  | .vand f => some (.vand, .base f)
  | .vandExt f => some (.vand, f.toWord3)
  | .vor f => some (.vor, .base f)
  | .vorExt f => some (.vor, f.toWord3)
  | .vxor f => some (.vxor, .base f)
  | .vxorExt f => some (.vxor, f.toWord3)
  | .vshl f => some (.vshl, .base f)
  | .vshlExt f => some (.vshl, f.toWord3)
  | .vshr f => some (.vshr, .base f)
  | .vshrExt f => some (.vshr, f.toWord3)
  | .vminS32 f => some (.vminS32, .base f)
  | .vminS32Ext f => some (.vminS32, f.toWord3)
  | .vmaxS32 f => some (.vmaxS32, .base f)
  | .vmaxS32Ext f => some (.vmaxS32, f.toWord3)
  | .vabsS32 f => some (.vabsS32, .base f)
  | .vabsS32Ext f => some (.vabsS32, f.toWord3)
  | .vnegS32 f => some (.vnegS32, .base f)
  | .vnegS32Ext f => some (.vnegS32, f.toWord3)
  | .vsel f => some (.vsel, .base f)
  | .vselExt f => some (.vsel, f.toWord3)
  | .vmov f => some (.vmov, .base f)
  | .vmovExt f => some (.vmov, f.toWord3)
  | .vdot4 f => some (.vdot4, .base f)
  | .vdot4Ext f => some (.vdot4, f.toWord3)
  | .vaddF32 f => some (.vaddF32, .base f)
  | .vaddF32Ext f => some (.vaddF32, f.toWord3)
  | .vsubF32 f => some (.vsubF32, .base f)
  | .vsubF32Ext f => some (.vsubF32, f.toWord3)
  | .vmulF32 f => some (.vmulF32, .base f)
  | .vmulF32Ext f => some (.vmulF32, f.toWord3)
  | .vfma f => some (.vfma, .base f)
  | .vfmaExt f => some (.vfma, f.toWord3)
  | .vfms f => some (.vfms, .base f)
  | .vfmsExt f => some (.vfms, f.toWord3)
  | .vfnma f => some (.vfnma, .base f)
  | .vfnmaExt f => some (.vfnma, f.toWord3)
  | .vminF32 f => some (.vminF32, .base f)
  | .vminF32Ext f => some (.vminF32, f.toWord3)
  | .vmaxF32 f => some (.vmaxF32, .base f)
  | .vmaxF32Ext f => some (.vmaxF32, f.toWord3)
  | .vabsF32 f => some (.vabsF32, .base f)
  | .vabsF32Ext f => some (.vabsF32, f.toWord3)
  | .vnegF32 f => some (.vnegF32, .base f)
  | .vnegF32Ext f => some (.vnegF32, f.toWord3)
  | .vdiv f => some (.vdiv, .base f)
  | .vdivExt f => some (.vdiv, f.toWord3)
  | .vsqrt f => some (.vsqrt, .base f)
  | .vsqrtExt f => some (.vsqrt, f.toWord3)
  | .vrsqrt f => some (.vrsqrt, .base f)
  | .vrsqrtExt f => some (.vrsqrt, f.toWord3)
  | .vrcp f => some (.vrcp, .base f)
  | .vrcpExt f => some (.vrcp, f.toWord3)
  | .vexp2 f => some (.vexp2, .base f)
  | .vexp2Ext f => some (.vexp2, f.toWord3)
  | .vlog2 f => some (.vlog2, .base f)
  | .vlog2Ext f => some (.vlog2, f.toWord3)
  | .vexp f => some (.vexp, .base f)
  | .vexpExt f => some (.vexp, f.toWord3)
  | .vlog f => some (.vlog, .base f)
  | .vlogExt f => some (.vlog, f.toWord3)
  | .vsin f => some (.vsin, .base f)
  | .vsinExt f => some (.vsin, f.toWord3)
  | .vcos f => some (.vcos, .base f)
  | .vcosExt f => some (.vcos, f.toWord3)
  | .vtanh f => some (.vtanh, .base f)
  | .vtanhExt f => some (.vtanh, f.toWord3)
  | .vsigm f => some (.vsigm, .base f)
  | .vsigmExt f => some (.vsigm, f.toWord3)
  | .vrint f => some (.vrint, .base f)
  | .vrintExt f => some (.vrint, f.toWord3)
  | .vscale f => some (.vscale, .base f)
  | .vscaleExt f => some (.vscale, f.toWord3)
  | .vpack f => some (.vpack, .base f)
  | .vpackExt f => some (.vpack, f.toWord3)
  | .vunpack f => some (.vunpack, .base f)
  | .vunpackExt f => some (.vunpack, f.toWord3)
  | .vshfl f => some (.vshfl, .base f)
  | .vshflExt f => some (.vshfl, f.toWord3)
  | .vbcast f => some (.vbcast, .ext f)
  | .vrot f => some (.vrot, .ext f)
  | .vbfly f => some (.vbfly, .ext f)
  | .vred f => some (.vred, .base f)
  | .vredExt f => some (.vred, f.toWord3)
  | .vballot f => some (.vballot, .base f)
  | .vballotExt f => some (.vballot, f.toWord3)
  | .vld f => some (.vld, .base f)
  | .vldExt f => some (.vld, f.toWord3)
  | .vst f => some (.vst, .base f)
  | .vstExt f => some (.vst, f.toWord3)
  | .vldw f => some (.vldw, .ext f)
  | .vstw f => some (.vstw, .ext f)
  | .vlds f => some (.vlds, .base f)
  | .vldsExt f => some (.vlds, f.toWord3)
  | .vsts f => some (.vsts, .base f)
  | .vstsExt f => some (.vsts, f.toWord3)
  | .vldsw f => some (.vldsw, .ext f)
  | .vstsw f => some (.vstsw, .ext f)
  | .vldb f => some (.vldb, .ext f)
  | .fence f => some (.fence, .ext f)
  | .vaadd f => some (.vaadd, .base f)
  | .vaaddExt f => some (.vaadd, f.toWord3)
  | .vradd f => some (.vradd, .base f)
  | .vraddExt f => some (.vradd, f.toWord3)
  | .vcmpS32 f => some (.vcmpS32, .base f)
  | .vcmpS32Ext f => some (.vcmpS32, f.toWord3)
  | .vcmpF32 f => some (.vcmpF32, .base f)
  | .vcmpF32Ext f => some (.vcmpF32, f.toWord3)
  | .vkop f => some (.vkop, .base f)
  | .vkopExt f => some (.vkop, f.toWord3)
  | .vclz f => some (.vclz, .base f)
  | .vclzExt f => some (.vclz, f.toWord3)
  | .vpopc f => some (.vpopc, .base f)
  | .vpopcExt f => some (.vpopc, f.toWord3)
  | .vbfe f => some (.vbfe, .base f)
  | .vbfeExt f => some (.vbfe, f.toWord3)
  | .vbfi f => some (.vbfi, .base f)
  | .vbfiExt f => some (.vbfi, f.toWord3)
  | .vmulh f => some (.vmulh, .base f)
  | .vmulhExt f => some (.vmulh, f.toWord3)
  | .vadds f => some (.vadds, .base f)
  | .vaddsExt f => some (.vadds, f.toWord3)
  | .vsubs f => some (.vsubs, .base f)
  | .vsubsExt f => some (.vsubs, f.toWord3)
  | .vcvt f => some (.vcvt, .ext f)
  | .vquant f => some (.vquant, .ext f)
  | .vdequant f => some (.vdequant, .ext f)
  | .vext f => some (.vext, .ext f)
  | .vins f => some (.vins, .ext f)
  | .scvt f => some (.scvt, .ext f)
  | .vmant f => some (.vmant, .ext f)
  | .vexpo f => some (.vexpo, .ext f)
  | .vscan f => some (.vscan, .ext f)
  | .vldnf f => some (.vldnf, .ext f)
  | .vldk f => some (.vldk, .ext f)
  | .vstk f => some (.vstk, .ext f)
  | .vprf f => some (.vprf, .ext f)
  | .vamin f => some (.vamin, .ext f)
  | .vamax f => some (.vamax, .ext f)
  | .vaand f => some (.vaand, .ext f)
  | .vaor f => some (.vaor, .ext f)
  | .vaxor f => some (.vaxor, .ext f)
  | .vaxch f => some (.vaxch, .ext f)
  | .vacas f => some (.vacas, .ext f)
  | .vrmin f => some (.vrmin, .ext f)
  | .vrmax f => some (.vrmax, .ext f)
  | .vrbit f => some (.vrbit, .ext f)
  | .mmac f => some (.mmac, .ext f)
  | .mgmac f => some (.mgmac, .ext f)
  | .mmaci f => some (.mmaci, .ext f)
  | .mcbload f => some (.mcbload, .ext f)
  | .msmx f => some (.msmx, .ext f)
  | .msnorm f => some (.msnorm, .ext f)
  | .mclaim f => some (.mclaim, .ext f)
  | .mrel f => some (.mrel, .ext f)
  | .mfeed f => some (.mfeed, .ext f)
  | .mfeeda f => some (.mfeeda, .ext f)
  | .mst f => some (.mst, .ext f)
  | .mld f => some (.mld, .ext f)
  | .mzero f => some (.mzero, .ext f)
  | .mpoly f => some (.mpoly, .ext f)
  | .miterG f => some (.miterG, .ext f)
  | .miterS f => some (.miterS, .ext f)
  | .mgang f => some (.mgang, .ext f)
  | .mgleave f => some (.mgleave, .ext f)
  | .mcoef f => some (.mcoef, .ext f)
  | .mscale f => some (.mscale, .ext f)
  | .mtrans f => some (.mtrans, .ext f)
  | .mstat f => some (.mstat, .ext f)
  | .xcopy f => some (.xcopy, .ext f)
  | .xcopy2 f => some (.xcopy2, .ext f)
  | .xcopy3 f => some (.xcopy3, .ext f)
  | .xgath f => some (.xgath, .ext f)
  | .xscat f => some (.xscat, .ext f)
  | .xslot f => some (.xslot, .ext f)
  | .xfill f => some (.xfill, .ext f)
  | .xprf f => some (.xprf, .ext f)
  | .xred f => some (.xred, .ext f)
  | .xstat f => some (.xstat, .ext f)
  | .xcancel f => some (.xcancel, .ext f)
  | .xhand f => some (.xhand, .ext f)
  | .hdist f => some (.hdist, .ext f)
  | .hpin f => some (.hpin, .ext f)
  | .hunpin f => some (.hunpin, .ext f)
  | .hpre f => some (.hpre, .ext f)
  | .hdemote f => some (.hdemote, .ext f)
  | .hocc f => some (.hocc, .ext f)
  | .pmake f => some (.pmake, .ext f)
  | .pfill f => some (.pfill, .ext f)
  | .peq f => some (.peq, .ext f)
  | .pwait f => some (.pwait, .ext f)
  | .ppoll f => some (.ppoll, .ext f)
  | .pfind f => some (.pfind, .ext f)
  | .lput f => some (.lput, .ext f)
  | .lget f => some (.lget, .ext f)
  | .lallred f => some (.lallred, .ext f)
  | .lallgat f => some (.lallgat, .ext f)
  | .lredsc f => some (.lredsc, .ext f)
  | .lbcast f => some (.lbcast, .ext f)
  | .splitPromote _ => none
  | .yieldEnd _ => none
  | .sleepDeadline _ => none
  | .callvEnqueue _ _ => none
  | .calleeTake _ => none
  | .migrateMove _ => none
  | .arrivalCounted _ => none
  | .loadReply _ => none
  | .spadAccessComplete _ => none
  | .storeAck _ => none
  | .fenceComplete _ => none
  | .groupEnd _ => none
  | .teamPlace _ => none
  | .teamEnd _ => none
  | .trapRecordAppend _ => none
  | .resumeContinue _ => none
  | .resumeRerun _ => none
  | .resumeEndGroup _ => none
  | .resumeEndLaunch _ => none
  | .resumeInvalid _ _ => none
  | .preempt _ => none
  | .saveComplete _ => none
  | .partialEviction _ _ => none
  | .contextRestore _ => none
  | .slotClaimTake _ => none
  | .slotRelease _ => none
  | .arrayStart _ => none
  | .arrayComplete _ => none
  | .mfeedComplete _ => none
  | .mfeedaComplete _ => none
  | .iterationPhaseEnd _ => none
  | .gangRendezvous _ => none
  | .gangTimeout _ => none
  | .copyCommandStart _ => none
  | .copyBlock _ => none
  | .copyLanding _ => none
  | .copyComplete _ => none
  | .xhandPush _ => none
  | .copyAbortFault _ => none
  | .frontAccept _ => none
  | .frontServe _ => none
  | .waveFind _ => none
  | .tileLand _ _ => none
  | .memoryReply _ _ _ => none
  | .tileLeaveComplete _ _ => none
  | .sharerDropAck _ _ _ => none
  | .writeUpdateWords _ => none
  | .copyTileReply _ => none
  | .leaseRenewal _ => none
  | .leaseExpiry _ _ => none
  | .departureWindowEnd _ => none
  | .homeChange _ _ => none
  | .forwardEntryFree _ _ => none
  | .promiseVisit _ => none
  | .promiseCasParent _ => none
  | .promiseLockGrant _ => none
  | .promiseWakeSend _ => none
  | .promiseWakeArrive _ => none
  | .linkFrameReceive _ _ => none
  | .linkDown _ => none
  | .collectiveMatch _ => none
  | .collectiveTimeout _ => none
  | .collectiveComplete _ => none
  | .lputSignal _ => none
  | .hostAccess _ => none
  | .hostBarrier _ => none
  | .pcieWrite _ _ _ => none
  | .pcieRead _ _ _ => none
  | .pcieMsi _ _ _ => none
  | .timeSample _ _ => none
  | .timeAgreementLoss => none
  | .doorbell _ _ => none
  | .cmdLaunch _ _ => none
  | .cmdFence _ _ => none
  | .cmdTranslationInvalidate _ _ => none
  | .cmdInvalidKind _ _ => none
  | .deviceLaunchAccept _ => none
  | .launchHoldEnd _ => none
  | .launchEnd _ => none
  | .fenceEnd _ => none
  | .invalidateEnd _ => none
  | .bufferListProcessed _ => none
  | .launchWaitDone _ => none
  | .schedulingPoint _ => none
  | .codeStoreLoad _ _ => none
  | .pageRequestEnter _ => none
  | .pageRequestTake => none
  | .pageRequestRetry _ => none
  | .pageRequestAbort _ => none
  | .vdDescriptorWrite _ _ => none
  | .vdSuspend _ => none
  | .vdUnsuspend _ => none
  | .partitionWrite _ _ => none
  | .serviceBlockWrite _ _ => none
  | .placeTableWrite _ _ _ => none
  | .occupancyEntryWrite _ _ _ => none
  | .routeTableWrite _ => none
  | .communicatorWrite _ _ _ => none
  | .timeSet _ => none
  | .registerWrite _ => none
  | .partitionReset _ => none
  | .moduleReset _ => none
  | .recoveryRecord _ => none
  | .opptChange _ => none
  | .limiterWindow _ => none
  | .firmwareWriteDropped _ _ => none
  | .patrolScrub => none
  | .powerLoss => none
  | .unassignedOpcode _ => none
  | .pageTableWalkComplete _ => none
  | .moduleFatalError => none

/-- The row of an opcode's base word; none where the table gives it no base row. -/
def instrOfBase (o : Op) (f : BaseWord) : Option Instr :=
  match o with
  | .nop => some (.nop f)
  | .br => some (.br f)
  | .brZ => some (.brZ f)
  | .brNz => some (.brNz f)
  | .brLz => some (.brLz f)
  | .brGez => some (.brGez f)
  | .brx => some (.brx f)
  | .call => some (.call f)
  | .callx => some (.callx f)
  | .ret => some (.ret f)
  | .exit => some (.exit f)
  | .yield => some (.yield f)
  | .split => some (.split f)
  | .barArrive => some (.barArrive f)
  | .barWait => some (.barWait f)
  | .barSync => some (.barSync f)
  | .barDrop => some (.barDrop f)
  | .qpush => some (.qpush f)
  | .qpop => some (.qpop f)
  | .sadd => some (.sadd f)
  | .ssub => some (.ssub f)
  | .smul => some (.smul f)
  | .sand => some (.sand f)
  | .sor => some (.sor f)
  | .sxor => some (.sxor f)
  | .sshl => some (.sshl f)
  | .sshr => some (.sshr f)
  | .smin => some (.smin f)
  | .smax => some (.smax f)
  | .smov => some (.smov f)
  | .ssel => some (.ssel f)
  | .vaddS32 => some (.vaddS32 f)
  | .vsubS32 => some (.vsubS32 f)
  | .vmulS32 => some (.vmulS32 f)
  | .vmad => some (.vmad f)
  | .vand => some (.vand f)
  | .vor => some (.vor f)
  | .vxor => some (.vxor f)
  | .vshl => some (.vshl f)
  | .vshr => some (.vshr f)
  | .vminS32 => some (.vminS32 f)
  | .vmaxS32 => some (.vmaxS32 f)
  | .vabsS32 => some (.vabsS32 f)
  | .vnegS32 => some (.vnegS32 f)
  | .vsel => some (.vsel f)
  | .vmov => some (.vmov f)
  | .vdot4 => some (.vdot4 f)
  | .vaddF32 => some (.vaddF32 f)
  | .vsubF32 => some (.vsubF32 f)
  | .vmulF32 => some (.vmulF32 f)
  | .vfma => some (.vfma f)
  | .vfms => some (.vfms f)
  | .vfnma => some (.vfnma f)
  | .vminF32 => some (.vminF32 f)
  | .vmaxF32 => some (.vmaxF32 f)
  | .vabsF32 => some (.vabsF32 f)
  | .vnegF32 => some (.vnegF32 f)
  | .vdiv => some (.vdiv f)
  | .vsqrt => some (.vsqrt f)
  | .vrsqrt => some (.vrsqrt f)
  | .vrcp => some (.vrcp f)
  | .vexp2 => some (.vexp2 f)
  | .vlog2 => some (.vlog2 f)
  | .vexp => some (.vexp f)
  | .vlog => some (.vlog f)
  | .vsin => some (.vsin f)
  | .vcos => some (.vcos f)
  | .vtanh => some (.vtanh f)
  | .vsigm => some (.vsigm f)
  | .vrint => some (.vrint f)
  | .vscale => some (.vscale f)
  | .vpack => some (.vpack f)
  | .vunpack => some (.vunpack f)
  | .vshfl => some (.vshfl f)
  | .vred => some (.vred f)
  | .vballot => some (.vballot f)
  | .vld => some (.vld f)
  | .vst => some (.vst f)
  | .vlds => some (.vlds f)
  | .vsts => some (.vsts f)
  | .vaadd => some (.vaadd f)
  | .vradd => some (.vradd f)
  | .vcmpS32 => some (.vcmpS32 f)
  | .vcmpF32 => some (.vcmpF32 f)
  | .vkop => some (.vkop f)
  | .scmp => some (.scmp f)
  | .slea => some (.slea f)
  | .sbfe => some (.sbfe f)
  | .sbfi => some (.sbfi f)
  | .sclz => some (.sclz f)
  | .spopc => some (.spopc f)
  | .vclz => some (.vclz f)
  | .vpopc => some (.vpopc f)
  | .vbfe => some (.vbfe f)
  | .vbfi => some (.vbfi f)
  | .vmulh => some (.vmulh f)
  | .vadds => some (.vadds f)
  | .vsubs => some (.vsubs f)
  | _ => none

/-- The row of a base word with literal; none where the opcode has no base form. -/
def instrOfLit (o : Op) (f : BaseWord) (lit : BitVec 64) : Option Instr :=
  match o with
  | .nop => some (.nopExt (.lit f lit))
  | .br => some (.brExt (.lit f lit))
  | .brZ => some (.brZExt (.lit f lit))
  | .brNz => some (.brNzExt (.lit f lit))
  | .brLz => some (.brLzExt (.lit f lit))
  | .brGez => some (.brGezExt (.lit f lit))
  | .brx => some (.brxExt (.lit f lit))
  | .call => some (.callExt (.lit f lit))
  | .callx => some (.callxExt (.lit f lit))
  | .ret => some (.retExt (.lit f lit))
  | .exit => some (.exitExt (.lit f lit))
  | .yield => some (.yieldExt (.lit f lit))
  | .split => some (.splitExt (.lit f lit))
  | .barArrive => some (.barArriveExt (.lit f lit))
  | .barWait => some (.barWaitExt (.lit f lit))
  | .barSync => some (.barSyncExt (.lit f lit))
  | .barDrop => some (.barDropExt (.lit f lit))
  | .qpush => some (.qpushExt (.lit f lit))
  | .qpop => some (.qpopExt (.lit f lit))
  | .sadd => some (.saddExt (.lit f lit))
  | .ssub => some (.ssubExt (.lit f lit))
  | .smul => some (.smulExt (.lit f lit))
  | .sand => some (.sandExt (.lit f lit))
  | .sor => some (.sorExt (.lit f lit))
  | .sxor => some (.sxorExt (.lit f lit))
  | .sshl => some (.sshlExt (.lit f lit))
  | .sshr => some (.sshrExt (.lit f lit))
  | .smin => some (.sminExt (.lit f lit))
  | .smax => some (.smaxExt (.lit f lit))
  | .smov => some (.smovExt (.lit f lit))
  | .ssel => some (.sselExt (.lit f lit))
  | .vaddS32 => some (.vaddS32Ext (.lit f lit))
  | .vsubS32 => some (.vsubS32Ext (.lit f lit))
  | .vmulS32 => some (.vmulS32Ext (.lit f lit))
  | .vmad => some (.vmadExt (.lit f lit))
  | .vand => some (.vandExt (.lit f lit))
  | .vor => some (.vorExt (.lit f lit))
  | .vxor => some (.vxorExt (.lit f lit))
  | .vshl => some (.vshlExt (.lit f lit))
  | .vshr => some (.vshrExt (.lit f lit))
  | .vminS32 => some (.vminS32Ext (.lit f lit))
  | .vmaxS32 => some (.vmaxS32Ext (.lit f lit))
  | .vabsS32 => some (.vabsS32Ext (.lit f lit))
  | .vnegS32 => some (.vnegS32Ext (.lit f lit))
  | .vsel => some (.vselExt (.lit f lit))
  | .vmov => some (.vmovExt (.lit f lit))
  | .vdot4 => some (.vdot4Ext (.lit f lit))
  | .vaddF32 => some (.vaddF32Ext (.lit f lit))
  | .vsubF32 => some (.vsubF32Ext (.lit f lit))
  | .vmulF32 => some (.vmulF32Ext (.lit f lit))
  | .vfma => some (.vfmaExt (.lit f lit))
  | .vfms => some (.vfmsExt (.lit f lit))
  | .vfnma => some (.vfnmaExt (.lit f lit))
  | .vminF32 => some (.vminF32Ext (.lit f lit))
  | .vmaxF32 => some (.vmaxF32Ext (.lit f lit))
  | .vabsF32 => some (.vabsF32Ext (.lit f lit))
  | .vnegF32 => some (.vnegF32Ext (.lit f lit))
  | .vdiv => some (.vdivExt (.lit f lit))
  | .vsqrt => some (.vsqrtExt (.lit f lit))
  | .vrsqrt => some (.vrsqrtExt (.lit f lit))
  | .vrcp => some (.vrcpExt (.lit f lit))
  | .vexp2 => some (.vexp2Ext (.lit f lit))
  | .vlog2 => some (.vlog2Ext (.lit f lit))
  | .vexp => some (.vexpExt (.lit f lit))
  | .vlog => some (.vlogExt (.lit f lit))
  | .vsin => some (.vsinExt (.lit f lit))
  | .vcos => some (.vcosExt (.lit f lit))
  | .vtanh => some (.vtanhExt (.lit f lit))
  | .vsigm => some (.vsigmExt (.lit f lit))
  | .vrint => some (.vrintExt (.lit f lit))
  | .vscale => some (.vscaleExt (.lit f lit))
  | .vpack => some (.vpackExt (.lit f lit))
  | .vunpack => some (.vunpackExt (.lit f lit))
  | .vshfl => some (.vshflExt (.lit f lit))
  | .vred => some (.vredExt (.lit f lit))
  | .vballot => some (.vballotExt (.lit f lit))
  | .vld => some (.vldExt (.lit f lit))
  | .vst => some (.vstExt (.lit f lit))
  | .vlds => some (.vldsExt (.lit f lit))
  | .vsts => some (.vstsExt (.lit f lit))
  | .vaadd => some (.vaaddExt (.lit f lit))
  | .vradd => some (.vraddExt (.lit f lit))
  | .vcmpS32 => some (.vcmpS32Ext (.lit f lit))
  | .vcmpF32 => some (.vcmpF32Ext (.lit f lit))
  | .vkop => some (.vkopExt (.lit f lit))
  | .scmp => some (.scmpExt (.lit f lit))
  | .slea => some (.sleaExt (.lit f lit))
  | .sbfe => some (.sbfeExt (.lit f lit))
  | .sbfi => some (.sbfiExt (.lit f lit))
  | .sclz => some (.sclzExt (.lit f lit))
  | .spopc => some (.spopcExt (.lit f lit))
  | .vclz => some (.vclzExt (.lit f lit))
  | .vpopc => some (.vpopcExt (.lit f lit))
  | .vbfe => some (.vbfeExt (.lit f lit))
  | .vbfi => some (.vbfiExt (.lit f lit))
  | .vmulh => some (.vmulhExt (.lit f lit))
  | .vadds => some (.vaddsExt (.lit f lit))
  | .vsubs => some (.vsubsExt (.lit f lit))
  | _ => none

/-- The row of an opcode's extended word. -/
noncomputable def instrOfExt (o : Op) (f : ExtWord) : Instr :=
  match o with
  | .nop => .nopExt (.ext f)
  | .br => .brExt (.ext f)
  | .brZ => .brZExt (.ext f)
  | .brNz => .brNzExt (.ext f)
  | .brLz => .brLzExt (.ext f)
  | .brGez => .brGezExt (.ext f)
  | .brx => .brxExt (.ext f)
  | .call => .callExt (.ext f)
  | .callx => .callxExt (.ext f)
  | .ret => .retExt (.ext f)
  | .exit => .exitExt (.ext f)
  | .yield => .yieldExt (.ext f)
  | .split => .splitExt (.ext f)
  | .barArrive => .barArriveExt (.ext f)
  | .barWait => .barWaitExt (.ext f)
  | .barSync => .barSyncExt (.ext f)
  | .barDrop => .barDropExt (.ext f)
  | .qpush => .qpushExt (.ext f)
  | .qpop => .qpopExt (.ext f)
  | .sadd => .saddExt (.ext f)
  | .ssub => .ssubExt (.ext f)
  | .smul => .smulExt (.ext f)
  | .sand => .sandExt (.ext f)
  | .sor => .sorExt (.ext f)
  | .sxor => .sxorExt (.ext f)
  | .sshl => .sshlExt (.ext f)
  | .sshr => .sshrExt (.ext f)
  | .smin => .sminExt (.ext f)
  | .smax => .smaxExt (.ext f)
  | .smov => .smovExt (.ext f)
  | .ssel => .sselExt (.ext f)
  | .vaddS32 => .vaddS32Ext (.ext f)
  | .vsubS32 => .vsubS32Ext (.ext f)
  | .vmulS32 => .vmulS32Ext (.ext f)
  | .vmad => .vmadExt (.ext f)
  | .vand => .vandExt (.ext f)
  | .vor => .vorExt (.ext f)
  | .vxor => .vxorExt (.ext f)
  | .vshl => .vshlExt (.ext f)
  | .vshr => .vshrExt (.ext f)
  | .vminS32 => .vminS32Ext (.ext f)
  | .vmaxS32 => .vmaxS32Ext (.ext f)
  | .vabsS32 => .vabsS32Ext (.ext f)
  | .vnegS32 => .vnegS32Ext (.ext f)
  | .vsel => .vselExt (.ext f)
  | .vmov => .vmovExt (.ext f)
  | .vdot4 => .vdot4Ext (.ext f)
  | .vaddF32 => .vaddF32Ext (.ext f)
  | .vsubF32 => .vsubF32Ext (.ext f)
  | .vmulF32 => .vmulF32Ext (.ext f)
  | .vfma => .vfmaExt (.ext f)
  | .vfms => .vfmsExt (.ext f)
  | .vfnma => .vfnmaExt (.ext f)
  | .vminF32 => .vminF32Ext (.ext f)
  | .vmaxF32 => .vmaxF32Ext (.ext f)
  | .vabsF32 => .vabsF32Ext (.ext f)
  | .vnegF32 => .vnegF32Ext (.ext f)
  | .vdiv => .vdivExt (.ext f)
  | .vsqrt => .vsqrtExt (.ext f)
  | .vrsqrt => .vrsqrtExt (.ext f)
  | .vrcp => .vrcpExt (.ext f)
  | .vexp2 => .vexp2Ext (.ext f)
  | .vlog2 => .vlog2Ext (.ext f)
  | .vexp => .vexpExt (.ext f)
  | .vlog => .vlogExt (.ext f)
  | .vsin => .vsinExt (.ext f)
  | .vcos => .vcosExt (.ext f)
  | .vtanh => .vtanhExt (.ext f)
  | .vsigm => .vsigmExt (.ext f)
  | .vrint => .vrintExt (.ext f)
  | .vscale => .vscaleExt (.ext f)
  | .vpack => .vpackExt (.ext f)
  | .vunpack => .vunpackExt (.ext f)
  | .vshfl => .vshflExt (.ext f)
  | .vbcast => .vbcast f
  | .vrot => .vrot f
  | .vbfly => .vbfly f
  | .vred => .vredExt (.ext f)
  | .vballot => .vballotExt (.ext f)
  | .vld => .vldExt (.ext f)
  | .vst => .vstExt (.ext f)
  | .vldw => .vldw f
  | .vstw => .vstw f
  | .vlds => .vldsExt (.ext f)
  | .vsts => .vstsExt (.ext f)
  | .vldsw => .vldsw f
  | .vstsw => .vstsw f
  | .vldb => .vldb f
  | .fence => .fence f
  | .vaadd => .vaaddExt (.ext f)
  | .vradd => .vraddExt (.ext f)
  | .vcmpS32 => .vcmpS32Ext (.ext f)
  | .vcmpF32 => .vcmpF32Ext (.ext f)
  | .vkop => .vkopExt (.ext f)
  | .sspr => .sspr f
  | .scmp => .scmpExt (.ext f)
  | .slea => .sleaExt (.ext f)
  | .sbfe => .sbfeExt (.ext f)
  | .sbfi => .sbfiExt (.ext f)
  | .sclz => .sclzExt (.ext f)
  | .spopc => .spopcExt (.ext f)
  | .vclz => .vclzExt (.ext f)
  | .vpopc => .vpopcExt (.ext f)
  | .vbfe => .vbfeExt (.ext f)
  | .vbfi => .vbfiExt (.ext f)
  | .vmulh => .vmulhExt (.ext f)
  | .vadds => .vaddsExt (.ext f)
  | .vsubs => .vsubsExt (.ext f)
  | .callv => .callv f
  | .retv => .retv f
  | .brAny => .brAny f
  | .brAll => .brAll f
  | .migrate => .migrate f
  | .launch => .launch f
  | .launchWait => .launchWait f
  | .sleep => .sleep f
  | .smulh => .smulh f
  | .sdiv => .sdiv f
  | .srem => .srem f
  | .barTest => .barTest f
  | .barAdd => .barAdd f
  | .qpushn => .qpushn f
  | .qpopn => .qpopn f
  | .qlen => .qlen f
  | .qpeek => .qpeek f
  | .vcvt => .vcvt f
  | .vquant => .vquant f
  | .vdequant => .vdequant f
  | .vext => .vext f
  | .vins => .vins f
  | .scvt => .scvt f
  | .vmant => .vmant f
  | .vexpo => .vexpo f
  | .vscan => .vscan f
  | .vldnf => .vldnf f
  | .vldk => .vldk f
  | .vstk => .vstk f
  | .vprf => .vprf f
  | .vamin => .vamin f
  | .vamax => .vamax f
  | .vaand => .vaand f
  | .vaor => .vaor f
  | .vaxor => .vaxor f
  | .vaxch => .vaxch f
  | .vacas => .vacas f
  | .vrmin => .vrmin f
  | .vrmax => .vrmax f
  | .vrbit => .vrbit f
  | .mmac => .mmac f
  | .mgmac => .mgmac f
  | .mmaci => .mmaci f
  | .mcbload => .mcbload f
  | .msmx => .msmx f
  | .msnorm => .msnorm f
  | .mclaim => .mclaim f
  | .mrel => .mrel f
  | .mfeed => .mfeed f
  | .mfeeda => .mfeeda f
  | .mst => .mst f
  | .mld => .mld f
  | .mzero => .mzero f
  | .mpoly => .mpoly f
  | .miterG => .miterG f
  | .miterS => .miterS f
  | .mgang => .mgang f
  | .mgleave => .mgleave f
  | .mcoef => .mcoef f
  | .mscale => .mscale f
  | .mtrans => .mtrans f
  | .mstat => .mstat f
  | .xcopy => .xcopy f
  | .xcopy2 => .xcopy2 f
  | .xcopy3 => .xcopy3 f
  | .xgath => .xgath f
  | .xscat => .xscat f
  | .xslot => .xslot f
  | .xfill => .xfill f
  | .xprf => .xprf f
  | .xred => .xred f
  | .xstat => .xstat f
  | .xcancel => .xcancel f
  | .xhand => .xhand f
  | .hdist => .hdist f
  | .hpin => .hpin f
  | .hunpin => .hunpin f
  | .hpre => .hpre f
  | .hdemote => .hdemote f
  | .hocc => .hocc f
  | .pmake => .pmake f
  | .pfill => .pfill f
  | .peq => .peq f
  | .pwait => .pwait f
  | .ppoll => .ppoll f
  | .pfind => .pfind f
  | .lput => .lput f
  | .lget => .lget f
  | .lallred => .lallred f
  | .lallgat => .lallgat f
  | .lredsc => .lredsc f
  | .lbcast => .lbcast f
  | .trap => .trap f
  | .rgn => .rgn f
  | .brk => .brk f
  | .mark => .mark f
  | .evt => .evt f
  | .opt => .opt f
  | .prio => .prio f
  | .gstat => .gstat f

/-- The row of the opcode table that an event is. -/
noncomputable def instrOfEvent : Event → Instr
  | .splitPromote a0 => .splitPromote a0
  | .yieldEnd a0 => .yieldEnd a0
  | .sleepDeadline a0 => .sleepDeadline a0
  | .callvEnqueue a0 a1 => .callvEnqueue a0 a1
  | .calleeTake a0 => .calleeTake a0
  | .migrateMove a0 => .migrateMove a0
  | .arrivalCounted a0 => .arrivalCounted a0
  | .loadReply a0 => .loadReply a0
  | .spadAccessComplete a0 => .spadAccessComplete a0
  | .storeAck a0 => .storeAck a0
  | .fenceComplete a0 => .fenceComplete a0
  | .groupEnd a0 => .groupEnd a0
  | .teamPlace a0 => .teamPlace a0
  | .teamEnd a0 => .teamEnd a0
  | .trapRecordAppend a0 => .trapRecordAppend a0
  | .resumeContinue a0 => .resumeContinue a0
  | .resumeRerun a0 => .resumeRerun a0
  | .resumeEndGroup a0 => .resumeEndGroup a0
  | .resumeEndLaunch a0 => .resumeEndLaunch a0
  | .resumeInvalid a0 a1 => .resumeInvalid a0 a1
  | .preempt a0 => .preempt a0
  | .saveComplete a0 => .saveComplete a0
  | .partialEviction a0 a1 => .partialEviction a0 a1
  | .contextRestore a0 => .contextRestore a0
  | .slotClaimTake a0 => .slotClaimTake a0
  | .slotRelease a0 => .slotRelease a0
  | .arrayStart a0 => .arrayStart a0
  | .arrayComplete a0 => .arrayComplete a0
  | .mfeedComplete a0 => .mfeedComplete a0
  | .mfeedaComplete a0 => .mfeedaComplete a0
  | .iterationPhaseEnd a0 => .iterationPhaseEnd a0
  | .gangRendezvous a0 => .gangRendezvous a0
  | .gangTimeout a0 => .gangTimeout a0
  | .copyCommandStart a0 => .copyCommandStart a0
  | .copyBlock a0 => .copyBlock a0
  | .copyLanding a0 => .copyLanding a0
  | .copyComplete a0 => .copyComplete a0
  | .xhandPush a0 => .xhandPush a0
  | .copyAbortFault a0 => .copyAbortFault a0
  | .frontAccept a0 => .frontAccept a0
  | .frontServe a0 => .frontServe a0
  | .waveFind a0 => .waveFind a0
  | .tileLand a0 a1 => .tileLand a0 a1
  | .memoryReply a0 a1 a2 => .memoryReply a0 a1 a2
  | .tileLeaveComplete a0 a1 => .tileLeaveComplete a0 a1
  | .sharerDropAck a0 a1 a2 => .sharerDropAck a0 a1 a2
  | .writeUpdateWords a0 => .writeUpdateWords a0
  | .copyTileReply a0 => .copyTileReply a0
  | .leaseRenewal a0 => .leaseRenewal a0
  | .leaseExpiry a0 a1 => .leaseExpiry a0 a1
  | .departureWindowEnd a0 => .departureWindowEnd a0
  | .homeChange a0 a1 => .homeChange a0 a1
  | .forwardEntryFree a0 a1 => .forwardEntryFree a0 a1
  | .promiseVisit a0 => .promiseVisit a0
  | .promiseCasParent a0 => .promiseCasParent a0
  | .promiseLockGrant a0 => .promiseLockGrant a0
  | .promiseWakeSend a0 => .promiseWakeSend a0
  | .promiseWakeArrive a0 => .promiseWakeArrive a0
  | .linkFrameReceive a0 a1 => .linkFrameReceive a0 a1
  | .linkDown a0 => .linkDown a0
  | .collectiveMatch a0 => .collectiveMatch a0
  | .collectiveTimeout a0 => .collectiveTimeout a0
  | .collectiveComplete a0 => .collectiveComplete a0
  | .lputSignal a0 => .lputSignal a0
  | .hostAccess a0 => .hostAccess a0
  | .hostBarrier a0 => .hostBarrier a0
  | .pcieWrite a0 a1 a2 => .pcieWrite a0 a1 a2
  | .pcieRead a0 a1 a2 => .pcieRead a0 a1 a2
  | .pcieMsi a0 a1 a2 => .pcieMsi a0 a1 a2
  | .timeSample a0 a1 => .timeSample a0 a1
  | .timeAgreementLoss => .timeAgreementLoss
  | .doorbell a0 a1 => .doorbell a0 a1
  | .cmdLaunch a0 a1 => .cmdLaunch a0 a1
  | .cmdFence a0 a1 => .cmdFence a0 a1
  | .cmdTranslationInvalidate a0 a1 => .cmdTranslationInvalidate a0 a1
  | .cmdInvalidKind a0 a1 => .cmdInvalidKind a0 a1
  | .deviceLaunchAccept a0 => .deviceLaunchAccept a0
  | .launchHoldEnd a0 => .launchHoldEnd a0
  | .launchEnd a0 => .launchEnd a0
  | .fenceEnd a0 => .fenceEnd a0
  | .invalidateEnd a0 => .invalidateEnd a0
  | .bufferListProcessed a0 => .bufferListProcessed a0
  | .launchWaitDone a0 => .launchWaitDone a0
  | .schedulingPoint a0 => .schedulingPoint a0
  | .codeStoreLoad a0 a1 => .codeStoreLoad a0 a1
  | .pageRequestEnter a0 => .pageRequestEnter a0
  | .pageRequestTake => .pageRequestTake
  | .pageRequestRetry a0 => .pageRequestRetry a0
  | .pageRequestAbort a0 => .pageRequestAbort a0
  | .vdDescriptorWrite a0 a1 => .vdDescriptorWrite a0 a1
  | .vdSuspend a0 => .vdSuspend a0
  | .vdUnsuspend a0 => .vdUnsuspend a0
  | .partitionWrite a0 a1 => .partitionWrite a0 a1
  | .serviceBlockWrite a0 a1 => .serviceBlockWrite a0 a1
  | .placeTableWrite a0 a1 a2 => .placeTableWrite a0 a1 a2
  | .occupancyEntryWrite a0 a1 a2 => .occupancyEntryWrite a0 a1 a2
  | .routeTableWrite a0 => .routeTableWrite a0
  | .communicatorWrite a0 a1 a2 => .communicatorWrite a0 a1 a2
  | .timeSet a0 => .timeSet a0
  | .registerWrite a0 => .registerWrite a0
  | .partitionReset a0 => .partitionReset a0
  | .moduleReset a0 => .moduleReset a0
  | .recoveryRecord a0 => .recoveryRecord a0
  | .opptChange a0 => .opptChange a0
  | .limiterWindow a0 => .limiterWindow a0
  | .firmwareWriteDropped a0 a1 => .firmwareWriteDropped a0 a1
  | .patrolScrub => .patrolScrub
  | .powerLoss => .powerLoss
  | .unassignedOpcode a0 => .unassignedOpcode a0
  | .pageTableWalkComplete a0 => .pageTableWalkComplete a0
  | .moduleFatalError => .moduleFatalError

/-- The row of a word of opcode `o`; none where the table gives a base word no row (such a word is refused by
`illegalCause`). -/
noncomputable def instrOfWord (o : Op) : Word3 → Option Instr
  | .base f => instrOfBase o f
  | .lit f l => instrOfLit o f l
  | .ext e => some (instrOfExt o e)

end Sys2Proof
end

