-- ==== Sys2Proof/WellFormed.lean ====
section
/-!
DEFINITION. When an instruction term stands for a word that R79 lets issue: its opcode, its fields and its operands
pass the decode checks of causes 8, 2, 3, 4 and 5. The other steps of the machine carry no encoding and are well formed.
-/
namespace Sys2Proof

/-- The decode cause that refuses an instruction term, if one does. -/
def wellFormedCause (i : Instr) : Option Nat :=
  match instrWord i with
  | none => none
  | some (o, w) => illegalCause o w

/-- An instruction term that no decode check refuses. -/
def wellFormed (i : Instr) : Bool := (wellFormedCause i).isNone

end Sys2Proof
end

