-- ==== Sys2Proof/Decode.lean ====
section
/-!
DEFINITION. Decoding (R58 to R62, R66, R78, R79), total on any words and bytes and refusing by cause, and after it the
encoder, written from the same field maps. Every decode check is made here but cause 6, which needs the launch.
-/
namespace Sys2Proof

/-- What decoding answers: an instruction and its length in bytes, or the cause of R79 that refuses it. -/
inductive Decoded where
  | ok (i : Instr) (len : Nat)
  | bad (cause : Nat)
  deriving DecidableEq, Repr

/-- The code-store words of an instruction whose first word is `w` (R58). -/
def wordCount (w : BitVec 32) : Nat :=
  match (w.extractLsb' 0 2).toNat with
  | 0 => 1
  | 1 => 3
  | 2 => 3
  | _ => 5

/-- The fields of a base word (R60). -/
def decBase (w : BitVec 32) : BaseWord where
  x := w.extractLsb' 26 6
  y := w.extractLsb' 20 6
  z := w.extractLsb' 14 6
  wsel := w.extractLsb' 4 3
  dist := w.extractLsb' 2 2

/-- The fields of an extended word (R62, R66). -/
def decExt (w0 w1 w2 : BitVec 32) (lit : Option (BitVec 64)) : ExtWord where
  rm := w2.extractLsb' 29 3
  ty := w2.extractLsb' 24 5
  sat := w2.getLsbD 23
  kc := w2.extractLsb' 21 2
  kb := w2.extractLsb' 19 2
  ka := w2.extractLsb' 17 2
  opx := w2.extractLsb' 8 9
  sc := w2.extractLsb' 0 8
  sb := w1.extractLsb' 24 8
  sa := w1.extractLsb' 16 8
  d := w1.extractLsb' 8 8
  trc := w1.getLsbD 7
  trb := w1.getLsbD 6
  tra := w1.getLsbD 5
  wait := w1.extractLsb' 0 5 ++ w0.extractLsb' 25 7
  setf := w0.extractLsb' 21 4
  pe := w0.getLsbD 20
  pn := w0.getLsbD 19
  pk := w0.extractLsb' 16 3
  dist := w0.extractLsb' 2 5
  lit := lit

/-- The 64-bit literal, low word first (R58). -/
def decLit (lo hi : BitVec 32) : BitVec 64 := hi ++ lo

/-- The opcode number and the word that a list of code-store words begins with; none where the words do not suffice. -/
def parseWords : List (BitVec 32) → Option (Nat × Word3)
  | [] => none
  | w0 :: rest =>
    match (w0.extractLsb' 0 2).toNat, rest with
    | 0, _ => some ((w0.extractLsb' 7 7).toNat, .base (decBase w0))
    | 1, l0 :: l1 :: _ => some ((w0.extractLsb' 7 7).toNat, .lit (decBase w0) (decLit l0 l1))
    | 2, w1 :: w2 :: _ => some ((w0.extractLsb' 7 9).toNat, .ext (decExt w0 w1 w2 none))
    | 3, w1 :: w2 :: l0 :: l1 :: _ =>
        some ((w0.extractLsb' 7 9).toNat, .ext (decExt w0 w1 w2 (some (decLit l0 l1))))
    | _, _ => none

/-- The length in bytes of a word of each of the four lengths (R58). -/
def word3Bytes : Word3 → Nat
  | .base _ => 4
  | .lit _ _ => 12
  | .ext e => if e.lit.isSome then 20 else 12

/-- The instruction at the head of a list of code-store words, with the checks of R79 in their order: cause 7 where the
words run out, cause 1 for an unassigned opcode (R78), then the checks of `illegalCause`. -/
noncomputable def decodeWords (ws : List (BitVec 32)) : Decoded :=
  match parseWords ws with
  | none => .bad 7
  | some (n, w) =>
    match opOfCode n with
    | none => .bad 1
    | some o =>
      match illegalCause o w with
      | some c => .bad c
      | none =>
        match instrOfWord o w with
        | none => .bad 4
        | some i => .ok i (word3Bytes w)

/-- Four bytes as a little-endian word (R6). -/
def wordOfBytes (b0 b1 b2 b3 : Byte) : BitVec 32 := b3 ++ b2 ++ b1 ++ b0

/-- The little-endian words of a list of bytes; bytes after the last whole word are left out (R58). -/
def wordsOfBytes : List Byte → List (BitVec 32)
  | b0 :: b1 :: b2 :: b3 :: rest => wordOfBytes b0 b1 b2 b3 :: wordsOfBytes rest
  | _ => []

/-- Decoding of any bytes. -/
noncomputable def decodeBytes (bs : List Byte) : Decoded := decodeWords (wordsOfBytes bs)

/-- The base word of R60. -/
def encBase (o : Op) (len : BitVec 2) (f : BaseWord) : BitVec 32 :=
  f.x ++ f.y ++ f.z ++ BitVec.ofNat 7 (opCode o) ++ f.wsel ++ f.dist ++ len

/-- The first word of an extended word (R62). -/
def encExt0 (o : Op) (e : ExtWord) : BitVec 32 :=
  e.wait.extractLsb' 0 7 ++ e.setf ++ BitVec.ofBool e.pe ++ BitVec.ofBool e.pn ++ e.pk ++
    BitVec.ofNat 9 (opCode o) ++ e.dist ++ (if e.lit.isSome then 3#2 else 2#2)

/-- The second word of an extended word (R62). -/
def encExt1 (e : ExtWord) : BitVec 32 :=
  e.sb ++ e.sa ++ e.d ++ BitVec.ofBool e.trc ++ BitVec.ofBool e.trb ++ BitVec.ofBool e.tra ++ e.wait.extractLsb' 7 5

/-- The third word of an extended word (R62, R66). -/
def encExt2 (e : ExtWord) : BitVec 32 :=
  e.rm ++ e.ty ++ BitVec.ofBool e.sat ++ e.kc ++ e.kb ++ e.ka ++ e.opx ++ e.sc

/-- The two words of a literal, low word first (R58). -/
def encLit (l : BitVec 64) : List (BitVec 32) := [l.extractLsb' 0 32, l.extractLsb' 32 32]

/-- The code-store words of a word of opcode `o`. -/
def encodeWord (o : Op) : Word3 → List (BitVec 32)
  | .base f => [encBase o 0#2 f]
  | .lit f l => encBase o 1#2 f :: encLit l
  | .ext e => encExt0 o e :: encExt1 e :: encExt2 e :: (match e.lit with | none => [] | some l => encLit l)

/-- The code-store words of an instruction; none for the steps that carry no encoding. -/
def encode (i : Instr) : Option (List (BitVec 32)) :=
  match instrWord i with
  | none => none
  | some (o, w) => some (encodeWord o w)

/-- The little-endian bytes of a word (R6). -/
def bytesOfWord (w : BitVec 32) : List Byte :=
  [w.extractLsb' 0 8, w.extractLsb' 8 8, w.extractLsb' 16 8, w.extractLsb' 24 8]

/-- The five code-store words that hold the bits of a table word, bit 0 first, with zeros above. -/
def tableWords (w : Nat) : List (BitVec 32) :=
  [BitVec.ofNat 32 w, BitVec.ofNat 32 (w / 2 ^ 32), BitVec.ofNat 32 (w / 2 ^ 64), BitVec.ofNat 32 (w / 2 ^ 96),
   BitVec.ofNat 32 (w / 2 ^ 128)]

/-- The instruction that decoding reads from a word of the opcode table of `nbits` bits, numbered from bit 0 of the
first word; bits above `nbits` are 0. -/
noncomputable def decodeTableWord (nbits w : Nat) : Option Instr :=
  match decodeWords (tableWords (w % 2 ^ nbits)) with
  | .ok i _ => some i
  | .bad _ => none

end Sys2Proof
end

