-- ==== Sys2Proof/Machine/Errors.lean ====
section
/-!
DEFINITION. Errors in storage (R378, R379): those that an on-die store's code cannot correct, which raise the data-error fault in the
instruction that reads them (R159), the count of those that are corrected, and how they come about.
-/
namespace Sys2Proof.Machine

/-! ### Stores -/

/-- The bits that a store holds. -/
def storeBits (s : State) : Store → Nat
  | .reg u r l =>
    (match groupAt? s u with
      | none => 0
      | some g =>
        match r.c with
        | .v => (vread g r.n l).toNat
        | .s => (sread g r.n).toNat
        | _ => (kread g r.n).toNat)
  | .spad t w => readNat (teamSpad s t) (8 * w) 8
  | .slot c w => readNat (matAt s c).slots (8 * w) 8
  | .acc c w => (mget 0 (2 * w) (matAt s c).acc).toNat + 2 ^ 32 * (mget 0 (2 * w + 1) (matAt s c).acc).toNat

/-- Whether an error still stands: nothing has been written over the damaged bits. -/
def standing (s : State) (e : SoftErr) : Bool := storeBits s e.place == e.bits

/-! ### What an instruction reads -/

/-- Registers that a word reads: its sources, its predicate, and the arguments of a call. -/
def regReads (c : Ctx) : List Reg :=
  trapRegs c.op c.f ++ blockRegs c.op c.f ++ (if c.f.pe then [⟨.k, c.f.pk.toNat⟩] else []) ++
  (if c.op == .callv || c.op == .retv then (List.range 8).map (fun r => ⟨.v, r⟩) else [])

/-- Copies whose source, descriptor or index list may lie in scratchpad (R261 to R265). -/
def readsRanges (o : Op) : Bool :=
  o == .xcopy || o == .xcopy2 || o == .xcopy3 || o == .xgath || o == .xscat || o == .xslot || o == .xred

/-- Scratchpad ranges that an instruction reads, as (address, bytes, lanes that take the data). -/
def spadReads (s : State) (c : Ctx) : List (Nat × Nat × Word) :=
  let a := (srcS s c 1).toNat
  let all (rs : List (Nat × Nat)) : List (Nat × Nat × Word) := rs.map (fun r => (r.1, r.2, c.sel))
  match c.op with
  | .vlds | .vldsw => (spadAccs s c true).map (fun p => (p.2.toNat, accSize c.op c.f, maskOf [p.1]))
  | .vldk => [((spadAddr s c false 0).toNat, 4, c.sel)]
  | .mfeed => [(a, feedBytes c s, c.sel)]
  | .mld | .mcbload => [(a, xferBytes c.f c.op, c.sel)]
  | .mmac | .mgmac =>
    let p := (srcS s c 3).toNat
    let (fa, fb) := blocksOf (readBytes (teamSpad s c.g.team) p 32)
    all ((p, 32) :: (scaleRanges fa (macM c.f) (macK c.f) ++ scaleRanges fb (macN c.f) (macK c.f)))
  | o =>
    if readsRanges o then
      all ((if isDescOp o then [(copyB c s, 64)] else []) ++
        ((rowRanges c s ++ listRanges c s).filter (fun r => !r.2.2)).map (fun r => (r.1.toNat, r.2.1)))
    else []

/-- Ranges of operand slots that an instruction reads, as (core, address, bytes). -/
def slotReads (s : State) (c : Ctx) : List (Nat × Nat × Nat) :=
  let (fa, fb) := blocksOf (readBytes (teamSpad s c.g.team) (srcS s c 3).toNat 32)
  let ends : Nat × Nat := match c.op with
    | .mgmac => let x := sourceCores s c.g; (x.1.getD c.g.core, x.2.getD c.g.core)
    | _ => (c.g.core, c.g.core)
  if c.op == .mmac || c.op == .mgmac then
    [(ends.1, 32768 * c.f.sa.toNat, macM c.f * macK c.f * efmtWidth fa.efmt / 8),
     (ends.2, 32768 * c.f.sb.toNat, macN c.f * macK c.f * efmtWidth fb.efmt / 8)]
  else []

/-- Quarters of the accumulator that an instruction reads. -/
def quarterReads (c : Ctx) : List Nat :=
  match c.op with
  | .mmac | .mgmac | .msnorm => [c.f.d.toNat]
  | .mmaci => [c.f.d.toNat, c.f.sa.toNat, c.f.sb.toNat]
  | .msmx => [c.f.d.toNat, c.f.sa.toNat]
  | .mst => [c.f.sb.toNat]
  | .mfeeda | .mscale | .mtrans | .mpoly | .miterG | .miterS => [c.f.sa.toNat]
  | _ => []

/-- The lanes of an instruction that read a damaged store. -/
def lanesHurt (s : State) (c : Ctx) (e : SoftErr) : Word :=
  let meets (w a n : Nat) : Bool := decide (a < 8 * w + 8) && decide (8 * w < a + n)
  match e.place with
  | .reg u r l => if u = c.g.uid && (regReads c).contains r then (if r.c == .v then c.sel &&& maskOf [l] else c.sel) else 0
  | .spad t w =>
    if t = c.g.team then ((spadReads s c).filter (fun x => meets w x.1 x.2.1)).foldl (fun m x => m ||| x.2.2) 0 else 0
  | .slot k w => if (slotReads s c).any (fun x => x.1 == k && meets w x.2.1 x.2.2) then c.sel else 0
  | .acc k w =>
    let q := 2 * (2 * w / 256 / 128) + 2 * w % 256 / 128
    if k = c.g.core && (quarterReads c).contains q then c.sel else 0

/-- The lanes that read any damaged store. -/
def hurtLanes (s : State) (c : Ctx) : Word := (s.soft.filter (standing s)).foldl (fun m e => m ||| lanesHurt s c e) 0

/-- An instruction that has issued has read damaged data in some lanes: the data-error fault stops its group, a scratchpad load writes
nothing to those lanes (R159, R190), and the error is noted in the black box (R378). -/
def raiseHurt (t : State) (c : Ctx) (lanes : Word) : State :=
  let t1 := updFlight t c.id (fun f => if f.work != .spad then f else
    { f with data := f.data.filter (fun p => !(lanes.getLsbD (p.1 % 32))), vals := [] })
  let t2 := boxAppend t1 0x31 (coreDie c.g.core) c.g.core (groupCtx t c.g) 0
  raiseFault t2 c.g.uid (mkEntry 0x0A 0 lanes 0 c.pc c.sp.place c.sp.stamp c.id c.pc)

/-! ### How errors come about -/

/-- A corrected error is counted in its unit; a count that passes 1,024 within one hour is noted in the black box (R378). -/
def countCorrected (s : State) (die unit : Nat) : State :=
  let key := 65536 * die + unit
  let x := (mfind key s.corrected).getD (timeNs s, 0)
  let y := if 3600 * 10 ^ 9 ≤ timeNs s - x.1 then (timeNs s, 1) else (x.1, x.2 + 1)
  let s1 := { s with corrected := mput key y s.corrected }
  if y.2 = 1025 then boxAppend s1 0x30 die unit 0 y.2 else s1

/-- What goes wrong takes place. -/
def takeUpset (s : State) : Upset → State
  | .corrected d u => countCorrected s d u
  | .spoiled p => { s with soft := s.soft ++ [⟨p, storeBits s p⟩] }
  | .line l => { s with latent := (s.latent ++ [l]).dedup }

/-- What goes wrong by now (R379). -/
def upsetTick (s : State) : State :=
  ((s.upsets.filter (fun u => decide (u.1 ≤ timeNs s))).map (·.2)).foldl takeUpset
    { s with upsets := s.upsets.filter (fun u => !(decide (u.1 ≤ timeNs s))) }

end Sys2Proof.Machine
end

