-- ==== Sys2Proof/Machine/Sched.lean ====
section
/-!
DEFINITION. What happens next (log 5): fetching a word (R58, R79), the offers of a core's groups (R98) and the choice among
them (R104), the events that are due or ready in each stage of a tick, and the tick itself (R7, R371, R374).
-/
namespace Sys2Proof.Machine

/-- A meaning as Dispatch gives it: of a word of an opcode, of a word with no assigned opcode, and of the other steps. -/
structure Meanings where
  word : Op → Word3 → State → Host.Outcome State Fault Refusal
  bad : BitVec 32 → State → Host.Outcome State Fault Refusal
  event : Event → State → Host.Outcome State Fault Refusal

/-! ### Fetching (R58, R59, R79) -/

/-- The words of the code store from a program counter on, at most five; the store has 512 KiB. -/
def fetchWords (s : State) (core pc : Nat) : List (BitVec 32) :=
  let cs := (mfind (coreCluster core) s.codes).getD CodeStore.empty
  (List.range 5).filterMap (fun i =>
    if pc + 4 * i + 4 ≤ 524288 then some (BitVec.ofNat 32 (readNat cs.bytes (pc + 4 * i) 4)) else none)

/-- The core and the program counter of the group and split that `cur` names. -/
def curPc (s : State) : Option (Nat × Nat) :=
  match s.cur with
  | none => none
  | some (u, pl) => (groupAt? s u).bind (fun g => (splitAt? g pl).map (fun sp => (g.core, sp.pc)))

/-- Run the instruction at the program counter of the group and split that `cur` names. -/
def runCur (m : Meanings) (s : State) : Host.Outcome State Fault Refusal :=
  match curPc s with
  | none => .fault .noIssuingGroup
  | some (core, pc) =>
    let ws := fetchWords s core pc
    match parseWords ws with
    | none => illegalTrap 7 s
    | some (n, w) =>
      match opOfCode n with
      | none => m.bad (ws.headD 0) s
      | some o => m.word o w s

/-- Try the instruction of a split without keeping what comes of it. -/
def tryAt (m : Meanings) (s : State) (uid place : Nat) : Option State :=
  match runCur m { s with cur := some (uid, place), turn := .none } with
  | .next t => some t
  | _ => none

/-! ### Offers (R98, R79) -/

/-- Split places in the order of R98. -/
def offerOrder (g : Group) : List Nat := (List.range 4).map (fun i => (g.lastPlace + 1 + i) % 4)

/-- Raise the precise faults that a group's next instructions find, in this clk (R79, R191), and register an arrival at the
rendezvous latch (R230). A decode check holds for every split; any other fault is that of the instruction the group offers. -/
def scanGroup (m : Meanings) (s : State) (u : Nat) : State :=
  match groupAt? s u with
  | none => s
  | some g =>
    if g.stop.isSome || g.halted then s
    else
      ((offerOrder g).foldl (fun (acc : State × Bool) pl =>
        match splitAt? g pl, tryAt m s u pl with
        | some _, some t =>
          (match t.turn, ((groupAt? t u).bind (·.stop)).bind (fun r => r.entries.head?) with
            | .trapped, some e =>
              if e.code = 0x01 then (raiseFault acc.1 u e, acc.2) else if acc.2 then acc else (raiseFault acc.1 u e, true)
            | .arrived, _ => if acc.2 then acc else (updMat acc.1 g.core (fun x => { x with arrival := (matAt t g.core).arrival }), true)
            | .issued, _ | .unitHeld, _ => (acc.1, true)
            | _, _ => acc)
        | _, _ => acc) (s, false)).1

/-- A candidate of a core (R104): its group, its split, its opcode, whether its selected set is empty, and whether the
latch has let it issue. -/
structure Cand where
  g : Group
  place : Nat
  op : Op
  idle : Bool
  granted : Bool

/-- The opcode and selected set of the instruction of a split. -/
def peekOp (s : State) (g : Group) (sp : Split) : Option (Op × Bool) :=
  match parseWords (fetchWords s g.core sp.pc) with
  | none => none
  | some (n, w) => (opOfCode n).map (fun o => (o, selected g sp (fieldsOf o w).e == 0))

/-- The split that a group offers in this clk, if the instruction of one is issuable (R98), with what comes of it: an
instruction whose unit an earlier one holds is offered, but its group is no candidate (R104). -/
def offered (m : Meanings) (s : State) (g : Group) : Option (Split × Turn) :=
  if g.stop.isSome || g.halted then none
  else
    (offerOrder g).findSome? (fun pl =>
      match splitAt? g pl, tryAt m s g.uid pl with
      | some sp, some t => if t.turn = .issued || t.turn = .unitHeld then some (sp, t.turn) else none
      | _, _ => none)

/-- The group as a candidate of its core, if it is one (R104). -/
def offer (m : Meanings) (s : State) (g : Group) : Option Cand :=
  match offered m s g with
  | some (sp, .issued) =>
    (peekOp s g sp).map (fun x => ⟨g, sp.place, x.1, x.2, match (matAt s g.core).arrival with
      | some a => a.uid == g.uid && a.place == sp.place && a.granted != 0
      | none => false⟩)
  | _ => none

/-! ### The choice of a core (R104) -/

def roleRank (g : Group) : Nat := match g.role with | .matrix => 0 | .copy => 1 | .vector => 2

/-- The order of R104; an instruction that the latch lets issue comes first (R230). -/
def candBefore (a b : Cand) : Bool :=
  if a.granted != b.granted then a.granted
  else if roleRank a.g != roleRank b.g then decide (roleRank a.g < roleRank b.g)
  else if a.g.lastIssue != b.g.lastIssue then decide (a.g.lastIssue < b.g.lastIssue)
  else decide (a.g.slot ≤ b.g.slot)

/-- Whether a candidate may join those chosen (R80, R104, R144): four at most, one of class M, one of class X, and one on
each unit that is one instruction wide. An instruction that selects no lane takes no unit (DESIGN CHOICE, log 80). -/
def mayJoin (chosen : List Cand) (c : Cand) : Bool :=
  let cl := issueClass c.op
  let u := (unitOf c.op).1
  decide (chosen.length < 4) &&
  !((cl == .m || cl == .x) && chosen.any (fun h => issueClass h.op == cl)) &&
  (u == .none || u == .arith || c.idle || !(chosen.any (fun h => (unitOf h.op).1 == u && !h.idle)))

def chooseOn (m : Meanings) (s : State) (core : Nat) : List Cand :=
  let cands := (s.groups.filter (fun g => g.core == core)).filterMap (offer m s)
  (sortBy candBefore cands).foldl (fun ch c => if mayJoin ch c then ch ++ [c] else ch) []

/-- Cores of the dies whose clk has just begun, on which groups stand. -/
def liveCores (s : State) : List Nat :=
  ((s.groups.map (·.core)).dedup).filter (fun k => (dieAt s (coreDie k)).fresh)

/-- The instructions that issue in this clk, in ascending logical place. -/
def chooseAll (m : Meanings) (s : State) : List (Nat × Nat) :=
  let all := ((liveCores s).map (chooseOn m s)).flatten
  (sortBy (fun a b : Cand => decide ((placeWord s a.g).toNat ≤ (placeWord s b.g).toNat)) all).map (fun c => (c.g.uid, c.place))

/-! ### Events -/

/-- A tile's place in the order of landings that are due in one clk (R303): one that has been deferred comes after those due
now; else the order in which the requests were served that started them. -/
def landBefore (a : ArmSt) (x y : Nat) : Bool :=
  let order (t : Nat) : Nat := ((a.motion.find? (fun m => m.tile == t)).map (·.order)).getD 0
  let late (t : Nat) : Bool := a.late.contains t
  if late x != late y then late y else decide (order x < order y)

/-- Whether no other landing of the arm that is due comes before a tile's. -/
def firstLanding (s : State) (arm tile : Nat) : Bool :=
  s.agenda.all (fun d => match d.ev with
    | .tileLand a t => !(a == arm && t != tile && landsLater (armAt s arm) t && whenDue s d.moment && landBefore (armAt s arm) t tile)
    | _ => true)

/-- Whether an entry of the agenda can take place now: its moment has come, and an arm inserts one tile per clk (R283), in
the order of R303. -/
def dueNow (s : State) (d : Due) : Bool :=
  whenDue s d.moment && (match d.ev with
    | .tileLand arm t => !(landsLater (armAt s arm) t) || (!((armAt s arm).inserted) && firstLanding s arm t)
    | _ => true)

/-- Take the first entry of the agenda that can take place, of rank at most `k`. -/
def takeDue (s : State) (k : Nat) : Option (Event × State) :=
  (s.agenda.find? (fun d => decide (d.rank ≤ k) && dueNow s d)).map (fun d => (d.ev, { s with agenda := s.agenda.erase d }))

def freshCore (s : State) (core : Nat) : Bool := (dieAt s (coreDie core)).fresh
def freshArm (s : State) (arm : Nat) : Bool := (dieAt s (armDie arm)).fresh

/-- The command that a front end takes next; while a device-side launch waits, its host queue does too (R341, R346). -/
def commandEvent (s : State) (fe : Nat) : Option Event :=
  if !((feAt s fe).devq.isEmpty) then (if deviceLaunchReady s fe then some (.deviceLaunchAccept fe) else none)
  else
    (nextCommand? s fe).map (fun c =>
      match cmdField c 7 0 with
      | 1 => .cmdLaunch fe c
      | 2 => .cmdFence fe c
      | 3 => .cmdTranslationInvalidate fe c
      | _ => .cmdInvalidKind fe c)

/-- What falls due for an accepted command (R92, R343 to R345, R354). -/
def launchEvent (s : State) (l : Launch) : Option Event :=
  if holdOver s l then some (.launchHoldEnd l.id)
  else if launchOver s l then some (.launchEnd l.id)
  else if fenceOver s l then some (.fenceEnd l.id)
  else if invalidateOver s l then some (.invalidateEnd l.id)
  else if listingReady s l then some (.bufferListProcessed l.id)
  else none

/-- Launches of a device that are ready to place, highest PRIO first and then in order of acceptance (R346). -/
def placeOrder (s : State) (v : Nat) : List Launch :=
  sortBy (fun a b : Launch => decide (b.record.prio < a.record.prio) || (a.record.prio == b.record.prio && decide (a.seq ≤ b.seq)))
    (s.launches.filter (fun l => l.vd == v && mayPlace s l && decide (l.placed < l.total)))

/-- The image that the next teams of a launch wait for, or the room that must be made for them (R202, R348). -/
def makeWay (s : State) (l : Launch) : Option Event :=
  match planNext s l true with
  | some plan =>
    match plan.find? (fun p => !(hasImage s p.core l.record.code)) with
    | some p => if loadReady s (coreCluster p.core) l then some (.codeStoreLoad (coreCluster p.core) l.id) else none
    | none => none
  | none => (evictCore? s l).map (fun c => .partialEviction l.id c.1)

/-- The next placement, restore, load or eviction of a partition (R346, R348, R349, R351). -/
def placeEvent (s : State) (part : Nat) : Option Event :=
  match (partAt s part).placing with
  | none => none
  | some v =>
    if (vdAt s v).susp then none
    else if restorable s v then
      match s.saves.find? (fun x => x.vd == v && x.held) with
      | none => none
      | some sv =>
        match restoreImage? s sv with
        | some (cl, id) =>
          (launchAt? s id).bind (fun l => if loadReady s cl l then some (.codeStoreLoad cl id) else none)
        | none => if restoreEntries s sv && restoreGens s sv then some (.contextRestore v) else none
    else
      let ls := placeOrder s v
      -- a place table that R103 does not permit refuses the resume (R103, R373)
      if !ls.isEmpty && !(tableOk s (vdAt s v).ctx) then some (.contextRestore v)
      else
        match ls.find? (fun l => (placeable s l).isSome) with
        | some l => some (.teamPlace l.id)
        | none => ls.findSome? (makeWay s)

/-- What a group waits for at the start of a clk. -/
def groupStart (s : State) (g : Group) : Option Event :=
  if recordReady s g then some (.trapRecordAppend g.uid)
  else if migrateReady s g then some (.migrateMove g.uid)
  else if departureOver s g then some (.departureWindowEnd g.uid)
  else if g.callee && g.splits.isEmpty && !g.halted && (fullestQueue (coreAt s g.core).queues g.team).isSome then
    some (.calleeTake g.uid)
  else none

/-- Error records that find room in their queue (R292). -/
def errEvent (s : State) : Option Event :=
  if s.errHeld.any (fun e => match vdOfCtx? s e.1 with | some v => queueRoom (vdAt s v) | none => false) then
    some (.trapRecordAppend 0)
  else none

/-- What is ready at the start of a tick. -/
def startEvent (s : State) : Option Event :=
  (s.groups.filter (fun g => freshCore s g.core)).findSome? (groupStart s) <|>
  errEvent s <|>
  (s.pageHeld.find? (fun p => (pageRoom s p.fe).isSome)).map (fun p => .pageRequestEnter p.fe) <|>
  (s.teams.find? (fun t => freshCore s t.core && teamOver s t)).map (fun t => .teamEnd t.id) <|>
  (List.range 16).findSome? (commandEvent s) <|>
  s.launches.findSome? (launchEvent s) <|>
  ((s.parts.map (·.1)).find? (pointDue s)).map .schedulingPoint <|>
  (s.parts.map (·.1)).findSome? (placeEvent s) <|>
  ((List.range 4).find? (opptReady s)).map .opptChange

/-- What the rendezvous latches do (R230). -/
def latchEvent (s : State) : Option Event :=
  (s.cores.map (·.1)).findSome? (fun k =>
    if freshCore s k && latchReady s k then some (.gangRendezvous k) else if latchLate s k then some (.gangTimeout k) else none)

/-- Whether a request may be accepted by its front now (R282). -/
def acceptable (s : State) (r : Req) : Bool :=
  r.phase == .travel && !r.away && whenDue s r.due && freshArm s r.arm &&
  decide ((armAt s r.arm).accepted < 2) && decide ((armAt s r.arm).queue.length < 192)

/-- Whether a request goes ahead of another into the queue of its front: after a home change those that the old home forwarded,
then those that were held, in the order of their arrival, ahead of arbitration (R188). -/
def acceptBefore (s : State) (arm : Nat) (x b : Req) : Bool :=
  let rank (r : Req) : Nat := if r.fwd then 0 else if r.served != 0 then 1 else 2
  if rank x != rank b then decide (rank x < rank b)
  else if x.served != b.served then decide (x.served < b.served)
  else serveBefore s arm x b

/-- The next request that a front accepts. -/
def acceptEvent (s : State) : Option Event :=
  match s.reqs.find? (awayReady s), s.reqs.find? (acceptable s) with
  | some r, _ => some (.frontAccept r.id)
  | none, none => none
  | none, some r =>
    let rs := s.reqs.filter (fun x => x.arm == r.arm && acceptable s x)
    some (.frontAccept ((rs.foldl (fun b x => if acceptBefore s r.arm x b then x else b) r).id))

/-- What a front serves next (R282, R307). -/
def serveEvent (s : State) : Option Event :=
  ((s.lockq.map (·.1)).find? (lockFree s)).map .promiseLockGrant <|>
  s.arms.findSome? (fun p =>
    if p.2.served || p.2.queue.isEmpty || !(freshArm s p.1) then none
    else (nextServed s p.1).map (fun r => match r.ask with
      | .casParent _ _ _ => .promiseCasParent r.id
      | _ => .frontServe p.1)) <|>
  (s.cores.map (·.1)).findSome? (fun k =>
    if (claimsWaiting s k).any (fun f => match f.work, groupAt? s f.uid with
      | .claim mask, some g => claimFree s g mask
      | _, _ => false) then some (.slotClaimTake k) else none)

/-- Whether the lookup wave of a request finds its tile now (R284): a tile at distance d in clk n + ⌊d / 32⌋, or one that stood so
near at the start of the clk. -/
def waveReady (s : State) (r : Req) : Bool :=
  r.phase == .wave && (match tileAt? (armAt s r.arm) (r.line / 8) with
    | none => true
    | some t =>
      let hi := 32 * (armClk s r.arm - r.since) + 31
      decide (t.slot ≤ hi) || decide (t.was ≤ hi))

/-- The next wave that finds its tile: those of one clk in the order of service (R302). -/
def waveEvent (s : State) : Option Event :=
  ((servedOrder (s.reqs.filter (waveReady s))).head?).map (fun r => .waveFind r.id)

/-- A home's reply that makes or refreshes a copy (R288). -/
def copyEvent (s : State) : Option Event :=
  (s.reqs.find? (fun r => r.phase == .reply && r.copy && !r.lost && whenDue s r.due && !(wordsWait s r) &&
    (match r.src with | .link _ _ => false | _ => true))).map (fun r =>
      if r.renew.isSome then .leaseRenewal r.id else .copyTileReply r.id)

/-- What is ready for a request in flight. -/
def reqEvent (s : State) (r : Req) : Option Event :=
  if r.phase != .reply && r.phase != .done then none
  else if promReady s r then some (.promiseVisit r.op)
  else if loadReplyReady s r then some (.loadReply r.id)
  else if storeAckReady s r then some (.storeAck r.id)
  else none

/-- What is ready for a copy command or a link transfer. -/
def cmdEvent (s : State) (c : CopyCmd) : Option Event :=
  if cmdStartReady s c then some (.copyCommandStart c.id)
  else if cmdDone c then some (.copyComplete c.id)
  else if signalReady s c then some (.lputSignal c.id)
  else none

/-- Whether a waiting lane of a `callv` can be enqueued (R99). -/
def callvReady (s : State) (f : Flight) : Bool :=
  match f.work, groupAt? s f.uid with
  | .callv _ t _, some g =>
    t != 0 && (match (flightAt? (enqueueCallv s g.uid f.place) f.id).map (·.work) with | some w => w != f.work | none => true)
  | _, _ => false

/-- Whether a die's clk ends with this tick: its clock runs, and a whole clk of its operating point has passed. -/
def clkEnds (s : State) (d : Nat) : Bool :=
  let x := dieAt s d
  decide (x.stall ≤ timeNs s) && decide (50 ≤ x.phase + pointRate x.point)

/-- What is ready for an instruction in flight. -/
def flightEvent (s : State) (f : Flight) : Option Event :=
  match f.work with
  | .arrive _ => if arrivalReady s f then some (.arrivalCounted f.id) else none
  | .fence => if fenceReady s f then some (.fenceComplete f.id) else none
  | .launchWait _ => if launchWaitReady s f then some (.launchWaitDone f.id) else none
  | .release _ =>
    -- at the end of the clk (R216): in its last tick, after the claims of this clk have been served
    if releaseSlotsReady s f && clkEnds s (coreDie (flightCore s f)) then some (.slotRelease f.id) else none
  | .migrate _ => if migrateDone s f then some (.migrateMove f.uid) else none
  | .callv _ _ _ => if callvReady s f then some (.callvEnqueue f.uid f.place) else none
  | .store | .reduce => if opAcked s f then f.reqs.getLast?.map .storeAck else none
  | _ => none

/-- What is ready for a core's engines. -/
def coreEvent (s : State) (k : Nat) : Option Event :=
  if arrayStartReady s k then some (.arrayStart k) else if landingTurn s k then some (.copyLanding k) else none

/-- The `xhand` whose push comes next: ascending engine number, after every group push of the clk (R26). -/
def xhandEvent (s : State) : Option Event :=
  ((sortBy (fun a b : CopyCmd => decide (a.eng ≤ b.eng)) s.cmds).find? (xhandReady s)).map (fun c => .xhandPush c.id)

/-- What is ready in the rest of a tick. -/
def restEvent (s : State) : Option Event :=
  waveEvent s <|>
  s.reqs.findSome? (reqEvent s) <|>
  (s.walks.find? (walkReady s)).map (fun w => .pageTableWalkComplete w.id) <|>
  (s.cores.map (·.1)).findSome? (coreEvent s) <|>
  s.cmds.findSome? (cmdEvent s) <|>
  (((s.cmds.map (·.eng)).dedup).find? (fun e => engineFree s e && (nextBlock s e).isSome)).map .copyBlock <|>
  xhandEvent s <|>
  s.flights.findSome? (flightEvent s) <|>
  (s.colls.find? (collReady s)).map (fun x => .collectiveMatch x.id) <|>
  (s.colls.find? collDone).map (fun x => .collectiveComplete x.id) <|>
  (s.groups.find? (groupOver s)).map (fun g => .groupEnd g.uid) <|>
  (s.saves.find? (fun v => !v.done && saveReady s v)).map (fun v => .saveComplete v.id)

/-! ### The tick (R7, R73, R129, R371, R374) -/

/-- Matrix transfers take the scratchpad of the clk that no vector pass and no landing has taken (R161). -/
def xferTick (s : State) (d : Nat) : State :=
  ((s.cores.map (·.1)).filter (fun k => coreDie k == d)).foldl (fun st k =>
    match nextXfer st k with
    | some f => if spadFree st k && !(landingTurn st k) then doXfer st k f else st
    | none => st) s

/-- The end of a die's clk: transfers, the writes that fall due, barriers. -/
def endClk (s : State) (d : Nat) : State :=
  let s1 := applyPend (xferTick s d) d (dieClk s d)
  { s1 with teams := s1.teams.map (fun (t : Team) => if coreDie t.core == d then { t with bars := t.bars.map (fun b => (b.1, openBar b.2)) } else t) }

/-- An arm's next clk: its counts start again, and its tiles stand where the last clk left them. -/
def armTick (a : ArmSt) : ArmSt :=
  { a with
    accepted := 0
    served := false
    inserted := false
    removed := false
    tiles := if a.inserted || a.removed then a.tiles.map (fun t => { t with was := t.slot }) else a.tiles }

/-- The start of a die's next clk: its count, the allowances of its arms and rings, promotions (R97). -/
def startClk (s : State) (d : Nat) : State :=
  let x := dieAt s d
  let s1 : State := setDie s d { x with clk := x.clk + 1, fresh := true }
  let s2 : State := { s1 with
    arms := s1.arms.map (fun (p : Nat × ArmSt) => if armDie p.1 == d then (p.1, armTick p.2) else p)
    reqs := s.reqs.map (fun (r : Req) => if armDie r.arm == d then waitOn s r else r)
    teams := s1.teams.map (fun (t : Team) => if coreDie t.core == d then { t with rings := t.rings.map (fun r => (r.1, ringTick r.2)) } else t) }
  let up := s2.groups.filter (fun (g : Group) => coreDie g.core == d && (freePlace g.splits).isSome && g.splits.any (fun sp => !sp.arms.isEmpty))
  let s3 := up.foldl (fun st g => addDue st (.ns (timeNs st)) 0 (.splitPromote g.uid)) s2
  -- instructions that an earlier one kept from sending go on (R166)
  (s3.flights.filter (fun f => coreDie (flightCore s3 f) == d && (sendReady s3 f || entryReady s3 f))).foldl (fun st f => advanceFlight st f.id) s3

/-- %time after one tick, a count of 64 bits (R7). -/
def timeTick (s : State) : State :=
  let f := (s.frac + 20000 : Int) + s.slew / 50
  { s with ns := (s.ns + (f / 50000).toNat) % 2 ^ 64, frac := (f % 50000).toNat }

/-- One tick: 0.4 ns. -/
def tick (s : State) : State :=
  let ends := (List.range 4).filter (clkEnds s)
  let s1 := ends.foldl endClk s
  let s2 := { s1 with
    outer := s1.outer.map openOuter
    dies := s1.dies.map (fun (x : DieSt) => { x with
      phase := if x.stall ≤ timeNs s then (x.phase + pointRate x.point) % 50 else x.phase
      fresh := false }) }
  let s3 := ends.foldl startClk (timeTick s2)
  let s4 := sweepReqs (pcieTick (sampleTick s.ns (numberColls { s3 with links := s3.links.map linkTick })))
  { eligibleTick (launchTick (upsetTick s4)) with stage := 0 }

/-! ### One step -/

/-- The event of the current stage, taken from the agenda or ready by the state. -/
def pick (s : State) : Option (Event × State) :=
  let ready (e : Option Event) : Option (Event × State) := e.map (fun e => (e, s))
  match s.stage with
  | 0 => takeDue s 0 <|> ready (startEvent s)
  | 1 => ready (latchEvent s)
  | 2 => none
  | 3 => ready (acceptEvent s)
  | 4 => ready (serveEvent s)
  | _ => ready (copyEvent s) <|> takeDue s 3 <|> ready (restEvent s)

/-- The stage that follows when nothing is left to do in the current one. -/
def advance (m : Meanings) (s : State) : State :=
  match s.stage with
  | 0 =>
    let us := (s.groups.filter (fun g => freshCore s g.core)).map (·.uid)
    { us.foldl (scanGroup m) s with stage := 1, cur := none, turn := .none }
  | 1 => { s with stage := 2, issueQ := chooseAll m s }
  | 2 => { s with stage := 3 }
  | 3 => { s with stage := 4 }
  | 4 => { s with stage := 5 }
  | _ => tick s

/-- What the group and split that `cur` names is to issue. -/
def curCtx (s : State) : Option Ctx :=
  match s.cur with
  | none => none
  | some (u, pl) =>
    (groupAt? s u).bind (fun g => (splitAt? g pl).bind (fun sp =>
      (parseWords (fetchWords s g.core sp.pc)).bind (fun x =>
        (opOfCode x.1).map (fun o => mkCtx s g sp o x.2 (fieldsOf o x.2).e))))

/-- An instruction that has issued and has read an uncorrectable error in an on-die store stops its group (R159, R379). -/
def noteHurt (s t : State) : State :=
  if s.soft.isEmpty || t.turn != .issued then t
  else
    match curCtx s with
    | none => t
    | some c => if hurtLanes s c = 0 then t else raiseHurt t c (hurtLanes s c)

/-- The instruction of the group and split that `cur` names issues, with the error that it may read. -/
def runIssue (m : Meanings) (s : State) : Host.Outcome State Fault Refusal :=
  match runCur m s with
  | .next t => .next (noteHurt s t)
  | o => o

/-- One step of a module that runs: the next instruction of the clk's choice, the next event of the stage, or the next
stage. -/
def stepRunning (m : Meanings) (s : State) : Host.Outcome State Fault Refusal :=
  match s.stage, s.issueQ with
  | 2, x :: rest => runIssue m { s with issueQ := rest, cur := some x, turn := .none }
  | _, _ =>
    match pick s with
    | some (e, s1) => m.event e s1
    | none => .next (advance m s)

/-- Events that reach a module whose compute dies are in reset (R370, R378). -/
def reachesReset : Event → Bool
  | .moduleReset _ | .recoveryRecord _ | .powerLoss | .moduleFatalError => true
  | _ => false

/-- One step of a module in the recovery service or without power: time passes until an event that reaches it. -/
def stepReset (m : Meanings) (s : State) : Host.Outcome State Fault Refusal :=
  match takeDue s 3 with
  | some (e, s1) => if reachesReset e then m.event e s1 else .next s1
  | none => .next (timeTick s)

def stepWith (m : Meanings) (s : State) : Host.Outcome State Fault Refusal :=
  match s.boot with
  | .released => stepRunning m s
  | _ => stepReset m s

/-! ### A program placed from outside (log 4) -/

/-- The launch record of a program of one group whose role may issue the word (R23, R82): 256 registers, the whole
scratchpad, rings of depth 256 for its role. -/
def loaderRec (o : Option Op) : LaunchRec :=
  let m := (o.map isMatrixOp).getD false
  let c := (o.map isCopyOp).getD false
  let k := if m then 1 else if c then 2 else 0
  { args := 0
    code := 0
    entc := 0
    entm := 0
    entv := 0
    ncall := 0
    ncopy := if c then 1 else 0
    nmat := if m then 1 else 0
    nvec := if m || c then 0 else 1
    spad := 512
    vregs := 256
    prio := 0
    oppt := 0
    levels := [⟨1, false, 0, 2⟩]
    rings := List.replicate 16 (256, k, k)
    ranges := [] }

def loaderLaunch (o : Option Op) (id : Nat) : Launch :=
  { id := id
    kind := 1
    fe := 0
    vd := 0
    part := 0
    ctx := 0
    record := loaderRec o
    done := 0
    preds := []
    list := []
    phase := .running
    seq := 0
    accepted := 0
    placed := 1
    total := 1
    live := 1
    status := 0
    outstanding := []
    drops := none
    settle := 0
    units := [] }

/-- The state with code-store words at offset 0 of cluster 0, a team of one group on core 0 that starts there, and that
group chosen to issue next, one clk after it was placed. -/
def loadProgram (ws : List (BitVec 32)) (s : State) : State :=
  let o := (parseWords ws).bind (fun x => opOfCode x.1)
  let id := s.uidCount + 1
  let s1 := startTeam (loaderLaunch o id) ⟨0, 0, 0⟩ { s with uidCount := id, launches := s.launches ++ [loaderLaunch o id] }
  let cs := (mfind 0 s1.codes).getD CodeStore.empty
  let bytes := (List.range 20).zip ((ws.map bytesOfWord).flatten)
  { setDie s1 0 { dieAt s1 0 with clk := dieClk s1 0 + 1 } with
    boot := .released
    codes := mput 0 { cs with bytes := writeBytes cs.bytes bytes } s1.codes
    stage := 2
    issueQ := [(s1.uidCount, 0)] }

end Sys2Proof.Machine
end

