-- ==== Sys2Proof/Machine/Step.lean ====
section
/-!
DEFINITION. One step of the machine: what Sched.lean does next, with the meanings that Dispatch.lean gives.
-/
namespace Sys2Proof.Machine

/-- The meanings of words and of the machine's other steps: a decoded instruction runs as `exec` says, a word that R79
refuses ends in the illegal-instruction trap of its cause. -/
noncomputable def meanings : Meanings where
  word o w s :=
    match instrOfWord o w with
    | some i => exec i s
    | none => illegalTrap ((illegalCause o w).getD 4) s
  bad w s := exec (.unassignedOpcode w) s
  event e s := exec (instrOfEvent e) s

/-- One step of the machine. -/
noncomputable def step (s : State) : Host.Outcome State Fault Refusal := stepWith meanings s

/-- `s` with the instruction of a table word placed where the next step fetches: a program loaded from outside (log 4). -/
def State.withFetchWord (s : State) (nbits w : Nat) : State := loadProgram (tableWords (w % 2 ^ nbits)) s

end Sys2Proof.Machine
end

