-- ==== Sys2Proof/Safety.lean ====
section
/-!
DEFINITION. The terms in which claims are stated: safe runs and the canonical form of the byte memories, the conditions
under which an instruction issues, and completion with a named effect.
-/
namespace Sys2Proof

/-- The memory and every cluster's code store list addresses rising strictly and no byte equal
to what an unlisted address reads as. -/
def canonical (s : Machine.State) : Bool :=
  Machine.Memory.wf s.mem && s.codes.all (fun c => Machine.Memory.wf c.2.bytes)

/-- The state after a step, where the step has one. -/
noncomputable def nextOf (s : Machine.State) : Option Machine.State :=
  match Machine.step s with
  | .next t => some t
  | .fault _ => none
  | .refused _ => none

/-- A run of `k` steps from `s` that ends in no fault and no refusal. -/
def SafeRun : Nat → Machine.State → Prop
  | 0, s => canonical s = true
  | k + 1, s => canonical s = true ∧ ∃ t, nextOf s = some t ∧ SafeRun k t

namespace Machine

/-- The group and split that `cur` names, if both stand. -/
def curSplit (s : State) : Option (Group × Split) :=
  match s.cur with
  | none => none
  | some (u, pl) => (groupAt? s u).bind (fun g => (splitAt? g pl).map (fun sp => (g, sp)))

/-- The state in which the turn of group and split `u` to issue has come and `rest` are the turns after it. -/
def takeTurn (s : State) (u : Nat × Nat) (rest : List (Nat × Nat)) : State := { s with issueQ := rest, cur := some u, turn := .none }

/-- What a group sees of a word that has no instruction's fields. -/
def bareCtx (s : State) (g : Group) (sp : Split) : Ctx :=
  mkCtx s g sp .nop (.base ⟨0, 0, 0, 0, 0⟩) (fieldsOf .nop (.base ⟨0, 0, 0, 0, 0⟩)).e

/-- What a group sees when it tries to issue a word of opcode `o` from a split. -/
def ctxOf (o : Op) (w : Word3) (s : State) (g : Group) (sp : Split) : Ctx := mkCtx s g sp o w (fieldsOf o w).e

/-- The split that `cur` names stands at a word of opcode `o` that has been delivered and that no decode check refuses
(R79). -/
structure Offers (o : Op) (w : Word3) (s : State) (g : Group) (sp : Split) : Prop where
  cur : curSplit s = some (g, sp)
  delivered : delivered (ctxOf o w s g sp) = true
  legal : illegalCause o w = none
  launchLegal : cause6 s g o (fieldsOf o w).e = false

/-- The instruction is issuable (R72): beside `Offers`, its distance, flags and predicate register let it go on. -/
structure Ready (o : Op) (w : Word3) (s : State) (g : Group) (sp : Split) : Prop extends Offers o w s g sp where
  ready : notReady s (ctxOf o w s g sp) (fieldsOf o w) = false

/-- Beside `Ready`, every check before the instruction's own effect passes for a non-empty selected set: role (R23, R136),
registers (R75), unit (R80), acquires (R165). -/
structure Passes (o : Op) (w : Word3) (s : State) (g : Group) (sp : Split) : Prop extends Ready o w s g sp where
  lanes : (ctxOf o w s g sp).sel ≠ 0
  role : (roleAllows g.role o && ringRoleOk s g o (fieldsOf o w).e) = true
  trapFull : (trapRegs o (fieldsOf o w).e).any (isEmptyReg g) = false
  blockFull : (blockRegs o (fieldsOf o w).e).any (isEmptyReg g) = false
  unit : unitUntil (coreAt s g.core) (unitOf o).1 ≤ (ctxOf o w s g sp).clk
  acquire : (accessesGlobal o && !g.acq.isEmpty) = false

/-- The instruction completes with the effect `eff` wherever it passes the checks before its own and `ok` holds of what
it sees and of the state in which its issue is booked. -/
def Completes (o : Op) (w : Word3) (i : Instr) (ok : Ctx → State → Prop) (eff : Ctx → State → State) : Prop :=
  ∀ s g sp, Passes o w s g sp →
    ok (ctxOf o w s g sp) (beginIssue s (ctxOf o w s g sp)) →
    exec i s = .next (afterIssue (eff (ctxOf o w s g sp) (beginIssue s (ctxOf o w s g sp))) (ctxOf o w s g sp))

/-- Completion of the base form and of every other form of an opcode below 0x80. -/
def CompletesBoth (o : Op) (mkB : BaseWord → Instr) (mkX : XWord → Instr) (ok : Ctx → State → Prop)
    (eff : Ctx → State → State) : Prop :=
  (∀ f, Completes o (.base f) (mkB f) ok eff) ∧ (∀ f, Completes o f.toWord3 (mkX f) ok eff)

/-- Completion of an opcode that exists only as an extended word. -/
def CompletesExt (o : Op) (mk : ExtWord → Instr) (ok : Ctx → State → Prop) (eff : Ctx → State → State) : Prop :=
  ∀ f, Completes o (.ext f) (mk f) ok eff

/-- No condition beside those of `Passes`. -/
def always (_ : Ctx) (_ : State) : Prop := True

/-- The selected set of a matrix instruction holds all 32 lanes (R18). -/
def whole (c : Ctx) (_ : State) : Prop := c.sel = 0xFFFFFFFF

/-- The instruction raises a precise fault wherever it passes the checks before its own and `ok` holds: it does not
issue, and its group stops with the entry. -/
def Raises (o : Op) (w : Word3) (i : Instr) (ok : Ctx → State → Prop) (code detail : Nat) : Prop :=
  ∀ s g sp, Passes o w s g sp →
    ok (ctxOf o w s g sp) (beginIssue s (ctxOf o w s g sp)) →
    exec i s = .next (raiseAt s (ctxOf o w s g sp) code detail (ctxOf o w s g sp).sel 0)

/-! ### Effects of the common forms -/

/-- A scalar result with its latency. -/
def scalarEff (lat : Nat) (v : Ctx → State → DWord) (c : Ctx) (s : State) : State := writeAt s c lat (.s c.f.d.toNat (v c s))

/-- A scalar result of the instruction's type from the values of A and B (R123). -/
def intEff (lat : Nat) (op : Ctx → Int → Int → Int) : Ctx → State → State :=
  scalarEff lat (fun c s => scExtend c.f.ty.toNat (op c (scVal s c 1) (scVal s c 2)))

/-- A scalar result of the instruction's type from the N-bit patterns of A and B (R123). -/
def bitEff (op : Ctx → Nat → Nat → Nat) : Ctx → State → State :=
  scalarEff 2 (fun c s => scExtend c.f.ty.toNat (op c (scNat s c 1) (scNat s c 2)))

/-- Every element of every selected lane of D from the same element of one, two and three sources (R142); the operation
takes lane and element number first. -/
def elem1Eff (lat : Nat) (op : Ctx → Nat → Nat → Nat → Nat) (c : Ctx) (s : State) : State :=
  vecPut c lat (vTy c) (fun l => mapElems (vTy c) (fun e => op c l e (elemOf (vTy c) (srcV s c (vTy c) 1 l) e))) s
def elem2Eff (lat : Nat) (op : Ctx → Nat → Nat → Nat → Nat → Nat) (c : Ctx) (s : State) : State :=
  vecPut c lat (vTy c) (fun l => mapElems (vTy c) (fun e =>
    op c l e (elemOf (vTy c) (srcV s c (vTy c) 1 l) e) (elemOf (vTy c) (srcV s c (vTy c) 2 l) e))) s
def elem3Eff (lat : Nat) (op : Ctx → Nat → Nat → Nat → Nat → Nat → Nat) (c : Ctx) (s : State) : State :=
  vecPut c lat (vTy c) (fun l => mapElems (vTy c) (fun e =>
    op c l e (elemOf (vTy c) (srcV s c (vTy c) 1 l) e) (elemOf (vTy c) (srcV s c (vTy c) 2 l) e)
      (elemOf (vTy c) (srcV s c (vTy c) 3 l) e))) s

/-- An integer result modulo 2^N per element (R145). -/
def vint1 (lat : Nat) (op : Int → Int) : Ctx → State → State := elem1Eff lat (fun c _ _ a => vWrap c (op (vInt c a)))
def vint2 (lat : Nat) (op : Ctx → Int → Int → Int) : Ctx → State → State :=
  elem2Eff lat (fun c _ _ a b => vWrap c (op c (vInt c a) (vInt c b)))

/-- An exact result rounded once into the instruction's type under its mode, per element (R148). -/
def vflt1 (lat : Nat) (op : Xr → Xr) : Ctx → State → State :=
  elem1Eff lat (fun c l e a => vRound c (vTy c) l e (op (elemValue (vTy c) a)))
def vflt2 (lat : Nat) (op : Ctx → Xr → Xr → Xr) : Ctx → State → State :=
  elem2Eff lat (fun c l e a b => vRound c (vTy c) l e (op c (elemValue (vTy c) a) (elemValue (vTy c) b)))
def vflt3 (op : Ctx → Xr → Xr → Xr → Xr) : Ctx → State → State :=
  elem3Eff 4 (fun c l e a b d => vRound c (vTy c) l e (op c (elemValue (vTy c) a) (elemValue (vTy c) b) (elemValue (vTy c) d)))

/-- Bits of the selected lanes of a mask register (R146, R147). -/
def maskEff (m : Ctx → State → Word) (c : Ctx) (s : State) : State := writeAt s c 2 (.k c.f.d.toNat c.sel (m c s))

/-- The header of a ring is one that pushes and pops leave: its indices are entries of the ring, and its phases differ
exactly where the push index has wrapped past the pop index (R25, R26). -/
def ringSound (r : Ring) : Prop :=
  r.pushix < r.depth ∧ r.popix < r.depth ∧ (r.popix < r.pushix → r.popph = r.pushph) ∧ (r.pushix < r.popix → r.popph ≠ r.pushph)

/-- A ring takes `n` more entries: at its header of this clk and beside the pushes served since, with no push of the clk
refused before and no `xhand` of the group to it under way (R26, R134, R269). -/
def ringFits (n : Nat) (c : Ctx) (s : State) : Prop :=
  ∃ r, ringOf? s c.g.team c.f.d.toNat = some r ∧ r.start + r.pushed + n ≤ r.depth ∧ r.pushShut = false ∧
    s.cmds.any (fun x => x.uid == c.g.uid && x.op == .xhand && x.f.d.toNat == c.f.d.toNat) = false

/-- A ring gives `n` entries, beside the pops served since and with no pop of the clk refused before (R26, R134). -/
def ringHolds (n : Nat) (c : Ctx) (s : State) : Prop :=
  ∃ r, ringOf? s c.g.team c.f.sa.toNat = some r ∧ r.popped + n ≤ r.start ∧ n ≤ r.depth ∧ r.popShut = false

/-- The n oldest entries of the ring that A names leave it for sD and the registers after it. -/
def popEff (n : Nat) (c : Ctx) (s : State) : State :=
  match ringOf? s c.g.team c.f.sa.toNat with
  | some r => popInto c s n r
  | none => s

/-- Every selected lane of D receives a lane of A (R154). -/
def laneFrom (m : State → Ctx → Nat → Nat) (c : Ctx) (s : State) : State :=
  vecPut c 4 tyN32 (fun l => (vread c.g c.f.sa.toNat (m s c l % 32)).toNat) s

/-- The format-block pair of a product (R235, R241). -/
def macBlocks (s : State) (c : Ctx) : List Byte := readBytes (teamSpad s c.g.team) (srcS s c 3).toNat 32

/-- The pair and the shape of a product pass their checks, the array has room, and the slots are as `slots` asks. -/
def macReady (slots : List Byte → Bool) (s : State) (c : Ctx) : Prop :=
  (pairCheck s c).toOption = some (macBlocks s c) ∧
    macShape c (blocksOf (macBlocks s c)).1 (blocksOf (macBlocks s c)).2 = none ∧ arrayRoom s c = true ∧ slots (macBlocks s c) = true

/-- A copy command finds an entry, guard entries, free slots and room in its barrier's PEND (R262). -/
def cmdFits (cmd : CopyCmd) (gs : List Guard) (slots : List Nat) (c : Ctx) (s : State) : Prop :=
  (pendFor s c cmd).isSome = true ∧ cmdRoom s c cmd gs slots = true

/-- A copy command enters its engine. -/
def cmdEff (cmd : Ctx → State → CopyCmd) (gs : Ctx → State → List Guard) (slots : Ctx → State → List Nat) (c : Ctx) (s : State) :
    State :=
  enterCmd c (cmd c s) (gs c s) (slots c s) ((pendFor s c (cmd c s)).getD s)

/-- An instruction that only completes. -/
def doneEff (c : Ctx) (s : State) : State := finishAt s c 1

/-- The registers of a group: vector, scalar, mask, and the special registers. -/
def regsOf (g : Group) : SMap Word × SMap DWord × SMap Word × DWord × Nat × Word × DWord :=
  (g.v, g.s, g.k, g.rgn, g.mcap, g.mres, g.seed)

/-- A group's number and registers. -/
def numRegs (g : Group) : Nat × SMap Word × SMap DWord × SMap Word × DWord × Nat × Word × DWord := (g.uid, regsOf g)

/-- The registers of every group are the same. -/
def sameRegs (s t : State) : Prop := t.groups.map numRegs = s.groups.map numRegs

/-- A team's number and scratchpad. -/
def numSpad (t : Team) : Nat × SMap Byte := (t.id, t.spad)

/-- The scratchpads of every team are the same. -/
def sameSpads (s t : State) : Prop := t.teams.map numSpad = s.teams.map numSpad

/-- What the matrix engine of a core holds: operand slots, accumulator, codebook, row maxima and sums, coefficients. -/
def engineMem (cores : SMap CoreSt) (k : Nat) : SMap Byte × SMap Word × SMap Word × SMap Word × SMap Word × SMap Word :=
  let m := ((mfind k cores).getD CoreSt.empty).mat
  (m.slots, m.acc, m.cb, m.mx, m.lx, m.coef)

/-- The matrix engines of every core hold the same. -/
def sameEngines (s t : State) : Prop := ∀ k, engineMem t.cores k = engineMem s.cores k

/-- Every byte of device memory and of the code stores reads as before. -/
def sameBytes (s t : State) : Prop := t.mem = s.mem ∧ t.codes = s.codes

end Machine
end Sys2Proof
end

