-- ==== Sys2Proof/Certificates/Slice0/Obligations.lean ====
section
/-!
DEFINITION. The statements for the provers.
-/
open Sys2Proof Sys2Proof.Machine

/-- Where they issue, the scalar arithmetic instructions write sD as R123 gives, with its latencies. -/
def Obligations.ScalarArithmeticCompletes : Prop :=
  CompletesBoth .sadd .sadd .saddExt always (intEff 2 (fun _ a b => a + b)) ∧
  CompletesBoth .ssub .ssub .ssubExt always (intEff 2 (fun _ a b => a - b)) ∧
  CompletesBoth .smul .smul .smulExt always (intEff 4 (fun _ a b => a * b)) ∧
  CompletesExt .smulh .smulh always (intEff 4 (fun c a b => (a * b).fdiv (2 ^ scWidth c))) ∧
  CompletesBoth .sand .sand .sandExt always (bitEff (fun _ a b => a &&& b)) ∧
  CompletesBoth .sor .sor .sorExt always (bitEff (fun _ a b => a ||| b)) ∧
  CompletesBoth .sxor .sxor .sxorExt always (bitEff (fun _ a b => a ^^^ b)) ∧
  CompletesBoth .sshl .sshl .sshlExt always (bitEff (fun c a b => scShl (scWidth c) a b)) ∧
  CompletesBoth .sshr .sshr .sshrExt always (scalarEff 2 (fun c s => scExtend c.f.ty.toNat (scShr (scWidth c) (scVal s c 1) (scNat s c 2)))) ∧
  CompletesBoth .smin .smin .sminExt always (intEff 2 (fun _ a b => min a b)) ∧
  CompletesBoth .smax .smax .smaxExt always (intEff 2 (fun _ a b => max a b)) ∧
  CompletesExt .sdiv .sdiv always (intEff 24 (fun _ a b => scDiv a b)) ∧
  CompletesExt .srem .srem always (intEff 24 (fun _ a b => scRem a b)) ∧
  CompletesBoth .smov .smov .smovExt always (intEff 2 (fun _ a _ => a))

/-- Where they issue, the other scalar instructions write what R123 to R127, R141, R153 and R157 give; `sspr` where its value is within limits. -/
def Obligations.ScalarRestCompletes : Prop :=
  CompletesBoth .sclz .sclz .sclzExt always (scalarEff 2 (fun c s => BitVec.ofNat 64 (scWidth c - bitLen (scNat s c 1 % 2 ^ scWidth c)))) ∧
  CompletesBoth .spopc .spopc .spopcExt always (scalarEff 2 (fun c s => BitVec.ofNat 64 (popCount (scWidth c) (scNat s c 1)))) ∧
  CompletesBoth .scmp .scmp .scmpExt always (scalarEff 2 (fun c s => if cmpHolds (c.f.opx.toNat % 8) (intOrd (scVal s c 1) (scVal s c 2)) false then 1 else 0)) ∧
  CompletesBoth .ssel .ssel .sselExt always (scalarEff 2 (fun c s => scExtend c.f.ty.toNat (if sread c.g c.f.sc.toNat != 0 then scVal s c 1 else scVal s c 2))) ∧
  CompletesBoth .slea .slea .sleaExt always (scalarEff 2 (fun c s => srcS s c 1 + scExtend c.f.ty.toNat (scVal s c 2) <<< (c.f.opx.toNat % 8))) ∧
  CompletesBoth .sbfe .sbfe .sbfeExt always (scalarEff 2 (fun c s => fieldOut (tySigned c.f.ty.toNat) (srcS s c 1) (srcS s c 2))) ∧
  CompletesBoth .sbfi .sbfi .sbfiExt always (scalarEff 2 (fun c s => fieldIn (sread c.g c.f.d.toNat) (srcS s c 1) (srcS s c 2))) ∧
  CompletesExt .sspr .sspr (fun c _ => c.f.d = 0x49) (fun c s => writeAt s c 2 (.sp 0x49 (srcS s c 1))) ∧
  CompletesExt .sspr .sspr (fun c s => c.f.d = 0x46 ∧ 1 ≤ (srcS s c 1).toNat ∧ (srcS s c 1).toNat ≤ 255) (fun c s => writeAt s c 2 (.sp 0x46 (srcS s c 1))) ∧
  CompletesExt .sspr .sspr (fun c s => c.f.d = 0x47 ∧ resOk ((srcS s c 1).setWidth 32) = true) (fun c s => writeAt s c 2 (.sp 0x47 (if (srcS s c 1).setWidth 32 == (0x80000000 : Word) then 0
      else ((srcS s c 1).setWidth 32).setWidth 64))) ∧
  CompletesExt .gstat .gstat always (scalarEff 2 gstatValue) ∧
  CompletesExt .scvt .scvt always (scalarEff 2 cvtScalar) ∧
  CompletesBoth .vballot .vballot .vballotExt always (scalarEff 4 (fun c _ => ballotValue c)) ∧
  CompletesExt .vext .vext always (scalarEff 4 (fun c s => scExtend (vTy c) (vread c.g c.f.sa.toNat (laneIndex s c)).toNat)) ∧
  CompletesBoth .vred .vred .vredExt always (scalarEff 10 redValue)

/-- Where they issue, branches, calls and returns transfer as R111 to R115 give, and `nop` only completes. -/
def Obligations.BranchesComplete : Prop :=
  CompletesBoth .nop .nop .nopExt always doneEff ∧
  CompletesBoth .br .br .brExt always (branchIf (fun _ => true)) ∧
  CompletesBoth .brZ .brZ .brZExt always (branchIf (fun x => x == 0)) ∧
  CompletesBoth .brNz .brNz .brNzExt always (branchIf (fun x => x != 0)) ∧
  CompletesBoth .brLz .brLz .brLzExt always (branchIf (fun x => x.getLsbD 63)) ∧
  CompletesBoth .brGez .brGez .brGezExt always (branchIf (fun x => !(x.getLsbD 63))) ∧
  CompletesExt .brAny .brAny always (branchMask false) ∧
  CompletesExt .brAll .brAll always (branchMask true) ∧
  CompletesBoth .brx .brx .brxExt always branchIndirect ∧
  CompletesBoth .ret .ret .retExt always branchIndirect ∧
  CompletesBoth .call .call .callExt always callDirect ∧
  CompletesBoth .callx .callx .callxExt always callIndirect

/-- Where they issue, the group-control instructions act as R116 to R122 give: `exit` outside a callee slot, `callv` outside one and with callees in the team, `retv` in one, `migrate` with one whole split. -/
def Obligations.GroupControlCompletes : Prop :=
  CompletesBoth .exit .exit .exitExt (fun c _ => c.g.callee = false) exitLanes ∧
  CompletesBoth .yield .yield .yieldExt always yieldNow ∧
  CompletesBoth .split .split .splitExt always splitNow ∧
  CompletesExt .sleep .sleep always sleepNow ∧
  CompletesExt .callv .callv (fun c s => c.g.callee = false ∧ ∃ t, teamAt? s c.g.team = some t ∧ t.callees ≠ []) callLanes ∧
  CompletesExt .retv .retv (fun c _ => c.g.callee = true) returnLanes ∧
  CompletesExt .migrate .migrate (fun c _ => c.g.splits.length = 1 ∧ c.sp.mask = 0xFFFFFFFF ∧ c.sp.arms = []) beginMigrate

/-- Where they issue, the barrier instructions act as R129, R130 and R133 give. -/
def Obligations.BarriersComplete : Prop :=
  CompletesBoth .barArrive .barArrive .barArriveExt (fun c s => barCheck s c = none ∧ (bitsNow s c (barKey c)).arv = false ∧ (bitsNow s c (barKey c)).drop = false) (arriveAtBar false) ∧
  CompletesBoth .barSync .barSync .barSyncExt (fun c s => barCheck s c = none ∧ (bitsNow s c (barKey c)).arv = false ∧ (bitsNow s c (barKey c)).drop = false) (arriveAtBar true) ∧
  CompletesBoth .barWait .barWait .barWaitExt (fun c s => barCheck s c = none ∧ (bitsNow s c (barKey c)).arv = true ∧
    barPhase s c.g (barKey c) ≠ (bitsNow s c (barKey c)).aph) passBar ∧
  CompletesBoth .barDrop .barDrop .barDropExt (fun c s => barCheck s c = none ∧ (bitsNow s c (barKey c)).drop = false) dropFromBar ∧
  CompletesExt .barTest .barTest (fun c _ => c.g.callee = false) (scalarEff 2 (fun c s => barWord (teamBar s c.g.team c.f.sa.toNat) (barBits c.g c.f.sa.toNat))) ∧
  CompletesExt .barAdd .barAdd (fun c s => c.g.callee = false ∧ (addPend s c.g.team c.f.d.toNat (intOf true 32 (srcS s c 1).toNat)).isSome) (fun c s => finishAt ((addPend s c.g.team c.f.d.toNat (intOf true 32 (srcS s c 1).toNat)).getD s) c 1)

/-- Where they issue, pushes and pops that fit at the ring's header and beside the requests served since move the ring (R134, R135), and `qlen` and `qpeek` read it (R136). -/
def Obligations.RingsComplete : Prop :=
  CompletesBoth .qpush .qpush .qpushExt (ringFits 1) (fun c s => pushInto c s [(srcS s c 1).setWidth 32]) ∧
  CompletesExt .qpushn .qpushn (fun c s => ringFits (imm8 c.f.sb).toNat c s) (fun c s => pushInto c s ((List.range (imm8 c.f.sb).toNat).map (fun i => (sread c.g (c.f.sa.toNat + i)).setWidth 32))) ∧
  CompletesBoth .qpop .qpop .qpopExt (ringHolds 1) (popEff 1) ∧
  CompletesExt .qpopn .qpopn (fun c s => ringHolds (imm8 c.f.sb).toNat c s) (fun c s => popEff (imm8 c.f.sb).toNat c s) ∧
  CompletesExt .qlen .qlen always (scalarEff 2 (fun c s => BitVec.ofNat 64 (((ringOf? s c.g.team c.f.sa.toNat).map (·.start)).getD 0))) ∧
  CompletesExt .qpeek .qpeek (fun c s => ∃ r, ringOf? s c.g.team c.f.sa.toNat = some r ∧ r.start ≠ 0) (scalarEff 2 (fun c s => (((ringOf? s c.g.team c.f.sa.toNat).map ringOldest).getD 0).setWidth 64))

/-- Where they issue, the integer vector instructions write every element of the selected lanes as R145 gives. -/
def Obligations.VectorIntegersComplete : Prop :=
  CompletesBoth .vaddS32 .vaddS32 .vaddS32Ext always (vint2 2 (fun _ a b => a + b)) ∧
  CompletesBoth .vsubS32 .vsubS32 .vsubS32Ext always (vint2 2 (fun _ a b => a - b)) ∧
  CompletesBoth .vmulS32 .vmulS32 .vmulS32Ext always (vint2 4 (fun _ a b => a * b)) ∧
  CompletesBoth .vmulh .vmulh .vmulhExt always (vint2 4 (fun c a b => (a * b).fdiv (2 ^ tyWidth (vTy c)))) ∧
  CompletesBoth .vmad .vmad .vmadExt always (elem3Eff 4 (fun c _ _ a b d => vWrap c (vInt c a * vInt c b + vInt c d))) ∧
  CompletesBoth .vand .vand .vandExt always (elem2Eff 2 (fun _ _ _ a b => a &&& b)) ∧
  CompletesBoth .vor .vor .vorExt always (elem2Eff 2 (fun _ _ _ a b => a ||| b)) ∧
  CompletesBoth .vxor .vxor .vxorExt always (elem2Eff 2 (fun _ _ _ a b => a ^^^ b)) ∧
  CompletesBoth .vshl .vshl .vshlExt always (elem2Eff 2 (fun c _ _ a b => scShl (tyWidth (vTy c)) a b)) ∧
  CompletesBoth .vshr .vshr .vshrExt always (elem2Eff 2 (fun c _ _ a b => vWrap c (scShr (tyWidth (vTy c)) (vInt c a) b))) ∧
  CompletesBoth .vminS32 .vminS32 .vminS32Ext always (vint2 2 (fun _ a b => min a b)) ∧
  CompletesBoth .vmaxS32 .vmaxS32 .vmaxS32Ext always (vint2 2 (fun _ a b => max a b)) ∧
  CompletesBoth .vabsS32 .vabsS32 .vabsS32Ext always (vint1 2 (fun a => a.natAbs)) ∧
  CompletesBoth .vnegS32 .vnegS32 .vnegS32Ext always (vint1 2 (fun a => -a)) ∧
  CompletesBoth .vadds .vadds .vaddsExt always (vint2 2 (fun c a b => clampN (tySigned (vTy c)) (tyWidth (vTy c)) (a + b))) ∧
  CompletesBoth .vsubs .vsubs .vsubsExt always (vint2 2 (fun c a b => clampN (tySigned (vTy c)) (tyWidth (vTy c)) (a - b))) ∧
  CompletesBoth .vsel .vsel .vselExt always (elem2Eff 2 (fun c l _ a b => if (kread c.g c.f.sc.toNat).getLsbD l then a else b)) ∧
  CompletesBoth .vmov .vmov .vmovExt always (elem1Eff 2 (fun _ _ _ a => a)) ∧
  CompletesBoth .vclz .vclz .vclzExt always (elem1Eff 2 (fun c _ _ a => tyWidth (vTy c) - bitLen a)) ∧
  CompletesBoth .vpopc .vpopc .vpopcExt always (elem1Eff 2 (fun c _ _ a => popCount (tyWidth (vTy c)) a)) ∧
  CompletesBoth .vdot4 .vdot4 .vdot4Ext always (fun c s => vecPut c 4 tyS32 (fun l => wrapN 32 (intOf true 32 (srcV s c tyS32 3 l) +
    ((List.range 4).map (fun e => vInt c (elemAt 8 (srcV s c (vTy c) 1 l) e) * vInt c (elemAt 8 (srcV s c (vTy c) 2 l) e))).sum)) s) ∧
  CompletesBoth .vbfe .vbfe .vbfeExt always (elem2Eff 2 (fun c _ _ a b => wrapN 32 (intOf (tySigned (vTy c)) ((fieldBounds32 b).2 + 1 - (fieldBounds32 b).1)
    (bits a (fieldBounds32 b).2 (fieldBounds32 b).1)))) ∧
  CompletesBoth .vbfi .vbfi .vbfiExt always (elem3Eff 2 (fun _ _ _ a b d =>
    (d - (d &&& (2 ^ ((fieldBounds32 b).2 + 1 - (fieldBounds32 b).1) - 1) * 2 ^ (fieldBounds32 b).1)) +
      (a * 2 ^ (fieldBounds32 b).1 &&& (2 ^ ((fieldBounds32 b).2 + 1 - (fieldBounds32 b).1) - 1) * 2 ^ (fieldBounds32 b).1)))

/-- Where they issue, the floating-point vector instructions write exact results rounded once, element by element (R148, R150), and the special functions the values of R56. -/
def Obligations.VectorFloatsComplete : Prop :=
  CompletesBoth .vaddF32 .vaddF32 .vaddF32Ext always (vflt2 4 (fun c a b => xadd c.f.rm.toNat a b)) ∧
  CompletesBoth .vsubF32 .vsubF32 .vsubF32Ext always (vflt2 4 (fun c a b => xadd c.f.rm.toNat a (xneg b))) ∧
  CompletesBoth .vmulF32 .vmulF32 .vmulF32Ext always (vflt2 4 (fun _ a b => xmul a b)) ∧
  CompletesBoth .vfma .vfma .vfmaExt always (vflt3 (fun c a b d => xadd c.f.rm.toNat (xmul a b) d)) ∧
  CompletesBoth .vfms .vfms .vfmsExt always (vflt3 (fun c a b d => xadd c.f.rm.toNat (xmul a b) (xneg d))) ∧
  CompletesBoth .vfnma .vfnma .vfnmaExt always (vflt3 (fun c a b d => xadd c.f.rm.toNat (xneg (xmul a b)) d)) ∧
  CompletesBoth .vminF32 .vminF32 .vminF32Ext always (vflt2 4 (fun _ a b => xmin a b)) ∧
  CompletesBoth .vmaxF32 .vmaxF32 .vmaxF32Ext always (vflt2 4 (fun _ a b => xmax a b)) ∧
  CompletesBoth .vabsF32 .vabsF32 .vabsF32Ext always (vflt1 4 xabs) ∧
  CompletesBoth .vnegF32 .vnegF32 .vnegF32Ext always (vflt1 4 xneg) ∧
  CompletesBoth .vdiv .vdiv .vdivExt always (vflt2 14 (fun _ a b => xdiv a b)) ∧
  CompletesBoth .vsqrt .vsqrt .vsqrtExt always (vflt1 14 xsqrt) ∧
  CompletesBoth .vrint .vrint .vrintExt always (elem1Eff 4 (fun c l e a => roundF fmtF32 0 false 0 (xint32 c.f.rm.toNat (drawRand c.g.seed l e) (elemValue (vTy c) a)))) ∧
  CompletesBoth .vscale .vscale .vscaleExt always (fun c s => vecPut c 4 tyF32 (fun l => vRound c tyF32 l 0
    (xscale (intOf true 32 (srcV s c tyS32 2 l)) (elemValue tyF32 (srcV s c tyF32 1 l)))) s) ∧
  CompletesExt .vexpo .vexpo always (elem1Eff 4 (fun c _ _ a => wrapN 32 (xexpo (elemValue (vTy c) a)))) ∧
  CompletesExt .vmant .vmant always (elem1Eff 4 (fun c _ _ a => roundF fmtF32 0 false 0 (match elemValue (vTy c) a with
    | .fin neg m e st => if m = 0 then elemValue (vTy c) a else xscale (-(xexpo (elemValue (vTy c) a))) (.fin neg m e st)
    | x => x))) ∧
  CompletesBoth .vrcp .vrcp .vrcpExt always (elem1Eff 10 (fun _ _ _ a => (rcpF32 (BitVec.ofNat 32 a)).toNat)) ∧
  CompletesBoth .vrsqrt .vrsqrt .vrsqrtExt always (elem1Eff 10 (fun _ _ _ a => (rsqrtF32 (BitVec.ofNat 32 a)).toNat)) ∧
  CompletesBoth .vexp2 .vexp2 .vexp2Ext always (elem1Eff 10 (fun _ _ _ a => (specialF32 .exp2 (BitVec.ofNat 32 a)).toNat)) ∧
  CompletesBoth .vlog2 .vlog2 .vlog2Ext always (elem1Eff 10 (fun _ _ _ a => (specialF32 .log2 (BitVec.ofNat 32 a)).toNat)) ∧
  CompletesBoth .vexp .vexp .vexpExt always (elem1Eff 10 (fun _ _ _ a => (specialF32 .exp (BitVec.ofNat 32 a)).toNat)) ∧
  CompletesBoth .vlog .vlog .vlogExt always (elem1Eff 10 (fun _ _ _ a => (specialF32 .log (BitVec.ofNat 32 a)).toNat)) ∧
  CompletesBoth .vsin .vsin .vsinExt always (elem1Eff 10 (fun _ _ _ a => (specialF32 .sin (BitVec.ofNat 32 a)).toNat)) ∧
  CompletesBoth .vcos .vcos .vcosExt always (elem1Eff 10 (fun _ _ _ a => (specialF32 .cos (BitVec.ofNat 32 a)).toNat)) ∧
  CompletesBoth .vtanh .vtanh .vtanhExt always (elem1Eff 10 (fun _ _ _ a => (specialF32 .tanh (BitVec.ofNat 32 a)).toNat)) ∧
  CompletesBoth .vsigm .vsigm .vsigmExt always (elem1Eff 10 (fun _ _ _ a => (specialF32 .sigm (BitVec.ofNat 32 a)).toNat))

/-- Where they issue, conversions (R151 to R153), lane moves (R154, R157), prefixes (R156), comparisons and mask operations (R146, R147) write the elements, lanes and mask bits that these rules give. -/
def Obligations.ConversionsAndLanesComplete : Prop :=
  CompletesExt .vcvt .vcvt always convertLanes ∧
  CompletesExt .vquant .vquant always (fun c s => elemPut c 4 (tyWidth (vTy c)) (fun l => [(c.f.opx.toNat / 32 % 8, quantElem s c (c.f.opx.toNat / 32 % 8) l)]) s) ∧
  CompletesExt .vdequant .vdequant always (fun c s => vecPut c 4 tyF32 (dequantLane s c) s) ∧
  CompletesBoth .vpack .vpack .vpackExt always (fun c s => vecPut c 4 (vTy c) (fun l => joinElems 16 [vRound c (vTy c) l 0 (elemValue tyF32 (srcV s c tyF32 1 l)),
    vRound c (vTy c) l 1 (elemValue tyF32 (srcV s c tyF32 2 l))]) s) ∧
  CompletesBoth .vunpack .vunpack .vunpackExt always (fun c s => vecPut c 4 tyF32 (fun l =>
    roundF fmtF32 0 false 0 (elemValue (vTy c) (elemOf (vTy c) (srcV s c (vTy c) 1 l) (c.f.opx.toNat / 32 % 8)))) s) ∧
  CompletesBoth .vshfl .vshfl .vshflExt always (laneFrom (fun s c l => srcV s c tyN32 2 l)) ∧
  CompletesExt .vbcast .vbcast always (laneFrom (fun s c _ => laneIndex s c)) ∧
  CompletesExt .vrot .vrot always (laneFrom (fun s c l => l + laneIndex s c)) ∧
  CompletesExt .vbfly .vbfly always (laneFrom (fun s c l => l ^^^ laneIndex s c)) ∧
  CompletesExt .vscan .vscan always (fun c s => vecPut c 12 (vTy c) (scanLane c s) s) ∧
  CompletesExt .vins .vins always insertLane ∧
  CompletesBoth .vcmpS32 .vcmpS32 .vcmpS32Ext always (maskEff cmpMask) ∧
  CompletesBoth .vcmpF32 .vcmpF32 .vcmpF32Ext always (maskEff cmpMask) ∧
  CompletesBoth .vkop .vkop .vkopExt always (maskEff (fun c s => kopValue (c.f.opx.toNat % 8) (srcK s c 1) (srcK s c 2)))

/-- Where they issue and R159 finds no fault, the scratchpad instructions load and store as R160 gives. -/
def Obligations.ScratchpadCompletes : Prop :=
  CompletesBoth .vlds .vlds .vldsExt (fun c s => spadCheck s c (spadAccs s c true) (accSize c.op c.f) false = none) loadSpad ∧
  CompletesExt .vldsw .vldsw (fun c s => spadCheck s c (spadAccs s c true) (accSize c.op c.f) false = none) loadSpad ∧
  CompletesBoth .vsts .vsts .vstsExt (fun c s => spadCheck s c (spadAccs s c true) (accSize c.op c.f) true = none) storeSpad ∧
  CompletesExt .vstsw .vstsw (fun c s => spadCheck s c (spadAccs s c true) (accSize c.op c.f) true = none) storeSpad ∧
  CompletesExt .vldk .vldk (fun c s => spadCheck s c (maskAccs s c) 4 false = none) loadMask ∧
  CompletesExt .vstk .vstk (fun c s => spadCheck s c (maskAccs s c) 4 true = none) storeMask

/-- Where they issue, aligned and with the release condition met, loads, stores, prefetches, atomics, reductions and fences start as R163, R165 and R167 to R171 give. -/
def Obligations.GlobalMemoryCompletes : Prop :=
  CompletesBoth .vld .vld .vldExt (fun c s => globalMis true c s = [] ∧ releaseHolds (.load false) c s = false) (startGlobal (.load false) true (fun _ => [])) ∧
  CompletesExt .vldw .vldw (fun c s => globalMis true c s = [] ∧ releaseHolds (.load false) c s = false) (startGlobal (.load false) true (fun _ => [])) ∧
  CompletesExt .vldb .vldb (fun c s => globalMis false c s = [] ∧ releaseHolds (.load false) c s = false) (startGlobal (.load false) false (fun _ => [])) ∧
  CompletesExt .vldnf .vldnf (fun c s => globalMis true c s = [] ∧ releaseHolds (.load true) c s = false) (startGlobal (.load true) true (fun _ => [])) ∧
  CompletesBoth .vst .vst .vstExt (fun c s => globalMis true c s = [] ∧ releaseHolds .store c s = false) (fun c s => startGlobal .store true (storeData c) c s) ∧
  CompletesExt .vstw .vstw (fun c s => globalMis true c s = [] ∧ releaseHolds .store c s = false) (fun c s => startGlobal .store true (storeData c) c s) ∧
  CompletesExt .vprf .vprf (fun c s => globalMis true c s = [] ∧ releaseHolds .prefetch c s = false) (startGlobal .prefetch true (fun _ => [])) ∧
  CompletesBoth .vaadd .vaadd .vaaddExt (fun c s => globalMis true c s = [] ∧ releaseHolds .atomic c s = false) (fun c s => startGlobal .atomic true (atomicData c s) c s) ∧
  CompletesExt .vamin .vamin (fun c s => globalMis true c s = [] ∧ releaseHolds .atomic c s = false) (fun c s => startGlobal .atomic true (atomicData c s) c s) ∧
  CompletesExt .vamax .vamax (fun c s => globalMis true c s = [] ∧ releaseHolds .atomic c s = false) (fun c s => startGlobal .atomic true (atomicData c s) c s) ∧
  CompletesExt .vaand .vaand (fun c s => globalMis true c s = [] ∧ releaseHolds .atomic c s = false) (fun c s => startGlobal .atomic true (atomicData c s) c s) ∧
  CompletesExt .vaor .vaor (fun c s => globalMis true c s = [] ∧ releaseHolds .atomic c s = false) (fun c s => startGlobal .atomic true (atomicData c s) c s) ∧
  CompletesExt .vaxor .vaxor (fun c s => globalMis true c s = [] ∧ releaseHolds .atomic c s = false) (fun c s => startGlobal .atomic true (atomicData c s) c s) ∧
  CompletesExt .vaxch .vaxch (fun c s => globalMis true c s = [] ∧ releaseHolds .atomic c s = false) (fun c s => startGlobal .atomic true (atomicData c s) c s) ∧
  CompletesExt .vacas .vacas (fun c s => globalMis true c s = [] ∧ releaseHolds .atomic c s = false) (fun c s => startGlobal .atomic true (atomicData c s) c s) ∧
  CompletesBoth .vradd .vradd .vraddExt (fun c s => globalMis true c s = [] ∧ releaseHolds .reduce c s = false) (fun c s => startGlobal .reduce true (reduceData c s) c s) ∧
  CompletesExt .vrmin .vrmin (fun c s => globalMis true c s = [] ∧ releaseHolds .reduce c s = false) (fun c s => startGlobal .reduce true (reduceData c s) c s) ∧
  CompletesExt .vrmax .vrmax (fun c s => globalMis true c s = [] ∧ releaseHolds .reduce c s = false) (fun c s => startGlobal .reduce true (reduceData c s) c s) ∧
  CompletesExt .vrbit .vrbit (fun c s => globalMis true c s = [] ∧ releaseHolds .reduce c s = false) (fun c s => startGlobal .reduce true (reduceData c s) c s) ∧
  CompletesExt .fence .fence always startFence

/-- Where they issue, traps, regions, trace and event instructions, and device-side launches act as R137 to R141 give; a trap's effect is to take it. -/
def Obligations.SystemCompletes : Prop :=
  CompletesExt .trap .trap always (fun c s => takeTrap s c 0x14 ((srcS s c 1).toNat % 2 ^ 16)) ∧
  CompletesExt .brk .brk always breakpoint ∧
  CompletesExt .rgn .rgn (fun c _ => ∃ sp, c.g.splits = [sp] ∧ sp.arms = []) enterRegion ∧
  CompletesExt .mark .mark always traceMark ∧
  CompletesExt .evt .evt always countEvent ∧
  CompletesExt .opt .opt always requestPoint ∧
  CompletesExt .prio .prio always setPrio ∧
  CompletesExt .launch .launch always askLaunch ∧
  CompletesExt .launchWait .launchWait always awaitLaunch

/-- Where they issue for the whole group and the array has room (R241), the array instructions enter the array order (R238) with what they have read. -/
def Obligations.MatrixArrayCompletes : Prop :=
  CompletesExt .mmac .mmac (fun c s => whole c s ∧ slotHeld s c.g.core c.f.sa.toNat c.g.slot = true ∧ slotHeld s c.g.core c.f.sb.toNat c.g.slot = true ∧
    macReady (fun bs => (macSlots c.f bs).all (fun o => slotHeld s c.g.core o c.g.slot && fdClear s c.g.core o)) s c) (fun c s => enterArray ((macSlots c.f (macBlocks s c)).dedup.map (fun o => 16 * c.g.core + o)) (macBlocks s c) [] c s) ∧
  CompletesExt .mmaci .mmaci (fun c s => whole c s ∧ arrayRoom s c = true ∧ c.f.d ≠ c.f.sa ∧ c.f.d ≠ c.f.sb) (fun c s => enterArray [] [] [] c s) ∧
  CompletesExt .mcbload .mcbload (fun c s => whole c s ∧ arrayRoom s c = true ∧ rangeCheck s c 4 true [((srcS s c 1).toNat, xferBytes c.f c.op)] = none) (fun c s => enterArray [] [] [BitVec.ofNat 64 (srcS s c 1).toNat] c s) ∧
  CompletesExt .msmx .msmx (fun c s => whole c s ∧ arrayRoom s c = true ∧ c.f.d.toNat / 2 = c.f.sa.toNat / 2 ∧ c.f.d ≠ c.f.sa) (fun c s => enterArray [] [] [] c s) ∧
  CompletesExt .msnorm .msnorm (fun c s => whole c s ∧ arrayRoom s c = true) (fun c s => enterArray [] [] [] c s) ∧
  CompletesExt .mst .mst (fun c s => whole c s ∧ arrayRoom s c = true ∧ rangeCheck s c 4 true [((srcS s c 1).toNat, xferBytes c.f c.op)] = none) (fun c s => enterArray [] [] [BitVec.ofNat 64 (srcS s c 1).toNat] c s) ∧
  CompletesExt .mld .mld (fun c s => whole c s ∧ arrayRoom s c = true ∧ rangeCheck s c 4 false [((srcS s c 1).toNat, xferBytes c.f c.op)] = none) (fun c s => enterArray [] [] [BitVec.ofNat 64 (srcS s c 1).toNat] c s) ∧
  CompletesExt .mzero .mzero (fun c s => whole c s ∧ arrayRoom s c = true) (fun c s => enterArray [] [] [] c s) ∧
  CompletesExt .mscale .mscale (fun c s => whole c s ∧ arrayRoom s c = true) (fun c s => enterArray [] [] [] c s) ∧
  CompletesExt .mtrans .mtrans (fun c s => whole c s ∧ arrayRoom s c = true) (fun c s => enterArray [] [] [] c s) ∧
  CompletesExt .mstat .mstat (fun c s => whole c s ∧ arrayRoom s c = true) (fun c s => enterArray [] [] [] c s) ∧
  CompletesExt .mcoef .mcoef (fun c s => whole c s ∧ arrayRoom s c = true) (fun c s => enterArray [] [] [coefValue c s] c s)

/-- Where they issue for the whole group, claims, releases and feeds start as R245 to R247 give, iterations as R251 and R252 give, and ganged instructions when the latch lets them (R230). -/
def Obligations.MatrixClaimsAndGangsComplete : Prop :=
  CompletesExt .mclaim .mclaim whole startClaim ∧
  CompletesExt .mrel .mrel (fun c s => whole c s ∧ (claimMask c s = 0 ∨ claimsHeld c s = true)) startRelease ∧
  CompletesExt .mfeed .mfeed (fun c s => whole c s ∧ slotHeld s c.g.core c.f.d.toNat c.g.slot = true ∧ feedBytes c s % 256 = 0 ∧ feedBytes c s ≤ 32768 ∧
    rangeCheck s c 4 false [((srcS s c 1).toNat, feedBytes c s)] = none ∧ fdClear s c.g.core c.f.d.toNat = true ∧
    rdClear s c.g.core c.f.d.toNat = true) startFeed ∧
  CompletesExt .mfeeda .mfeeda (fun c s => whole c s ∧ slotHeld s c.g.core c.f.d.toNat c.g.slot = true ∧ fdClear s c.g.core c.f.d.toNat = true ∧
    rdClear s c.g.core c.f.d.toNat = true) startFeeda ∧
  CompletesExt .mpoly .mpoly (fun c s => whole c s ∧ iterFault c s = none ∧ inGang (matAt s c.g.core) = false ∧ arrayRoom s c = true) enterIter ∧
  CompletesExt .miterG .miterG (fun c s => whole c s ∧ iterFault c s = none ∧ inGang (matAt s c.g.core) = false ∧ arrayRoom s c = true) enterIter ∧
  CompletesExt .miterS .miterS (fun c s => whole c s ∧ iterFault c s = none ∧ inGang (matAt s c.g.core) = false ∧ arrayRoom s c = true) enterIter ∧
  CompletesExt .mpoly .mpoly (fun c s => whole c s ∧ iterFault c s = none ∧ inGang (matAt s c.g.core) = true ∧ arrayRoom s c = true ∧ latchLets c s = true) (fun c s => clearLatch c (enterIter c s)) ∧
  CompletesExt .miterG .miterG (fun c s => whole c s ∧ iterFault c s = none ∧ inGang (matAt s c.g.core) = true ∧ arrayRoom s c = true ∧ latchLets c s = true) (fun c s => clearLatch c (enterIter c s)) ∧
  CompletesExt .miterS .miterS (fun c s => whole c s ∧ iterFault c s = none ∧ inGang (matAt s c.g.core) = true ∧ arrayRoom s c = true ∧ latchLets c s = true) (fun c s => clearLatch c (enterIter c s)) ∧
  CompletesExt .mgang .mgang (fun c s => whole c s ∧ mgangFault c s = none ∧ arrayRoom s c = true ∧ latchLets c s = true) (fun c s => clearLatch c (enterArray [] [] [BitVec.ofNat 64 (srcS s c 1).toNat] c s)) ∧
  CompletesExt .mgleave .mgleave (fun c s => whole c s ∧ gangState s c = none ∧ arrayRoom s c = true ∧ latchLets c s = true) (fun c s => clearLatch c (enterArray [] [] [] c s)) ∧
  CompletesExt .mgmac .mgmac (fun c s => whole c s ∧ gangState s c = none ∧ latchLets c s = true ∧
    macReady (fun bs => (gangReads s c bs).all (fun o => fdClear s (o / 16) (o % 16))) s c) (fun c s => clearLatch c (enterArray (gangReads s c (macBlocks s c)) (macBlocks s c) [] c s))

/-- Where they issue and R262 finds no fault, copies, fills and reductions enter their engine, and `xstat` and `xcancel` act as R270 gives; a copy of no bytes completes at once. -/
def Obligations.CopiesComplete : Prop :=
  CompletesExt .xcopy .xcopy (fun c s => copyFault c s = none ∧ copyTotal c s ≠ 0 ∧ cmdFits (copyCmd c s) (copyGuards c s) [] c s) (cmdEff copyCmd copyGuards (fun _ _ => [])) ∧
  CompletesExt .xcopy2 .xcopy2 (fun c s => copyFault c s = none ∧ copyTotal c s ≠ 0 ∧ cmdFits (copyCmd c s) (copyGuards c s) [] c s) (cmdEff copyCmd copyGuards (fun _ _ => [])) ∧
  CompletesExt .xcopy3 .xcopy3 (fun c s => copyFault c s = none ∧ copyTotal c s ≠ 0 ∧ cmdFits (copyCmd c s) (copyGuards c s) [] c s) (cmdEff copyCmd copyGuards (fun _ _ => [])) ∧
  CompletesExt .xgath .xgath (fun c s => copyFault c s = none ∧ copyTotal c s ≠ 0 ∧ cmdFits (copyCmd c s) (copyGuards c s) [] c s) (cmdEff copyCmd copyGuards (fun _ _ => [])) ∧
  CompletesExt .xscat .xscat (fun c s => copyFault c s = none ∧ copyTotal c s ≠ 0 ∧ cmdFits (copyCmd c s) (copyGuards c s) [] c s) (cmdEff copyCmd copyGuards (fun _ _ => [])) ∧
  CompletesExt .xfill .xfill (fun c s => copyFault c s = none ∧ copyTotal c s ≠ 0 ∧ cmdFits (copyCmd c s) (copyGuards c s) [] c s) (cmdEff copyCmd copyGuards (fun _ _ => [])) ∧
  CompletesExt .xred .xred (fun c s => copyFault c s = none ∧ copyTotal c s ≠ 0 ∧ cmdFits (copyCmd c s) (copyGuards c s) [] c s) (cmdEff copyCmd copyGuards (fun _ _ => [])) ∧
  CompletesExt .xcopy .xcopy (fun c s => copyFault c s = none ∧ copyTotal c s = 0) doneEff ∧
  CompletesExt .xfill .xfill (fun c s => copyFault c s = none ∧ copyTotal c s = 0) doneEff ∧
  CompletesExt .xred .xred (fun c s => copyFault c s = none ∧ copyTotal c s = 0) doneEff ∧
  CompletesExt .xslot .xslot (fun c s => xslotFault c s = none ∧ cmdFits (slotCmd c s) [] (slotSpan c s) c s) (cmdEff slotCmd (fun _ _ => []) slotSpan) ∧
  CompletesExt .xprf .xprf (fun c s => (srcS s c 2).toNat ≠ 0 ∧ (srcS s c 2).toNat ≤ 16777215 ∧ cmdFits (prfCmd c s) [] [] c s) (cmdEff prfCmd (fun _ _ => []) (fun _ _ => [])) ∧
  CompletesExt .xhand .xhand (fun c s => cmdFits (handCmd c s) [] [] c s) (cmdEff handCmd (fun _ _ => []) (fun _ _ => [])) ∧
  CompletesExt .xstat .xstat always (scalarEff 2 (fun c s => BitVec.ofNat 64 (xstatValue c s))) ∧
  CompletesExt .xcancel .xcancel always cancelCmds

/-- Where they issue and pass their checks, spiral, promise and link instructions start as R294, R309 and R331 give; a link instruction of no bytes completes at once. -/
def Obligations.SpiralPromiseLinkComplete : Prop :=
  CompletesExt .hdist .hdist (fun c s => spiralCount c s ≤ 1048576 ∧ (srcS s c 1).toNat + spiralCount c s ≤ 2 ^ 64 ∧ spiralSlot c s ≤ 2047) startSpiral ∧
  CompletesExt .hpin .hpin (fun c s => spiralCount c s ≤ 1048576 ∧ (srcS s c 1).toNat + spiralCount c s ≤ 2 ^ 64 ∧ spiralSlot c s ≤ 2047) startSpiral ∧
  CompletesExt .hunpin .hunpin (fun c s => spiralCount c s ≤ 1048576 ∧ (srcS s c 1).toNat + spiralCount c s ≤ 2 ^ 64 ∧ spiralSlot c s ≤ 2047) startSpiral ∧
  CompletesExt .hpre .hpre (fun c s => spiralCount c s ≤ 1048576 ∧ (srcS s c 1).toNat + spiralCount c s ≤ 2 ^ 64 ∧ spiralSlot c s ≤ 2047) startSpiral ∧
  CompletesExt .hdemote .hdemote (fun c s => spiralCount c s ≤ 1048576 ∧ (srcS s c 1).toNat + spiralCount c s ≤ 2 ^ 64 ∧ spiralSlot c s ≤ 2047) startSpiral ∧
  CompletesExt .hocc .hocc (fun c s => spiralCount c s ≤ 1048576 ∧ (srcS s c 1).toNat + spiralCount c s ≤ 2 ^ 64 ∧ spiralSlot c s ≤ 2047) startSpiral ∧
  CompletesExt .pmake .pmake (fun c s => (∀ x ∈ promiseCells c s, x < 2 ^ 48 ∧ x % 16 = 0) ∧ promiseHolds c s = false) startPromise ∧
  CompletesExt .pfill .pfill (fun c s => (∀ x ∈ promiseCells c s, x < 2 ^ 48 ∧ x % 16 = 0) ∧ promiseHolds c s = false) startPromise ∧
  CompletesExt .peq .peq (fun c s => (∀ x ∈ promiseCells c s, x < 2 ^ 48 ∧ x % 16 = 0) ∧ promiseHolds c s = false) startPromise ∧
  CompletesExt .pwait .pwait (fun c s => (∀ x ∈ promiseCells c s, x < 2 ^ 48 ∧ x % 16 = 0) ∧ promiseHolds c s = false) startPromise ∧
  CompletesExt .ppoll .ppoll (fun c s => (∀ x ∈ promiseCells c s, x < 2 ^ 48 ∧ x % 16 = 0) ∧ promiseHolds c s = false) startPromise ∧
  CompletesExt .pfind .pfind (fun c s => (∀ x ∈ promiseCells c s, x < 2 ^ 48 ∧ x % 16 = 0) ∧ promiseHolds c s = false) startPromise ∧
  CompletesExt .lput .lput (fun c s => linkCheck s c (srcS s c 1).toNat (sread c.g c.f.d.toNat).toNat (srcS s c 2) = none ∧ linkCount c s ≠ 0) startLink ∧
  CompletesExt .lget .lget (fun c s => linkCheck s c (srcS s c 1).toNat (sread c.g c.f.d.toNat).toNat (srcS s c 2) = none ∧ linkCount c s ≠ 0) startLink ∧
  CompletesExt .lallred .lallred (fun c s => linkCheck s c (srcS s c 1).toNat (sread c.g c.f.d.toNat).toNat (srcS s c 2) = none ∧ linkCount c s ≠ 0) startLink ∧
  CompletesExt .lallgat .lallgat (fun c s => linkCheck s c (srcS s c 1).toNat (sread c.g c.f.d.toNat).toNat (srcS s c 2) = none ∧ linkCount c s ≠ 0) startLink ∧
  CompletesExt .lredsc .lredsc (fun c s => linkCheck s c (srcS s c 1).toNat (sread c.g c.f.d.toNat).toNat (srcS s c 2) = none ∧ linkCount c s ≠ 0) startLink ∧
  CompletesExt .lbcast .lbcast (fun c s => linkCheck s c (srcS s c 1).toNat (sread c.g c.f.d.toNat).toNat (srcS s c 2) = none ∧ linkCount c s ≠ 0) startLink ∧
  CompletesExt .lput .lput (fun c s => linkCheck s c (srcS s c 1).toNat (sread c.g c.f.d.toNat).toNat (srcS s c 2) = none ∧ linkCount c s = 0) doneEff ∧
  CompletesExt .lget .lget (fun c s => linkCheck s c (srcS s c 1).toNat (sread c.g c.f.d.toNat).toNat (srcS s c 2) = none ∧ linkCount c s = 0) doneEff ∧
  CompletesExt .lallred .lallred (fun c s => linkCheck s c (srcS s c 1).toNat (sread c.g c.f.d.toNat).toNat (srcS s c 2) = none ∧ linkCount c s = 0) doneEff ∧
  CompletesExt .lallgat .lallgat (fun c s => linkCheck s c (srcS s c 1).toNat (sread c.g c.f.d.toNat).toNat (srcS s c 2) = none ∧ linkCount c s = 0) doneEff ∧
  CompletesExt .lredsc .lredsc (fun c s => linkCheck s c (srcS s c 1).toNat (sread c.g c.f.d.toNat).toNat (srcS s c 2) = none ∧ linkCount c s = 0) doneEff ∧
  CompletesExt .lbcast .lbcast (fun c s => linkCheck s c (srcS s c 1).toNat (sread c.g c.f.d.toNat).toNat (srcS s c 2) = none ∧ linkCount c s = 0) doneEff

/-- The words that the spec's encoding tables write out decode to the instructions they stand for (R58, R60, R62). -/
def Obligations.WrittenWordsDecode : Prop :=
  decodeWords [0x08606A80#32] = .ok (.vsts ⟨2, 6, 1, 0, 0⟩) 4 ∧
  decodeWords [0x0C706A00#32] = .ok (.vlds ⟨3, 7, 1, 0, 0⟩) 4 ∧
  decodeWords [0x20415988#32] = .ok (.vfma ⟨8, 4, 5, 0, 2⟩) 4 ∧
  decodeWords [0x04200920#32] = .ok (.qpush ⟨1, 2, 0, 2, 0⟩) 4 ∧
  decodeWords [0x1BFE818C#32] = .ok (.brZ ⟨6, 63, 58, 0, 3⟩) 4 ∧
  decodeWords [0x10400A01#32, 0x00008000#32, 0#32] = .ok (.saddExt (.lit ⟨4, 4, 0, 0, 0⟩ 32768)) 12 ∧
  decodeWords [0x00008402#32, 0#32, 0x00040000#32] = .ok (.trap ⟨0, 0, false, 0, 0, 2, 0, 0, 0, 0, 0, false, false, false, 0, 0, false, false, 0, 0, none⟩) 12 ∧
  decodeWords [0x0C806002#32, 0x01000000#32, 0x0E00DC0A#32] =
    .ok (.mmac ⟨0, 14, false, 0, 0, 0, 0xDC, 10, 1, 0, 0, false, false, false, 6, 4, false, false, 0, 0, none⟩) 12 ∧
  decodeWords [0x00207006#32, 0x05040200#32, 0#32] =
    .ok (.xcopy ⟨0, 0, false, 0, 0, 0, 0, 0, 5, 4, 2, false, false, false, 0, 1, false, false, 0, 1, none⟩) 12 ∧
  decodeWords [0x00407802#32, 0x00040500#32, 0#32] =
    .ok (.hdist ⟨0, 0, false, 0, 0, 0, 0, 0, 0, 4, 5, false, false, false, 0, 2, false, false, 0, 0, none⟩) 12 ∧
  decodeWords [0x00407D82#32, 0x00040600#32, 0x0000C000#32] =
    .ok (.pwait ⟨0, 0, false, 0, 0, 0, 0xC0, 0, 0, 4, 6, false, false, false, 0, 2, false, false, 0, 0, none⟩) 12 ∧
  decodeWords [0x00408102#32, 0x0A090800#32, 0x0B004803#32] =
    .ok (.lallred ⟨0, 11, false, 0, 0, 0, 0x48, 3, 10, 9, 8, false, false, false, 0, 2, false, false, 0, 0, none⟩) 12 ∧
  decodeWords [0x00000080#32] = .ok (.nop ⟨0, 0, 0, 0, 0⟩) 4 ∧
  decodeWords [0x00000000#32] = .bad 1 ∧
  decodeWords [] = .bad 7 ∧
  decodeWords [0x00000081#32, 0#32] = .bad 7

/-- For every instruction term that no decode check refuses, decoding the words that encode it gives it back with their length, whatever words follow (R58, R60, R62). -/
def Obligations.DecodeOfEncode : Prop :=
  ∀ i ws rest, wellFormed i = true → encode i = some ws → decodeWords (ws ++ rest) = .ok i (4 * ws.length)

/-- Whatever decodes is well formed, and its encoding is the words it was read from: no two words of one length decode to one instruction (R58, R60, R62). -/
def Obligations.EncodeOfDecode : Prop :=
  ∀ ws i n, decodeWords ws = .ok i n →
    wellFormed i = true ∧ ∃ k, n = 4 * k ∧ k ≤ ws.length ∧ encode i = some (ws.take k)

/-- An opcode that the map leaves unassigned decodes to nothing, whatever its other fields hold: cause 1 (R78). Where the words at the program counter begin with one, the step raises the illegal-instruction trap with cause 1 and the instruction does not issue. That the record's LANES are the split's whole mask is the model's choice (DEDUCED, log 67). -/
def Obligations.UnassignedOpcodesTrap : Prop :=
  (∀ n, n < 512 → (opOfCode n = none ↔ n = 0 ∨ 0x06D ≤ n ∧ n ≤ 0x07F ∨ 0x09E ≤ n ∧ n ≤ 0x09F ∨ 0x0AA ≤ n ∧ n ≤ 0x0BF ∨
    0x0D6 ≤ n ∧ n ≤ 0x0DF ∨ 0x0EC ≤ n ∧ n ≤ 0x0EF ∨ 0x0F6 ≤ n ∧ n ≤ 0x0F7 ∨ 0x0FE ≤ n ∧ n ≤ 0x0FF ∨
    0x106 ≤ n ∧ n ≤ 0x107 ∨ 0x110 ≤ n)) ∧
  (∀ ws n w, parseWords ws = some (n, w) → opOfCode n = none → decodeWords ws = .bad 1) ∧
  (∀ (u : Nat × Nat) rest s core pc n w g sp, s.boot = .released → s.stage = 2 → s.issueQ = u :: rest →
    curPc (takeTurn s u rest) = some (core, pc) →
    parseWords (fetchWords (takeTurn s u rest) core pc) = some (n, w) → opOfCode n = none →
    curSplit (takeTurn s u rest) = some (g, sp) →
    delivered (bareCtx (takeTurn s u rest) g sp) = true →
    step s = .next (raiseAt (takeTurn s u rest) (bareCtx (takeTurn s u rest) g sp) 0x01 1 sp.mask 0))

/-- Once the compute dies are released and a group's turn to issue has come, a step fetches at the program counter of the group's split, decodes and runs the instruction (R58): it is `exec` of it, at the state in which the turn has been taken from the list, with the data-error fault added where the instruction has read a store that holds an error (R159, R379); with no such error it is `exec` and nothing else. That issues are taken in a stage of their own, that an event that is due is one step between turns, and the order of a clk's stages are the model's choice (DEDUCED, logs 3 and 5). -/
def Obligations.StepRunsTheDecodedInstruction : Prop :=
  (∀ (u : Nat × Nat) rest s core pc i n, s.boot = .released → s.stage = 2 → s.issueQ = u :: rest →
    curPc (takeTurn s u rest) = some (core, pc) →
    decodeWords (fetchWords (takeTurn s u rest) core pc) = .ok i n →
    step s = (match exec i (takeTurn s u rest) with
      | .next t => .next (noteHurt (takeTurn s u rest) t)
      | o => o) ∧
    (s.soft = [] → step s = exec i (takeTurn s u rest))) ∧
  (∀ s e s1, s.boot = .released → (s.stage ≠ 2 ∨ s.issueQ = []) → pick s = some (e, s1) → step s = exec (instrOfEvent e) s1) ∧
  (∀ s, s.boot = .released → (s.stage ≠ 2 ∨ s.issueQ = []) → pick s = none → step s = .next (advance meanings s))

/-- No instruction and no step is refused, and an instruction stops only where no group and split stand to issue it. -/
def Obligations.NothingIsRefused : Prop :=
  (∀ i s r, exec i s ≠ .refused r) ∧ (∀ s r, step s ≠ .refused r) ∧
  (∀ i s f, exec i s = .fault f → f = .noIssuingGroup ∧ curSplit s = none)

/-- An instruction whose words have not been delivered, or whose distance, flags or predicate register do not let it issue, changes nothing but the scheduling field that says so (R72). -/
def Obligations.HeldInstructionsChangeNothing : Prop :=
  ∀ i o w s g sp, instrWord i = some (o, w) →
    (curSplit s = some (g, sp) → delivered (ctxOf o w s g sp) = false → exec i s = .next { s with turn := .held }) ∧
    (Offers o w s g sp → notReady s (ctxOf o w s g sp) (fieldsOf o w) = true → exec i s = .next { s with turn := .held })

/-- An instruction with an empty selected set still issues, and its own effect does not take place: what issuing itself does is all (its SETF flag is taken over, its split moves past its words, an `.rsr` instruction steps %seed and sets NR: R49, R196), and it completes in the clk in which it issues (R63, R64). That it needs no free unit is the model's choice (DESIGN CHOICE, log 80). -/
def Obligations.EmptySelectionDoesNothing : Prop :=
  ∀ i o w s g sp, instrWord i = some (o, w) → Ready o w s g sp → (ctxOf o w s g sp).sel = 0 →
    exec i s = .next (afterIssue (finishAt (beginIssue s (ctxOf o w s g sp)) (ctxOf o w s g sp) 1) (ctxOf o w s g sp))

/-- A decode check that fails raises the illegal-instruction trap with its cause at the instruction, whatever its predicate selects: no flag is cleared, no register is marked and nothing issues (R79). -/
def Obligations.DecodeChecksTrap : Prop :=
  ∀ i o w s g sp, instrWord i = some (o, w) → curSplit s = some (g, sp) → delivered (ctxOf o w s g sp) = true →
    (∀ k, illegalCause o w = some k → exec i s = .next (raiseAt s (ctxOf o w s g sp) 0x01 k (ctxOf o w s g sp).sel 0)) ∧
    (illegalCause o w = none → cause6 s g o (fieldsOf o w).e = true →
      exec i s = .next (raiseAt s (ctxOf o w s g sp) 0x01 6 (ctxOf o w s g sp).sel 0))

/-- In the clk in which it would otherwise issue, with a non-empty selected set, an instruction that its group's role or its ring's role does not allow raises the role fault (R23, R26, R136), and one that finds a trap-on-empty source empty the empty-register fault (R75), the role first; neither issues, clears a flag or marks a register. What roles may issue: one instruction of each class of the table of R23. -/
def Obligations.RoleAndRegisterFaults : Prop :=
  (∀ i o w s g sp, instrWord i = some (o, w) → Ready o w s g sp → (ctxOf o w s g sp).sel ≠ 0 →
    (roleAllows g.role o && ringRoleOk s g o (fieldsOf o w).e) = false →
    exec i s = .next (raiseAt s (ctxOf o w s g sp) 0x02 0 (ctxOf o w s g sp).sel 0)) ∧
  (∀ i o w s g sp, instrWord i = some (o, w) → Ready o w s g sp → (ctxOf o w s g sp).sel ≠ 0 →
    (roleAllows g.role o && ringRoleOk s g o (fieldsOf o w).e) = true →
    (trapRegs o (fieldsOf o w).e).any (isEmptyReg g) = true →
    exec i s = .next (raiseAt s (ctxOf o w s g sp) 0x03 0 (ctxOf o w s g sp).sel 0)) ∧
  (∀ r o, o ∈ [Op.nop, .br, .exit, .sadd, .sdiv, .slea, .barArrive, .barDrop, .barWait, .qpush, .qpop, .trap, .rgn, .gstat] → roleAllows r o = true) ∧
  (∀ r o, o ∈ [Op.callv, .migrate, .vaddS32, .vfma, .vcvt, .vshfl, .vexp2, .vld, .vst, .vlds, .vsts, .fence, .vaadd, .vradd, .pmake, .pwait] →
    (roleAllows r o = true ↔ r = .vector)) ∧
  (∀ r o, o ∈ [Op.mmac, .mfeed, .mclaim, .mstat] → (roleAllows r o = true ↔ r = .matrix)) ∧
  (∀ r o, o ∈ [Op.xcopy, .xfill, .xhand] → (roleAllows r o = true ↔ r = .copy)) ∧
  (∀ r o, o ∈ [Op.hdist, .hocc, .lput, .lbcast] → (roleAllows r o = true ↔ r = .vector ∨ r = .copy))

/-- Whatever an attempt to issue does, the vector, scalar and mask registers and the special registers of every group, %seed included, stay as they are: results and the step of %seed arrive later, by the writes of R73 and R74. The exception is the model's own: where the pages of a `vldnf` are known as it issues, the lanes of its destinations that receive nothing and its mask kC are written at once, while R167 makes kC full with D; kC and D are owned until then, and every other register stays as it is. -/
def Obligations.IssueKeepsRegisters : Prop :=
  (∀ i o w s t, instrWord i = some (o, w) → exec i s = .next t → o ≠ .vldnf → sameRegs s t) ∧
  (∀ i w s t g sp, instrWord i = some (.vldnf, w) → curSplit s = some (g, sp) → exec i s = .next t →
    (∀ u, u ≠ g.uid → (groupAt? t u).map regsOf = (groupAt? s u).map regsOf) ∧
    ∃ g', groupAt? t g.uid = some g' ∧ g'.s = g.s ∧ g'.rgn = g.rgn ∧ g'.mcap = g.mcap ∧ g'.mres = g.mres ∧ g'.seed = g.seed ∧
      (∀ r, ⟨.k, r⟩ ∉ destRegs .vldnf (ctxOf .vldnf w s g sp).f → kread g' r = kread g r) ∧
      (∀ r l, l < 32 → ⟨.v, r⟩ ∉ destRegs .vldnf (ctxOf .vldnf w s g sp).f → vread g' r l = vread g r l))

/-- Whatever an attempt to issue does, every byte of device memory and of the code stores stays as it is: stores and atomics are performed at their homes (R163, R166). The exception is `mark`, whose record of 32 bytes is written at once, at TRBASE + 32 × (TRCNT mod TRN) of its context's service block and nowhere else (R141, R340). -/
def Obligations.IssueKeepsMemory : Prop :=
  (∀ i o w s t, instrWord i = some (o, w) → exec i s = .next t → o ≠ .mark → sameBytes s t) ∧
  (∀ i w s t, instrWord i = some (.mark, w) → exec i s = .next t → t.codes = s.codes ∧
    ∀ a, (∀ g sp v k, curSplit s = some (g, sp) → groupVd? s g = some v → (vdAt s v).trn ≠ 0 → k < 32 →
      a ≠ ((vdAt s v).trbase + 32 * ((vdAt s v).trcnt % (vdAt s v).trn) + k) % 2 ^ 48) → readByte t.mem a = readByte s.mem a)

/-- Whatever an attempt to issue does, every scratchpad stays as it is, but for the scratchpad stores, and so do the operand slots, accumulators, codebooks, row maxima and sums and the coefficients of every matrix engine: the array changes them when an instruction completes (R160, R238). -/
def Obligations.IssueKeepsLocalStores : Prop :=
  ∀ i o w s t, instrWord i = some (o, w) → exec i s = .next t → (o ≠ .vsts → o ≠ .vstsw → o ≠ .vstk → sameSpads s t) ∧ sameEngines s t

/-- Promotion (R97), the ends of a `yield`, a `sleep` and a departure window (R118, R119, R177), the callee queues (R99, R100), migration (R101), counted arrivals (R131), `launch.wait` (R138) and the end of a group (R117): each acts as its rule gives once its condition holds. -/
def Obligations.GroupStepsComplete : Prop :=
  (∀ u s, exec (.splitPromote u) s = .next (updGroup s u promote)) ∧
  (∀ u s g, groupAt? s u = some g → g.yieldUntil < coreClk s g.core →
    exec (.yieldEnd u) s = .next (updGroup s u (fun x => { x with yieldUntil := 0 }))) ∧
  (∀ u s g dl op, groupAt? s u = some g → g.sleep = some (dl, op) → dl ≤ timeNs s →
    ∃ t g', exec (.sleepDeadline u) s = .next t ∧ groupAt? t u = some g' ∧ g'.sleep = none ∧ regsOf g' = regsOf g) ∧
  (∀ u p s g f q o, groupAt? s u = some g →
    s.flights.find? (isCallvOf u p) = some f →
    f.work = .callv q o 0 → exec (.callvEnqueue u p) s = .next (enqueueLanes f g (lanesOf o) s o 0)) ∧
  (∀ u s g q, groupAt? s u = some g → g.callee = true → g.splits = [] →
    fullestQueue (coreAt s g.core).queues g.team = some q → exec (.calleeTake u) s = .next (takeItems s u g q)) ∧
  (∀ u s g f k d sc c, groupAt? s u = some g →
    s.flights.find? (isMigrateOf u) = some f →
    migrateDone s f = false → migrateReady s g = true → f.vals = [d, sc, c] →
    ((List.range 6).map (fun k => physCore s (groupCtx s g) d.toNat sc.toNat c.toNat k)).find?
      (fun k => (freeSlot s k []).any (genFree s k) && regRoom s k (groupRegs s g)) = some k →
    exec (.migrateMove u) s = .next (moveGroup s u g f k)) ∧
  (∀ u s g f, groupAt? s u = some g → s.flights.find? (isMigrateOf u) = some f → migrateDone s f = true →
    exec (.migrateMove u) s = .next (completeFlight s f)) ∧
  (∀ op s f g key, flightAt? s op = some f → arrivalReady s f = true → f.work = .arrive key → groupAt? s f.uid = some g → key < 16 →
    exec (.arrivalCounted op) s = .next (delFlight (updBar s g.team key (fun x => { x with count := x.count + 1 })) op)) ∧
  (∀ op s f g key, flightAt? s op = some f → arrivalReady s f = true → f.work = .arrive key → groupAt? s f.uid = some g → 16 ≤ key →
    exec (.arrivalCounted op) s = .next (delFlight (updOuter s g key (fun x => { x with count := x.count + 1 })) op)) ∧
  (∀ u s g, groupAt? s u = some g → groupOver s g = true → exec (.groupEnd u) s = .next (endGroup s u g)) ∧
  (∀ u s g, groupAt? s u = some g → departureOver s g = true →
    exec (.departureWindowEnd u) s = .next (updGroup s u (fun g => { g with depart := none }))) ∧
  (∀ op s f id, flightAt? s op = some f → launchWaitReady s f = true → f.work = .launchWait id →
    exec (.launchWaitDone op) s = .next (completeWith s f (launchWord id (((launchAt? s id).map (·.status)).getD 0))))

/-- Replies of loads and atomics (R74), scratchpad completions (R161), acknowledgements (R176), fences (R169) and page-table walks (R353) act as their rules give once they are ready. That the lines of other modules which a `.dram` fence writes back go there as stores of no bytes (DESIGN CHOICE, log 85), and that a walk adds its page to those known and drops none (log 27), are the model's choices. -/
def Obligations.MemoryStepsComplete : Prop :=
  (∀ id s r op k, reqAt? s id = some r → loadReplyReady s r = true → r.lost = false → r.src = .core op k → asksSpiral r.ask = false →
    exec (.loadReply id) s = .next (coreReply s r)) ∧
  (∀ op s f, flightAt? s op = some f → f.mems ≠ [] →
    exec (.spadAccessComplete op) s = .next (putSpad (updFlight s op (fun f => { f with mems := [] })) f.at2 f.mems)) ∧
  (∀ op s f, flightAt? s op = some f → f.mems = [] → f.vals = [] →
    exec (.spadAccessComplete op) s = .next (completeFlight (updGroup s f.uid (fun g =>
      f.data.foldl (fun g p => ownWrite g op (p.1 / 32) (p.1 % 32) (p.2.setWidth 32)) g)) f)) ∧
  (∀ id s r, reqAt? s id = some r → homeAcked s r = true → exec (.storeAck id) s = .next (takeAck s r)) ∧
  (∀ id s r op k f, reqAt? s id = some r → homeAcked s r = false → storeAckReady s r = true → r.src = .core op k → flightAt? s op = some f →
    exec (.storeAck id) s = .next (completeFlight s f)) ∧
  (∀ op s f, flightAt? s op = some f → fenceReady s f = true → opxPol f.f ≠ 3 → exec (.fenceComplete op) s = .next (completeFlight s f)) ∧
  (∀ op s f g, flightAt? s op = some f → fenceReady s f = true → opxPol f.f = 3 → groupAt? s f.uid = some g →
    (∀ l ∈ g.wrote, lineModule l = s.module) → exec (.fenceComplete op) s =
      .next (completeFlight (updGroup ((g.wrote.map localLine).foldl writeBack s) f.uid (fun g => { g with wrote := [] })) f)) ∧
  (∀ op s f g, flightAt? s op = some f → fenceReady s f = true → opxPol f.f = 3 → groupAt? s f.uid = some g →
    (∃ l ∈ g.wrote, lineModule l ≠ s.module) → exec (.fenceComplete op) s =
      .next (updGroup (performDeep s f g.wrote) f.uid (fun g => { g with wrote := [] }))) ∧
  (∀ id s w r e, s.walks.find? (fun w => w.id == id) = some w → reqAt? s w.req = some r → walkReady s w = true →
    walkEntry s w.part w.va w.level (dataNat r.data (walkAddr w.table w.va w.level % 128) 8) = .leaf e →
    exec (.pageTableWalkComplete id) s = .next (endWalk { delReq s r.id with tlb := (delReq s r.id).tlb ++ [e] } w none))

/-- Claims and releases of operand slots (R215, R216), starts and completions of the array (R238), of feeds (R246, R247) and of iteration phases (R251), and the rendezvous latch (R230) act as their rules give once they are ready. -/
def Obligations.MatrixStepsComplete : Prop :=
  (∀ core s, exec (.slotClaimTake core) s = .next ((claimsWaiting s core).foldl takeClaim s)) ∧
  (∀ op s f g mask, flightAt? s op = some f → f.work = .release mask → groupAt? s f.uid = some g → releaseSlotsReady s f = true →
    exec (.slotRelease op) s = .next (completeFlight (updMat s g.core (fun m =>
      { m with claims := (maskSlots mask).foldl (fun cl o => mset 0 o 0 cl) m.claims })) f)) ∧
  (∀ core s f, (matAt s core).queue.head?.bind (flightAt? s) = some f → arrayStartReady s core = true →
    exec (.arrayStart core) s = .next (startArray s core f)) ∧
  (∀ core s f, (matAt s core).queue.head?.bind (flightAt? s) = some f → (matAt s core).running = true → isIterOp f.op = false →
    exec (.arrayComplete core) s = .next (leaveArray (arrayEffect s core f) core f)) ∧
  (∀ core s f, (matAt s core).queue.head?.bind (flightAt? s) = some f → (matAt s core).running = true → isIterOp f.op = true →
    exec (.arrayComplete core) s =
      .next (leaveArray (updMat s core (fun m => { m with loop := { m.loop with kind := 0 } })) core f)) ∧
  (∀ op s f, flightAt? s op = some f →
    exec (.mfeedComplete op) s = .next (completeFlight (addFd s (flightCore s f) f.f.d.toNat false) f)) ∧
  (∀ op s f, flightAt? s op = some f →
    exec (.mfeedaComplete op) s = .next (completeFlight (addFd (updMat s (flightCore s f) (fun m =>
      { m with slots := msetAll 0 (f.mems.map (fun p => (32768 * f.f.d.toNat + p.1, p.2))) m.slots })) (flightCore s f) f.f.d.toNat false) f)) ∧
  (∀ core s f, (matAt s core).queue.head?.bind (flightAt? s) = some f → (matAt s core).running = true → (matAt s core).loop.kind ≠ 0 →
    exec (.iterationPhaseEnd core) s = .next (endPhase s core f)) ∧
  (∀ core s, latchReady s core = true → latchMismatch s ((latchCores s core).filterMap (partner? s (latchOp s core))) = none →
    exec (.gangRendezvous core) s = .next (letGang s (latchCores s core))) ∧
  (∀ core s k, latchReady s core = true → latchMismatch s ((latchCores s core).filterMap (partner? s (latchOp s core))) = some k →
    exec (.gangRendezvous core) s = .next (latchFault s (latchOp s core) (latchCores s core) k.1 k.2)) ∧
  (∀ core s, latchLate s core = true →
    exec (.gangTimeout core) s = .next (latchFault s (latchOp s core) (latchCores s core) 0x25 (matAt s core).gang.seq))

/-- Copy commands start, move blocks, land, push their hand-off and complete as R259, R161, R269 and R272 give, and a group of an aborted command stops with fault 0x42 (R274). -/
def Obligations.CopyStepsComplete : Prop :=
  (∀ id s c, cmdAt? s id = some c → cmdStartReady s c = true →
    exec (.copyCommandStart id) s = .next (updCmd s id (fun c => { c with phase := .started }))) ∧
  (∀ eng s c, nextBlock s eng = some c → blockMissing s c = [] → (cmdPages s c).find? (fun p => (pageFailed c p.1).isSome) = none →
    (cmdPages s c).find? (pageForbids s c) = none → exec (.copyBlock eng) s = .next (takeBlock (markEngine s eng c) c)) ∧
  (∀ core s l, nextLanding s core = some l → landingTurn s core = true → exec (.copyLanding core) s = .next (landBlock s core l)) ∧
  (∀ id s c, cmdAt? s id = some c → cmdDone c = true → c.phase ≠ .reading → (isLinkOp c.op = false ∨ c.op = .lput ∨ c.op = .lget) →
    exec (.copyComplete id) s = .next (freeCmd s c)) ∧
  (∀ id s c, cmdAt? s id = some c → cmdDone c = true → c.phase = .reading →
    exec (.copyComplete id) s = .next (collRead (freeCmd s c) c.id)) ∧
  (∀ id s c, cmdAt? s id = some c → cmdDone c = true → c.phase ≠ .reading → isLinkOp c.op = true → c.op ≠ .lput → c.op ≠ .lget →
    exec (.copyComplete id) s = .next (collWritten (freeCmd s c) c.id)) ∧
  (∀ id s c, cmdAt? s id = some c → xhandReady s c = true →
    exec (.xhandPush id) s = .next (freeCmd (updRing s c.team c.f.d.toNat (fun r => ringPush r c.value)) c)) ∧
  (∀ u s g d pc a m rest sp, groupAt? s u = some g → g.aborts = (d, pc, a, m) :: rest → firstSplit g = some sp →
    exec (.copyAbortFault u) s = .next (raiseFault (updGroup s u (fun g => { g with aborts := rest })) u
      (mkEntry 0x42 d m a pc sp.place sp.stamp (s.opCount + 1) sp.pc)))

/-- Fronts accept and serve requests (R282), lookup waves find tiles (R284), tiles land and leave (R283, R287), sharers drop and update their copies (R288, R289), leases are renewed and expire (R177, R178), and homes change (R188): each acts as its rule gives once its condition holds. -/
def Obligations.SpiralStepsComplete : Prop :=
  (∀ id s r, reqAt? s id = some r → r.away = true → awayReady s r = true → exec (.frontAccept id) s = .next (sendAway s r)) ∧
  (∀ id s r, reqAt? s id = some r → r.away = false →
    (armAt s r.arm).forwards.find? (fun f => f.block == localLine r.line / 512 && r.arm == r.home) = none →
    exec (.frontAccept id) s = .next (enterFront s id r)) ∧
  (∀ arm s, exec (.frontServe arm) s = .next (updArm (serveNext (serveNext s arm) arm) arm (fun a => { a with served := true }))) ∧
  (∀ id s r t, reqAt? s id = some r → tileAt? (armAt s r.arm) (r.line / 8) = some t →
    exec (.waveFind id) s = .next (actPresent s r.arm r t)) ∧
  (∀ id s r, reqAt? s id = some r → tileAt? (armAt s r.arm) (r.line / 8) = none →
    exec (.waveFind id) s = .next (resumeReq s r.arm r)) ∧
  (∀ arm tile s target, motionOf? (armAt s arm) tile = some (.travel target) →
    exec (.tileLand arm tile) s = .next (landed (updArm s arm (fun a =>
      { endMotion (moveTile a tile target) tile with inserted := true })) arm tile)) ∧
  (∀ arm tile s target owner copy, motionOf? (armAt s arm) tile = some (.fetch target owner copy) →
    inMotion (armAt (landTile s arm tile target owner copy) arm) tile = false →
    exec (.tileLand arm tile) s = .next (landed (landTile s arm tile target owner copy) arm tile)) ∧
  (∀ arm tile s target owner copy, motionOf? (armAt s arm) tile = some (.fetch target owner copy) →
    inMotion (armAt (landTile s arm tile target owner copy) arm) tile = true →
    exec (.tileLand arm tile) s = .next (landTile s arm tile target owner copy)) ∧
  (∀ arm tile id s r, reqAt? s id = some r → exec (.memoryReply arm tile id) s = .next (setReply s r 24)) ∧
  (∀ arm tile s w t, motionOf? (armAt s arm) tile = some (.leave w 0) → tileAt? (armAt s arm) tile = some t →
    (inSlot t = false ∨ (armAt s arm).removed = false) →
    exec (.tileLeaveComplete arm tile) s = .next (goneTile (leaveErrors (foldHorizons s arm t) t) arm t)) ∧
  (∀ arm tile s w h t target owner copy, motionOf? (armAt s arm) tile = some (.leave w (h + 1)) → tileAt? (armAt s arm) tile = some t →
    (inSlot t = false ∨ ((armAt s arm).removed = false ∧ (armAt s arm).inserted = false)) →
    motionOf? (armAt s arm) h = some (.fetch target owner copy) →
    exec (.tileLeaveComplete arm tile) s = .next (inherit (leaveErrors (foldHorizons s arm t) t) arm t h target owner copy)) ∧
  (∀ arm line sector s, (∀ w h, motionOf? (armAt s arm) (line / 8) ≠ some (.leave w h)) → sector / 3 = armDie arm →
    sharesAgain s arm line sector = false →
    exec (.sharerDropAck arm line sector) s = .next (updArm s arm (fun a => updTileLine a line (fun l =>
      { l with sharers := l.sharers &&& ~~~(sharerBit (armSector arm) sector) })))) ∧
  (∀ arm line sector s w h, motionOf? (armAt s arm) (line / 8) = some (.leave w h) →
    dropsLeft (unshare s arm line sector) arm (line / 8) = true →
    exec (.sharerDropAck arm line sector) s = .next (unshare s arm line sector)) ∧
  (∀ arm line sector s h, motionOf? (armAt s arm) (line / 8) = some (.leave false h) →
    dropsLeft (unshare s arm line sector) arm (line / 8) = false →
    exec (.sharerDropAck arm line sector) s =
      .next (afterClk (unshare s arm line sector) (armDie arm) 0 3 (.tileLeaveComplete arm (line / 8)))) ∧
  (∀ id s u t, s.updates.find? (fun u => u.id == id) = some u → inMotion (armAt s u.arm) (u.line / 8) = false → olderUpdate s u = false →
    s.reqs.any (fun r => copyUnderWay r u.line && r.sector == u.sector) = false → u.drop = false →
    tileAt? (armAt s u.arm) (u.line / 8) = some t → t.copy = true → (tileLine t u.line).valid = true →
    tagNewer u.tag (tileLine t u.line).tag = true →
    exec (.writeUpdateWords id) s = .next (updArm (takeUpdate s u) u.arm (fun a =>
      updTileLine a u.line (fun l => { l with tag := u.tag, data := msetAll 0 u.bytes (tileLine t u.line).data, poison :=
        u.poison || (l.poison && !((List.range 128).all (fun i => u.bytes.any (fun p => p.1 == i)))) })))) ∧
  (∀ id s u t, s.updates.find? (fun u => u.id == id) = some u → inMotion (armAt s u.arm) (u.line / 8) = false → olderUpdate s u = false →
    s.reqs.any (fun r => copyUnderWay r u.line && r.sector == u.sector) = false → u.drop = true →
    tileAt? (armAt s u.arm) (u.line / 8) = some t → t.copy = true →
    exec (.writeUpdateWords id) s = .next (afterClk (updArm (takeUpdate s u) u.arm (fun a =>
      updTileLine a u.line (fun l => { l with valid := false, expiry := none }))) (armDie u.home)
        (1 + transitClk (armSector u.arm) (armSector u.home)) 3 (.sharerDropAck u.home u.line u.sector))) ∧
  (∀ id s r core, reqAt? s id = some r → r.src = .host core → r.stay = false → r.words = none → mfind r.line s.hostCopies = none →
    r.renew = none → exec (.copyTileReply id) s =
      .next { updReq s id (fun x => { x with copy := false, nest := copyHome s r + 1 }) with
        hostCopies := mput r.line { LineSt.clean with valid := true, tag := r.tag, data := r.data, expiry := r.lease, poison := r.poison }
          s.hostCopies }) ∧
  (∀ id s r, reqAt? s id = some r → (∀ core, r.src ≠ .host core) → r.stay = false →
    exec (.copyTileReply id) s = .next (bringWords (openNest (updReq s id (fun x =>
      { x with copy := false, nest := copyHome s r + 1 })) (copyHome s r) r) (copyHome s r) r)) ∧
  (∀ id s r, reqAt? s id = some r → exec (.leaseRenewal id) s = .next (bringWords (updReq s id (fun x =>
    { x with copy := false, nest := copyHome s r + 1, renew := none })) (copyHome s r) r)) ∧
  (∀ arm line s t e, tileAt? (armAt s arm) (line / 8) = some t → (tileLine t line).expiry = some e → e ≤ timeNs s + guardNs s line →
    exec (.leaseExpiry arm line) s = .next (updArm s arm (fun a => updTileLine a line (fun l => { l with valid := false })))) ∧
  (∀ block toArm s, homeArm s (mget 0 block s.owners % 16) (2 ^ 16 * block) ≠ toArm →
    (armAt s (homeArm s (mget 0 block s.owners % 16) (2 ^ 16 * block))).forwards.length < 64 →
    exec (.homeChange block toArm) s = .next (moveHome s block toArm
      (homeArm s (mget 0 block s.owners % 16) (2 ^ 16 * block)) (mget 0 block s.owners % 16))) ∧
  (∀ arm block s f, (armAt s arm).forwards.find? (fun f => f.block == block) = some f → blockTiles s arm block = [] →
    inFlightAt s arm block = false → exec (.forwardEntryFree arm block) s = .next (freeForward s arm block f))

/-- Promise operations go on from the cell visited, halving writes and lock requests are served, and wakes are sent and arrive, as R306, R307, R310 and R311 give. -/
def Obligations.PromiseStepsComplete : Prop :=
  (∀ op s f r, flightAt? s op = some f → s.reqs.find? (fun r => r.op == op && promReady s r) = some r →
    exec (.promiseVisit op) s = .next (promStep s f r)) ∧
  (∀ id s r x, reqAt? s id = some r → nextServed s r.arm = some x → x.id = id →
    exec (.promiseCasParent id) s =
      .next (updArm (serveNext (serveOne s r.arm id) r.arm) r.arm (fun a => { a with served := true }))) ∧
  (∀ cell s p r, lockFree s cell = true → s.lockq.find? (fun p => p.1 == cell) = some p →
    reqAt? { s with lockq := s.lockq.filter (fun q => q.2 != p.2) } p.2 = some r →
    exec (.promiseLockGrant cell) s = .next (serveOne { s with lockq := s.lockq.filter (fun q => q.2 != p.2) } r.arm r.id)) ∧
  (∀ cell s w, s.wakes.find? (fun w => w.cell == cell && !w.sent) = some w → exec (.promiseWakeSend cell) s = .next (sendWake s w)) ∧
  (∀ id s w g f, s.wakes.find? (fun w => w.id == id) = some w →
    s.groups.find? (fun g => g.core == w.w.core && g.slot == w.w.slot &&
      groupCtx { s with wakes := s.wakes.filter (fun x => x.id != id) } g == w.w.ctx) = some g →
    s.flights.find? (fun f => f.uid == g.uid && f.op == .pwait && f.step == .waiting && f.at2 == w.w.gen) = some f → f.gen = g.gen →
    exec (.promiseWakeArrive id) s = .next (completeWith (updGroup { s with wakes := s.wakes.filter (fun x => x.id != id) } g.uid
      (fun g => { g with horizon := max g.horizon w.ct })) f w.value))

/-- Frames, link failures and collectives (R324, R329, R334), the signal of `lput` (R332), host-die and PCIe accesses (R326, R327) and the agreement on time (R371) act as their rules give. A frame that asks for a retry has the number that the next frame awaited has (logs 46 and 47), a PCIe read goes to the partition of the block it reads (log 50), a collective is judged late only once a frame sent at its deadline could have arrived (log 98), and a signal whose word lies in two lines is added in two parts, the low one first (log 89): all the model's choices. -/
def Obligations.FabricStepsComplete : Prop :=
  (∀ l f s, (s.links.getD l LinkSt.none_).up = true → f.crcOk = true → (∀ n, f.body ≠ .again n) → f.seq = (s.links.getD l LinkSt.none_).rx →
    exec (.linkFrameReceive l f) s = .next (takeFrame { s with
      links := (s.links.modify l (acceptedUpTo f.acc)).modify l (fun x =>
        { x with rx := x.rx + 1, retries := 0, asked := false }) } f)) ∧
  (∀ l f s n, (s.links.getD l LinkSt.none_).up = true → f.crcOk = true → f.body = .again n → (s.links.getD l LinkSt.none_).resends < 16 →
    exec (.linkFrameReceive l f) s = .next { s with links := (s.links.modify l (acceptedUpTo f.acc)).modify l (sendAgain s.module n) }) ∧
  (∀ l f s, (s.links.getD l LinkSt.none_).up = true → f.crcOk = false → (s.links.getD l LinkSt.none_).retries < 16 →
    exec (.linkFrameReceive l f) s = .next (askAgain s l)) ∧
  (∀ l s, exec (.linkDown l) s = .next (linkDown s l)) ∧
  (∀ id s x b bs, s.colls.find? (fun x => x.id == id) = some x → collReady s x = true → collVerdict s x = none →
    x.brought = b :: bs → x.matched = false → exec (.collectiveMatch id) s = .next (beginReads s x)) ∧
  (∀ id s x b bs, s.colls.find? (fun x => x.id == id) = some x → collReady s x = true → collVerdict s x = none →
    x.brought = b :: bs → x.matched = true → exec (.collectiveMatch id) s = .next (goOnColl s x b)) ∧
  (∀ id s x k, s.colls.find? (fun x => x.id == id) = some x → collReady s x = true → collVerdict s x = some k →
    exec (.collectiveMatch id) s = .next (collFault s x k.1 k.2)) ∧
  (∀ id s x, s.colls.find? (fun x => x.id == id) = some x → x.matched = false → x.brought.length ≠ commNm1 s x.part x.comm + 1 →
    collDeadline s x.part x.comm x.first + collGrace ≤ timeNs s → x.op.isSome = true →
    exec (.collectiveTimeout id) s = .next (faultColl s x 0x63 3)) ∧
  (∀ id s x f, s.colls.find? (fun x => x.id == id) = some x → collDone x = true →
    x.op.bind (flightAt? { s with colls := s.colls.filter (fun y => y.id != id) }) = some f →
    exec (.collectiveComplete id) s = .next (freeXfer (completeFlight { s with colls := s.colls.filter (fun y => y.id != id) } f)
      (flightCore { s with colls := s.colls.filter (fun y => y.id != id) } f))) ∧
  (∀ op s c e, cmdAt? s op = some c → signalReady s c = true → c.desc.headD 0 % 128 ≠ 124 → badVa (c.desc.headD 0) = false →
    cmdTlb s c (c.desc.headD 0) = some e → pageForbids s c (c.desc.headD 0, true) = false → pageForbids s c (c.desc.headD 0, false) = false →
    ∃ r, r.ask = .reduce .add tyN64 8 [(c.desc.headD 0 % 128, 1)] ∧ r.line = entryPa e (c.desc.headD 0) / 128 ∧
      r.src = .engine c.id c.eng ∧ r.id = (newId s).1 ∧ exec (.lputSignal op) s =
      .next (updCmd (sendReq (newId s).2 r 0) c.id (fun c => { c with phase := .signalled, writes := [(newId s).1] }))) ∧
  (∀ op s c, cmdAt? s op = some c → signalReady s c = true → (∀ va ∈ sigPages (c.desc.headD 0),
      cmdTlb s c va ≠ none ∧ pageForbids s c (va, true) = false ∧ pageForbids s c (va, false) = false) →
    exec (.lputSignal op) s = .next (sendSignal s c (sigPart c false) (c.desc.headD 0))) ∧
  (∀ a s, s.hostWaits.contains a.core = false → a.pol = 1 →
    exec (.hostAccess a) s = .next ((actLines a.act).foldl (fun st p => hostReq st (.host a.core) a.part a.pol p.1 p.2) s)) ∧
  (∀ core s, hostQuiet s core = true →
    exec (.hostBarrier core) s = .next { s with hostWaits := s.hostWaits.filter (· != core) }) ∧
  (∀ r a bs s, exec (.pcieWrite r a bs) s = .next (queuePcie s r a bs false)) ∧
  (∀ r a bs s, exec (.pcieMsi r a bs) s = .next (queuePcie s r a bs true)) ∧
  (∀ r a n s, exec (.pcieRead r a n) s =
    .next ((actLines (.load a n)).foldl (fun st p => hostReq st (.pcie r) (blockPart st (128 * p.1)) 1 p.1 p.2) s)) ∧
  (∀ m t s, exec (.timeSample m t) s = .next (takeSample s m t)) ∧
  (∀ s, exec .timeAgreementLoss s = .next ((List.range 16).foldl linkDown s))

/-- Doorbells and commands of the host queues (R341, R342, R354), device-side launches (R346), holds, ends and buffer lists (R92, R343, R345), scheduling points (R349), code-store loads (R348) and the placement and end of teams (R90, R107) act as their rules give. That a refused command is completed with identifier 0 (DEDUCED, log 52) and that an invalidation drops its translations as it is accepted (DEDUCED, log 54) are the model's choices. -/
def Obligations.CommandStepsComplete : Prop :=
  (∀ fe n s, exec (.doorbell fe n) s = .next (updFe s fe (fun f => { f with tail := n }))) ∧
  (∀ fe c s v, vdOfFe? s fe = some v → commandStatus s v c = 0 → cmdField c 7 0 = 1 →
    recordStatus s (vdAt s v).part (directRead s (cmdField c 511 448) 512) = 0 →
    exec (.cmdLaunch fe c) s = .next (acceptCommand (advanceHead s fe) fe v 1
      (parseRecord (directRead s (cmdField c 511 448) 512)) (cmdField c 447 384) (cmdPreds c) (cmdRanges s c)).2) ∧
  (∀ fe c s v, vdOfFe? s fe = some v → commandStatus s v c = 0 → cmdField c 7 0 = 2 →
    exec (.cmdFence fe c) s =
      .next (acceptCommand (advanceHead s fe) fe v 2 LaunchRec.none_ (cmdField c 447 384) (cmdPreds c) (cmdRanges s c)).2) ∧
  (∀ fe c s v, vdOfFe? s fe = some v → commandStatus s v c = 0 → cmdField c 7 0 = 3 →
    let a := acceptCommand (advanceHead s fe) fe v 3 LaunchRec.none_ (cmdField c 447 384) (cmdPreds c) (cmdRanges s c)
    let part := (vdAt (advanceHead s fe) v).part
    exec (.cmdTranslationInvalidate fe c) s = .next (dropTranslations (updLaunch a.2 a.1 (fun l => { l with
      outstanding := (a.2.reqs.filter (fun r => r.part == part && (cmdRanges s c).any (wentThrough a.2 part r.va))).map (·.id) })) part (cmdRanges s c))) ∧
  (∀ fe c s v, vdOfFe? s fe = some v →
    exec (.cmdInvalidKind fe c) s = .next (writeDone (advanceHead s fe) (vdAt s v).part (cmdField c 447 384) 0 0x27)) ∧
  (∀ fe s d rest f, (feAt s fe).devq = d :: rest → deviceLaunchReady s fe = true →
    flightAt? (updFe s fe (fun x => { x with devq := rest })) d.op = some f →
    exec (.deviceLaunchAccept fe) s = .next (acceptDevice (updFe s fe (fun x => { x with devq := rest })) fe d f)) ∧
  (∀ id s l, launchAt? s id = some l → holdOver s l = true →
    exec (.launchHoldEnd id) s = .next (updLaunch s id (fun l => { l with phase := .ready }))) ∧
  (∀ id s l, launchAt? s id = some l → launchOver s l = true → exec (.launchEnd id) s =
    .next { updLaunch s id (fun l => { l with phase := .listing }) with outer := s.outer.filter (fun b => b.launch != id) }) ∧
  (∀ id s l, launchAt? s id = some l → fenceOver s l = true →
    exec (.fenceEnd id) s = .next (updLaunch s id (fun l => { l with phase := .listing }))) ∧
  (∀ id s l, launchAt? s id = some l → invalidateOver s l = true →
    exec (.invalidateEnd id) s = .next (updLaunch s id (fun l => { l with phase := .listing }))) ∧
  (∀ id s l, launchAt? s id = some l → listingReady s l = true → l.drops = none →
    exec (.bufferListProcessed id) s = .next (startListing s id l)) ∧
  (∀ id s l ds, launchAt? s id = some l → listingReady s l = true → l.drops = some ds →
    exec (.bufferListProcessed id) s = .next (endListing s id l)) ∧
  (∀ p s, pointDue s p = true → exec (.schedulingPoint p) s = .next (choosePlacing s p)) ∧
  (∀ k id s l, launchAt? s id = some l → ((mfind k s.codes).getD CodeStore.empty).loading = none → loadReady s k l = true →
    imageVictims s k (imageOf s l.record.code) = [] → exec (.codeStoreLoad k id) s = .next (startLoad s k id (imageOf s l.record.code))) ∧
  (∀ k id s l t, launchAt? s id = some l → ((mfind k s.codes).getD CodeStore.empty).loading = some t → t.1 ≤ dieClk s (k / 27) →
    exec (.codeStoreLoad k id) s = .next (writeImage s k t.2)) ∧
  (∀ k id s l v vs, launchAt? s id = some l → ((mfind k s.codes).getD CodeStore.empty).loading = none → loadReady s k l = true →
    imageVictims s k (imageOf s l.record.code) = v :: vs → exec (.codeStoreLoad k id) s = .next (evictTeams s ((v :: vs).map (·.id)))) ∧
  (∀ id s l plan, launchAt? s id = some l → placeable s l = some plan → exec (.teamPlace id) s = .next (placeTeams s id l plan)) ∧
  (∀ id s t, s.teams.find? (fun t => t.id == id) = some t → teamOver s t = true → exec (.teamEnd id) s = .next (endTeam s id t))

/-- Trap records (R193), the resume actions (R194, R197), pre-emption, saves, evictions and restores (R199 to R208), and the page-request queue (R274, R355) act as their rules give once their conditions hold. That a second pre-emption changes nothing while a whole save of the context stands (DEDUCED, log 56), and that a restore where no save is held changes nothing but a status (DEDUCED, log 57), are the model's choices. -/
def Obligations.FaultAndSaveStepsComplete : Prop :=
  (∀ u s g r, groupAt? s u = some g → recordReady s g = true → g.stop = some r →
    exec (.trapRecordAppend u) s = .next (queueRecord s u g r)) ∧
  (∀ u s g r, groupAt? s u = some g → g.stop = some r → recKind r ≠ 1 →
    exec (.resumeContinue u) s = .next { resumeGroup (freePageReq s u false) u with cpStatus := 0 }) ∧
  (∀ u s g r, groupAt? s u = some g → g.stop = some r → recKind r = 1 → r.nr = false →
    exec (.resumeRerun u) s = .next { rerunGroup (flushPend (freePageReq s u false) u) u with cpStatus := 0 }) ∧
  (∀ u s g r, groupAt? s u = some g → g.stop = some r → exec (.resumeEndGroup u) s =
    .next { resumeGroup (endLanes (freePageReq s u false) u) u with cpStatus := 0 }) ∧
  (∀ u s g r t, groupAt? s u = some g → g.stop = some r → teamAt? s g.team = some t →
    exec (.resumeEndLaunch u) s = .next { killLaunch s t.launch 0x24 with cpStatus := 0 }) ∧
  (∀ u a s g r, groupAt? s u = some g → g.stop = some r → exec (.resumeInvalid u a) s = .next { s with cpStatus := 0x40 }) ∧
  (∀ ctx s, s.saves.any (fun v => v.ctx == ctx && !v.done) = false →
    exec (.preempt ctx) s = .next (haltTeams s ctx true ((s.teams.filter (fun t => t.ctx == ctx)).map (·.id)))) ∧
  (∀ ctx s, s.saves.any (fun v => v.ctx == ctx && v.whole && !v.done) = true → exec (.preempt ctx) s = .next s) ∧
  (∀ id s v, s.saves.find? (fun v => v.id == id) = some v → saveReady s v = true → exec (.saveComplete id) s = .next (writeSave s id v)) ∧
  (∀ id core s l n, launchAt? s id = some l → evictCore? s l = some (core, n) →
    exec (.partialEviction id core) s = .next (evictTeams s (evictees s l core n))) ∧
  (∀ vd s v, restorable s vd = true → (restoreStatus s vd).1 = 0 → saveOf? s vd (vdAt s vd).save = some v →
    exec (.contextRestore vd) s =
      .next (makeLive (writeAreaState { s with cpStatus := 0 } (vdAt s vd).part (vdAt s vd).save 3) v)) ∧
  (∀ vd s k, restorable s vd = true → (restoreStatus s vd).1 = k → k ∈ [0x30, 0x31, 0x32, 0x33, 0x36] →
    exec (.contextRestore vd) s = .next (updVd { s with cpStatus := k } vd (fun b => { b with susp := true }))) ∧
  (∀ vd s k, restorable s vd = true → (restoreStatus s vd).1 = k → k ∈ [0x34, 0x35] →
    let a := writeAreaState (updVd { s with cpStatus := k } vd (fun b => { b with susp := true })) (vdAt s vd).part (vdAt s vd).save 2
    let m := { a with hvLog := s.hvLog ++ [((vdAt s vd).ctx, (restoreStatus s vd).2)] }
    let e := ((m.launches.filter (fun l => l.kind == 1 && l.ctx == (vdAt s vd).ctx && !(hasEnded l))).map (·.id)).foldl
      (fun st l => killLaunch st l 0x25) (updVd m vd (fun b => { b with damaged := true }))
    exec (.contextRestore vd) s =
      .next { e with saves := e.saves.map (fun x => if x.vd == vd then { x with held := false } else x) }) ∧
  (∀ vd s, restorable s vd = false → tableOk s (vdAt s vd).ctx = false → exec (.contextRestore vd) s =
    .next (updVd { s with cpStatus := 0x31 } vd (fun b => { b with susp := true }))) ∧
  (∀ vd s, restorable s vd = false → tableOk s (vdAt s vd).ctx = true →
    exec (.contextRestore vd) s = .next { s with cpStatus := if (restoreStatus s vd).1 = 0x30 then 0x30 else 0 }) ∧
  (∀ fe s p b, s.pageHeld.find? (fun p => p.fe == fe) = some p → pageRoom s fe = some b →
    exec (.pageRequestEnter fe) s = .next { s with
      pageHeld := s.pageHeld.erase p
      pageReqs := s.pageReqs ++ [{ p with reserved := b }]
      hostIrq := if s.pageReqs.all (·.taken) then s.hostIrq + 1 else s.hostIrq }) ∧
  (∀ s, s.pageReqs.all (·.taken) = true → exec .pageRequestTake s = .next { s with takeReg := none }) ∧
  (∀ s, s.pageReqs.any (fun p => !p.taken && decide (p.fe < 16)) = true →
    ∃ p, ((List.range 16).map (fun i => (s.pageLast + 1 + i) % 16)).findSome?
        (fun f => s.pageReqs.find? (fun p => p.fe == f && !p.taken)) = some p ∧ p ∈ s.pageReqs ∧ p.taken = false ∧
      exec .pageRequestTake s = .next { s with
        takeReg := some p
        pageLast := p.fe
        pageReqs := listUpd (fun x => x.token == p.token && x.engine == p.engine) (fun x => { x with taken := true }) s.pageReqs }) ∧
  (∀ k s c, cmdAt? s k = some c → c.phase = .parked → exec (.pageRequestRetry k) s =
    .next (freePageReq (updCmd s k (fun c => { c with phase := .started, fails := [] })) k true)) ∧
  (∀ k s c p, cmdAt? s k = some c → c.phase = .parked → (s.pageReqs ++ s.pageHeld).find? (fun p => p.token == k && p.engine) = some p →
    exec (.pageRequestAbort k) s = .next (freePageReq (abortCmd s c 1 p.va) k true))

/-- Valid writes of descriptors, service blocks, tables and registers by system software take effect as R103, R286, R321, R328, R338 to R341, R347, R350 and R371 give. That a communicator written anew numbers its collectives from 0 (log 49), that reserved bits are masked (log 63) and the numbers of the control processor's statuses (log 7) are the model's choices. -/
def Obligations.SystemWritesComplete : Prop :=
  (∀ v x s, v < 64 → vdStatus s v x.toNat < 0x10 →
    ¬ ((vdAt s v).valid = true ∧ vdWord { vdAt s v with susp := !(vdAt s v).susp } = x.toNat) →
    exec (.vdDescriptorWrite v x) s = .next (writeVd s v x.toNat)) ∧
  (∀ v s, (vdAt s v).valid = true → (vdAt s v).susp = false → exec (.vdSuspend v) s =
    .next (addDue { updVd s v (fun b => { b with susp := true }) with cpWaits := s.cpWaits ++ [v] } (.ns (timeNs s)) 0
      (.preempt (vdAt s v).ctx))) ∧
  (∀ v s, exec (.vdUnsuspend v) s = .next { updVd s v (fun b => { b with susp := false }) with cpStatus := 0 }) ∧
  (∀ p x s, p < 16 → partStatus s p x.toNat = 0 → exec (.partitionWrite p x) s = .next (writePart s p x.toNat)) ∧
  (∀ v x s, v < 64 → serviceStatus s v x.toNat = 0 → exec (.serviceBlockWrite v x) s = .next (writeService s v x.toNat)) ∧
  (∀ ctx i x s, i ≤ 867 → (vdOfCtx? s ctx).isSome = true → s.teams.any (fun t => t.ctx == ctx) = false →
    exec (.placeTableWrite ctx i x) s = .next { s with places := mset 0 (ctx * 868 + i) (x &&& 0x801F) s.places, cpStatus := 0 }) ∧
  (∀ arm i x s, i ≤ 15 → i ≠ 0 → arm < 204 → bits x.toNat 41 33 ≤ 256 → bits x.toNat 23 12 ≤ 2048 →
      let o : OccEntry := ⟨bits x.toNat 127 96, bits x.toNat 42 42 == 1, bits x.toNat 41 33, bits x.toNat 23 12⟩
      exec (.occupancyEntryWrite arm i x) s = .next { updArm s arm (fun a => { a with occ := mput i o a.occ }) with cpStatus := 0 }) ∧
  (∀ t s, routesValid s.module t = true →
    exec (.routeTableWrite t) s = .next { s with routes := t.map (· &&& 0x000DFFFF), cpStatus := 0 }) ∧
  (∀ p c x s, 
      let e : CommSt := ⟨bits x.toNat 127 64, bits x.toNat 47 32, bits x.toNat 23 16, bits x.toNat 15 8, bits x.toNat 0 0 == 1, 0⟩
      exec (.communicatorWrite p c x) s = .next { s with comms := mput (16 * p + c) e s.comms }) ∧
  (∀ t s, s.timeSet = false → timeNs s ≤ t → t < 2 ^ 64 →
    exec (.timeSet t) s = .next { s with ns := t, frac := 0, timeSet := true, cpStatus := 0 }) ∧
  (∀ b x s, b < blockCount → exec (.registerWrite (.owner b x)) s =
    .next { s with owners := mset 0 b (x &&& 0x8F).toNat s.owners, cpStatus := 0 }) ∧
  (∀ f x s, f < 16 → x.toNat % 64 = 0 → exec (.registerWrite (.feBase f x)) s =
    .next { updFe s f (fun y => { y with base := x.toNat }) with cpStatus := 0 }) ∧
  (∀ f k (x : BitVec 32) s, f < 16 → 6 ≤ k → k ≤ 16 → x.toNat = 2 ^ k → exec (.registerWrite (.feSize f x)) s =
    .next { updFe s f (fun y => { y with size := 2 ^ k }) with cpStatus := 0 }) ∧
  (∀ d p s, d < 4 → p ≤ 7 → exec (.registerWrite (.dieLower d p)) s =
    .next { setDie s d { dieAt s d with ceiling := p } with cpStatus := 0 })

/-- Resets (R357, R370), operating points and the power limiter (R375, R377), the control processors' windows (R376), patrol scrub (R379), the black box (R378) and the trap of an unassigned opcode (R78) act as their rules give. The model's choices: which lanes that trap names (log 67), how the limiter's point moves (log 38), that a fatal error only freezes the black box (log 65), that scrubbing leaves alone the lines a spiral holds dirty (log 66), and the numbers of black-box entries that R378 leaves open (log 7). -/
def Obligations.DeviceStepsComplete : Prop :=
  (∀ p s, exec (.partitionReset p) s = .next (resetPart s p)) ∧
  (∀ cold s, ∃ t, exec (.moduleReset cold) s = .next t ∧
    match bootFails s.flash (beforeBoot s cold).bootNo with
    | none => t.boot = .released ∧ t.config = parseConfig s.flash ∧ t.mem = []
    | some k => t.boot = .recovery k) ∧
  (∀ r s k, s.boot = .recovery k → r.length = 896 → exec (.recoveryRecord r) s = .next { s with flash := r }) ∧
  (∀ d s, targetPoint s d < (dieAt s d).point → exec (.opptChange d) s = .next (changePoint s d (targetPoint s d))) ∧
  (∀ d s n, (dieAt s d).point < targetPoint s d → (dieAt s d).pending = some n → n ≤ timeNs s →
    exec (.opptChange d) s = .next (changePoint s d (targetPoint s d))) ∧
  (∀ w s, s.config.pwrlim < w → (List.range 4).any (fun d => decide (0 < (dieAt s d).point)) = true →
    exec (.limiterWindow w) s = .next (boxAppend { s with dies := s.dies.map (fun d =>
      if d.point = 0 then d else { d with limit := d.point - 1 }) } 0x11 5 0 0 w)) ∧
  (∀ w s, w ≤ s.config.pwrlim → 100 * w < 95 * s.config.pwrlim → (List.range 4).any (limited s) = true →
    exec (.limiterWindow w) s = .next (boxAppend ((List.range 4).foldl (fun st d =>
      if limited s d then setDie st d { dieAt st d with limit := (dieAt st d).limit + 1 } else st) s) 0x11 5 0 0 w)) ∧
  (∀ d a s, s.windows.any (fun w => w.1 == d && decide (w.2.1 ≤ a) && decide (a < w.2.2)) = false →
    exec (.firmwareWriteDropped d a) s = .next (boxAppend { s with busErrors := s.busErrors ++ [(d, a)] } 0x20 d d 0 a)) ∧
  (∀ s, ∃ t, exec .patrolScrub s = .next t ∧ t.mem = s.mem ∧
    (∀ l, l ∈ t.latent ↔ l ∈ s.latent ∧ lineInSpiral s l = true) ∧
    (∀ l, l ∈ t.poison ↔ l ∈ s.poison ∨ (l ∈ s.latent ∧ lineInSpiral s l = false)) ∧
    ((∀ d ∈ s.agenda, d.ev ≠ .patrolScrub) → ∃ d ∈ t.agenda, d.ev = .patrolScrub ∧ d.moment = .ns (timeNs s + scrubPeriod))) ∧
  (∀ s, exec .powerLoss s = .next { beforeBoot s true with boot := .off, bootNo := s.bootNo }) ∧
  (∀ s, exec .moduleFatalError s = .next { s with boxFrozen := true }) ∧
  (∀ x s g sp, curSplit s = some (g, sp) → delivered (bareCtx s g sp) = true →
    exec (.unassignedOpcode x) s = .next (raiseAt s (bareCtx s g sp) 0x01 1 sp.mask 0))

/-- A `callv` in a callee slot raises the nested-call fault and one in a team with no callee slots the callee-absent fault; `retv` outside a callee slot raises the callee fault with detail 1 and `exit` in one with detail 2. Nothing is enqueued, returned or removed (R121). -/
def Obligations.CallFaults : Prop :=
  (∀ f, Raises .callv (.ext f) (.callv f) (fun c _ => c.g.callee = true) 0x11 0) ∧
  (∀ f, Raises .callv (.ext f) (.callv f) (fun c s => c.g.callee = false ∧ ∃ t, teamAt? s c.g.team = some t ∧ t.callees = []) 0x12 0) ∧
  (∀ f, Raises .retv (.ext f) (.retv f) (fun c _ => c.g.callee = false) 0x13 1) ∧
  (∀ f, Raises .exit (.base f) (.exit f) (fun c _ => c.g.callee = true) 0x13 2) ∧
  (∀ f, Raises .exit f.toWord3 (.exitExt f) (fun c _ => c.g.callee = true) 0x13 2)

/-- `bar.arrive` and `bar.sync` with ARV = 1, `bar.wait` with ARV = 0 and any barrier instruction in a callee slot raise the barrier-order fault; `bar.arrive`, `bar.sync` and `bar.drop` with DROP = 1 raise the over-arrival fault; a drop clears ARV, so that a later wait faults. The faulting instruction changes nothing (R130). -/
def Obligations.BarrierFaults : Prop :=
  (∀ f, Raises .barArrive (.base f) (.barArrive f) (fun c s => barCheck s c = none ∧ (bitsNow s c (barKey c)).arv = true) 0x0C 0) ∧
  (∀ f, Raises .barArrive f.toWord3 (.barArriveExt f) (fun c s => barCheck s c = none ∧ (bitsNow s c (barKey c)).arv = true) 0x0C 0) ∧
  (∀ f, Raises .barSync (.base f) (.barSync f) (fun c s => barCheck s c = none ∧ (bitsNow s c (barKey c)).arv = true) 0x0C 0) ∧
  (∀ f, Raises .barSync f.toWord3 (.barSyncExt f) (fun c s => barCheck s c = none ∧ (bitsNow s c (barKey c)).arv = true) 0x0C 0) ∧
  (∀ f, Raises .barWait (.base f) (.barWait f) (fun c s => barCheck s c = none ∧ (bitsNow s c (barKey c)).arv = false) 0x0C 0) ∧
  (∀ f, Raises .barWait f.toWord3 (.barWaitExt f) (fun c s => barCheck s c = none ∧ (bitsNow s c (barKey c)).arv = false) 0x0C 0) ∧
  (∀ f, Raises .barArrive (.base f) (.barArrive f) (fun c _ => c.g.callee = true) 0x0C 0) ∧
  (∀ f, Raises .barArrive f.toWord3 (.barArriveExt f) (fun c _ => c.g.callee = true) 0x0C 0) ∧
  (∀ f, Raises .barSync (.base f) (.barSync f) (fun c _ => c.g.callee = true) 0x0C 0) ∧
  (∀ f, Raises .barSync f.toWord3 (.barSyncExt f) (fun c _ => c.g.callee = true) 0x0C 0) ∧
  (∀ f, Raises .barWait (.base f) (.barWait f) (fun c _ => c.g.callee = true) 0x0C 0) ∧
  (∀ f, Raises .barWait f.toWord3 (.barWaitExt f) (fun c _ => c.g.callee = true) 0x0C 0) ∧
  (∀ f, Raises .barDrop (.base f) (.barDrop f) (fun c _ => c.g.callee = true) 0x0C 0) ∧
  (∀ f, Raises .barDrop f.toWord3 (.barDropExt f) (fun c _ => c.g.callee = true) 0x0C 0) ∧
  (∀ f, Raises .barTest (.ext f) (.barTest f) (fun c _ => c.g.callee = true) 0x0C 0) ∧
  (∀ f, Raises .barAdd (.ext f) (.barAdd f) (fun c _ => c.g.callee = true) 0x0C 0) ∧
  (∀ f, Raises .barArrive (.base f) (.barArrive f) (fun c s => barCheck s c = none ∧ (bitsNow s c (barKey c)).arv = false ∧
    (bitsNow s c (barKey c)).drop = true) 0x0D 0) ∧
  (∀ f, Raises .barArrive f.toWord3 (.barArriveExt f) (fun c s => barCheck s c = none ∧ (bitsNow s c (barKey c)).arv = false ∧
    (bitsNow s c (barKey c)).drop = true) 0x0D 0) ∧
  (∀ f, Raises .barSync (.base f) (.barSync f) (fun c s => barCheck s c = none ∧ (bitsNow s c (barKey c)).arv = false ∧
    (bitsNow s c (barKey c)).drop = true) 0x0D 0) ∧
  (∀ f, Raises .barSync f.toWord3 (.barSyncExt f) (fun c s => barCheck s c = none ∧ (bitsNow s c (barKey c)).arv = false ∧
    (bitsNow s c (barKey c)).drop = true) 0x0D 0) ∧
  (∀ f, Raises .barDrop (.base f) (.barDrop f) (fun c s => barCheck s c = none ∧ (bitsNow s c (barKey c)).drop = true) 0x0D 0) ∧
  (∀ f, Raises .barDrop f.toWord3 (.barDropExt f) (fun c s => barCheck s c = none ∧ (bitsNow s c (barKey c)).drop = true) 0x0D 0) ∧
  (∀ c s g, groupAt? s c.g.uid = some g → bitsNow (dropFromBar c s) c (barKey c) = ⟨false, (bitsNow s c (barKey c)).aph, true⟩)

/-- A matrix instruction whose selected set is neither empty nor all 32 lanes raises the partial-mask fault and leaves the array untouched (R18); so do `rgn` in a group with several splits or deferred arms (R140) and `migrate` unless one split holds all 32 lanes with no deferred arm (R101). -/
def Obligations.PartialMaskFaults : Prop :=
  (∀ i o w s g sp, instrWord i = some (o, w) → isMatrixOp o = true → Passes o w s g sp → (ctxOf o w s g sp).sel ≠ 0xFFFFFFFF →
    exec i s = .next (raiseAt s (ctxOf o w s g sp) 0x04 0 (ctxOf o w s g sp).sel 0)) ∧
  (∀ f, Raises .rgn (.ext f) (.rgn f) (fun c _ => c.g.splits.length ≠ 1 ∨ ∃ sp, c.g.splits = [sp] ∧ sp.arms ≠ []) 0x04 0) ∧
  (∀ f, Raises .migrate (.ext f) (.migrate f) (fun c _ => c.g.splits.length ≠ 1 ∨ c.sp.mask ≠ 0xFFFFFFFF ∨ c.sp.arms ≠ []) 0x04 0)

/-- `sspr` with a value outside its register's limits raises the special-register fault and writes nothing (R127); `bar.add` and `qpushn` or `qpopn` outside their limits raise the pending-byte overflow and the ring-count fault and change nothing (R29, R133, R135). -/
def Obligations.ValueFaults : Prop :=
  (∀ f, Raises .sspr (.ext f) (.sspr f) (fun c s => c.f.d = 0x46 ∧ ¬ (1 ≤ (srcS s c 1).toNat ∧ (srcS s c 1).toNat ≤ 255)) 0x10 0) ∧
  (∀ f, Raises .sspr (.ext f) (.sspr f) (fun c s => c.f.d = 0x47 ∧ resOk ((srcS s c 1).setWidth 32) = false) 0x10 0) ∧
  (∀ f, Raises .barAdd (.ext f) (.barAdd f) (fun c s => c.g.callee = false ∧
    ((teamBar s c.g.team c.f.d.toNat).pend + (teamBar s c.g.team c.f.d.toNat).delta + intOf true 32 (srcS s c 1).toNat < 0 ∨
      16777215 < (teamBar s c.g.team c.f.d.toNat).pend + (teamBar s c.g.team c.f.d.toNat).delta + intOf true 32 (srcS s c 1).toNat)) 0x0B 0) ∧
  (∀ f, Raises .qpushn (.ext f) (.qpushn f) (fun c s => ∃ r, ringOf? s c.g.team c.f.d.toNat = some r ∧ r.depth < (imm8 c.f.sb).toNat ∧
    s.cmds.any (fun x => x.uid == c.g.uid && x.op == .xhand && x.f.d.toNat == c.f.d.toNat) = false) 0x0F 0) ∧
  (∀ f, Raises .qpopn (.ext f) (.qpopn f) (fun c s => ∃ r, ringOf? s c.g.team c.f.sa.toNat = some r ∧ r.depth < (imm8 c.f.sb).toNat) 0x0F 0)

/-- A global access with a misaligned lane raises the misaligned-access fault naming every such lane; a scratchpad access raises the first of the misaligned-access, allocation and range-guard faults that some lane meets, naming every such lane; none of them performs anything in any lane (R159). -/
def Obligations.AccessFaults : Prop :=
  (∀ i o w s g sp, instrWord i = some (o, w) → Passes o w s g sp → ∀ ls,
    o ∈ [Op.vld, .vldw, .vldnf, .vst, .vstw, .vprf, .vaadd, .vamin, .vamax, .vaand, .vaor, .vaxor, .vaxch, .vacas, .vradd, .vrmin, .vrmax, .vrbit] →
    globalMis true (ctxOf o w s g sp) (beginIssue s (ctxOf o w s g sp)) = ls → ls ≠ [] →
    exec i s = .next (raiseAt s (ctxOf o w s g sp) 0x06 0 (maskOf ls)
      (globalAddr (beginIssue s (ctxOf o w s g sp)) (ctxOf o w s g sp) true (ls.headD 0)))) ∧
  (∀ i o w s g sp k m a, instrWord i = some (o, w) → Passes o w s g sp → o ∈ [Op.vlds, .vldsw, .vsts, .vstsw] →
    spadCheck (beginIssue s (ctxOf o w s g sp)) (ctxOf o w s g sp) (spadAccs (beginIssue s (ctxOf o w s g sp)) (ctxOf o w s g sp) true)
      (accSize o (ctxOf o w s g sp).f) (o == .vsts || o == .vstsw) = some (k, m, a) →
    exec i s = .next (raiseAt s (ctxOf o w s g sp) k 0 m a)) ∧
  (∀ i w s g sp, instrWord i = some (.vldb, w) → Passes .vldb w s g sp → ∀ ls,
    globalMis false (ctxOf .vldb w s g sp) (beginIssue s (ctxOf .vldb w s g sp)) = ls → ls ≠ [] →
    exec i s = .next (raiseAt s (ctxOf .vldb w s g sp) 0x06 0 (maskOf ls)
      (globalAddr (beginIssue s (ctxOf .vldb w s g sp)) (ctxOf .vldb w s g sp) false (ls.headD 0)))) ∧
  (∀ i o w s g sp k m a, instrWord i = some (o, w) → Passes o w s g sp → o ∈ [Op.vldk, .vstk] →
    spadCheck (beginIssue s (ctxOf o w s g sp)) (ctxOf o w s g sp)
      ((lanesOf (ctxOf o w s g sp).sel).map (fun l => (l, spadAddr (beginIssue s (ctxOf o w s g sp)) (ctxOf o w s g sp) false 0)))
      4 (o == .vstk) = some (k, m, a) →
    exec i s = .next (raiseAt s (ctxOf o w s g sp) k 0 m a))

/-- A scalar result is the exact result modulo 2^N, sign-extended to 64 bits for `.s` and zero-extended for `.n`: no scalar instruction saturates. The corners: a shift by N or more gives 0 to the left and copies of the sign to the right; division truncates toward zero, by 0 gives all ones and leaves the dividend as remainder; the type minimum divided by −1 gives the type minimum and remainder 0 (R123). -/
def Obligations.ScalarResults : Prop :=
  (∀ z : Int,
    scExtend tyS8 z = (BitVec.ofInt 8 z).signExtend 64 ∧ scExtend tyS16 z = (BitVec.ofInt 16 z).signExtend 64 ∧
    scExtend tyS32 z = (BitVec.ofInt 32 z).signExtend 64 ∧ scExtend tyS64 z = BitVec.ofInt 64 z ∧
    scExtend tyN8 z = (BitVec.ofInt 8 z).setWidth 64 ∧ scExtend tyN16 z = (BitVec.ofInt 16 z).setWidth 64 ∧
    scExtend tyN32 z = (BitVec.ofInt 32 z).setWidth 64 ∧ scExtend tyN64 z = BitVec.ofInt 64 z) ∧
  (∀ n a b : Nat, n ≤ b → scShl n a b = 0) ∧ (∀ n a b : Nat, b < n → scShl n a b = a * 2 ^ b) ∧
  (∀ (n : Nat) (a : Int) (b : Nat), n ≤ b → -(2 ^ n) ≤ a → a < 2 ^ n → scShr n a b = if a < 0 then -1 else 0) ∧
  (∀ t, t ∈ [tyS8, tyS16, tyS32, tyS64, tyN8, tyN16, tyN32, tyN64] → ∀ a, ∀ k < tyWidth t, (scExtend t (scDiv a 0)).getLsbD k = true) ∧
  (∀ a, scRem a 0 = a) ∧
  (∀ t, t ∈ [tyS8, tyS16, tyS32, tyS64] → scExtend t (scDiv (-(2 ^ (tyWidth t - 1))) (-1)) = scExtend t (-(2 ^ (tyWidth t - 1)))) ∧
  (∀ a, scRem a (-1) = 0) ∧
  (∀ a b, b ≠ 0 → a = b * scDiv a b + scRem a b ∧ (scRem a b).natAbs < b.natAbs ∧ (0 ≤ a → 0 ≤ scRem a b) ∧ (a ≤ 0 → scRem a b ≤ 0))

/-- A fixed-latency write issued at clk t with latency L is due at the end of clk t + L − 1; among the writes then applied to one register, lane, mask bit or special register the last issued stands; and no register, %seed and the other special registers included, changes without such a write (R73). -/
def Obligations.PendingWrites : Prop :=
  (∀ s core uid lat w, (later s core uid lat w).pend = s.pend ++ [⟨coreClk s core + lat - 1, uid, w⟩]) ∧
  (∀ s d n u g r x ps, groupAt? s u = some g → coreDie g.core = d → s.pend = ps ++ [⟨n, u, .s r x⟩] →
    ∃ g', groupAt? (applyPend s d n) u = some g' ∧ sread g' r = x) ∧
  (∀ s d n u g r m x ps, groupAt? s u = some g → coreDie g.core = d → s.pend = ps ++ [⟨n, u, .k r m x⟩] →
    ∃ g', groupAt? (applyPend s d n) u = some g' ∧ kread g' r &&& m = x &&& m) ∧
  (∀ s d n u g r ls l m x pre suf ps, groupAt? s u = some g → coreDie g.core = d → s.pend = ps ++ [⟨n, u, .v r ls⟩] →
    ls = pre ++ ((l, m, x) :: suf) → (∀ q ∈ suf, q.1 ≠ l) →
    ∃ g', groupAt? (applyPend s d n) u = some g' ∧ vread g' r l &&& m = x &&& m) ∧
  (∀ s d n u g k x ps, groupAt? s u = some g → coreDie g.core = d → s.pend = ps ++ [⟨n, u, .sp k x⟩] →
    ∃ g', groupAt? (applyPend s d n) u = some g' ∧ (k = 0x49 → g'.seed = x) ∧ (k = 0x46 → g'.mcap = x.toNat % 256) ∧
      (k = 0x47 → g'.mres = x.setWidth 32) ∧ (k ∉ [0x49, 0x46, 0x47] → g'.rgn = x)) ∧
  (∀ s d n u g, groupAt? s u = some g →
    ∃ g', groupAt? (applyPend s d n) u = some g' ∧
      (∀ r, (∀ p ∈ s.pend, p.uid = u → ∀ x, p.dst ≠ .s r x) → sread g' r = sread g r) ∧
      (∀ r, (∀ p ∈ s.pend, p.uid = u → ∀ m x, p.dst ≠ .k r m x) → kread g' r = kread g r) ∧
      (∀ r l, (∀ p ∈ s.pend, p.uid = u → ∀ k ls, p.dst = .v k ls → ∀ q ∈ ls, 32 * k + q.1 ≠ 32 * r + l) → vread g' r l = vread g r l) ∧
      ((∀ p ∈ s.pend, p.uid = u → p.dst ≠ .seedStep ∧ ∀ x, p.dst ≠ .sp 0x49 x) → g'.seed = g.seed) ∧
      ((∀ p ∈ s.pend, p.uid = u → ∀ x, p.dst ≠ .sp 0x46 x) → g'.mcap = g.mcap) ∧
      ((∀ p ∈ s.pend, p.uid = u → ∀ x, p.dst ≠ .sp 0x47 x) → g'.mres = g.mres) ∧
      ((∀ p ∈ s.pend, p.uid = u → ∀ k x, p.dst = .sp k x → k ∈ [0x49, 0x46, 0x47]) → g'.rgn = g.rgn) ∧
      g'.owners = g.owners ∧ g'.splits = g.splits)

/-- `vcmp` sets the bit of each selected lane whose comparison holds and clears that of each other selected lane, and a 32-bit vector result lands in each selected lane of D; the bits and lanes that are not selected and the other registers are unchanged (R63, R142, R146). -/
def Obligations.SelectedLanesOnly : Prop :=
  (∀ (c : Ctx) (s : State) (g : Group) l, l < 32 →
    (c.sel.getLsbD l = true → (kread (applyWrite g (.k c.f.d.toNat c.sel (cmpMask c s))) c.f.d.toNat).getLsbD l =
      cmpElem (c.f.opx.toNat % 8) (vTy c) (srcV s c (vTy c) 1 l) (srcV s c (vTy c) 2 l)) ∧
    (c.sel.getLsbD l = false → (kread (applyWrite g (.k c.f.d.toNat c.sel (cmpMask c s))) c.f.d.toNat).getLsbD l =
      (kread g c.f.d.toNat).getLsbD l) ∧
    (∀ r, r ≠ c.f.d.toNat → kread (applyWrite g (.k c.f.d.toNat c.sel (cmpMask c s))) r = kread g r)) ∧
  (∀ (c : Ctx) (g : Group) (f : Nat → Word) l, l < 32 →
    (c.sel.getLsbD l = true → vread (applyWrite g (.v c.f.d.toNat (wholeLanes (lanesOf c.sel) f))) c.f.d.toNat l = f l) ∧
    (c.sel.getLsbD l = false → vread (applyWrite g (.v c.f.d.toNat (wholeLanes (lanesOf c.sel) f))) c.f.d.toNat l = vread g c.f.d.toNat l) ∧
    (∀ r, r ≠ c.f.d.toNat → vread (applyWrite g (.v c.f.d.toNat (wholeLanes (lanesOf c.sel) f))) r l = vread g r l))

/-- Naming a flag clears it and takes it over; it becomes 1 when its owner completes, an earlier instruction's completion does nothing, and no other flag changes (R28). -/
def Obligations.FlagsFollowTheirOwner : Prop :=
  ∀ (g : Group) n op, n < 12 →
    (takeFlag n op g).flags.getLsbD n = false ∧
    (doneFlag n op (takeFlag n op g)).flags.getLsbD n = true ∧
    (∀ op', op' ≠ op → doneFlag n op' (takeFlag n op g) = takeFlag n op g) ∧
    (∀ m, m ≠ n → (takeFlag n op g).flags.getLsbD m = g.flags.getLsbD m ∧ ∀ op', (doneFlag n op' g).flags.getLsbD m = g.flags.getLsbD m) ∧
    (∀ op', regsOf (takeFlag n op g) = regsOf g ∧ regsOf (doneFlag n op' g) = regsOf g)

/-- An instruction that names a flag clears it as it issues and owns it, whatever it selects (R28, R64); its split's program counter moves past its words, and no register of the group changes. -/
def Obligations.IssueTakesTheFlag : Prop :=
  ∀ o w s g sp, Offers o w s g sp →
    ∃ g', groupAt? (beginIssue s (ctxOf o w s g sp)) g.uid = some g' ∧ regsOf g' = regsOf g ∧
      (splitAt? g' sp.place).map (·.pc) = some (ctxOf o w s g sp).next ∧
      (∀ n, (ctxOf o w s g sp).f.setf.toNat = n + 1 → n < 12 → g'.flags.getLsbD n = false ∧ mfind n g'.flagOwner = some (ctxOf o w s g sp).id) ∧
      (∀ m, (ctxOf o w s g sp).f.setf.toNat ≠ m + 1 → g'.flags.getLsbD m = g.flags.getLsbD m)

/-- A write performed at its home changes exactly the bytes it names, the later of two for one byte, and no other byte of device memory (R166). -/
def Obligations.WordWritesReachTheLine : Prop :=
  ∀ s arm r bs deep a,
    (∀ pre b suf, bs = pre ++ (b :: suf) → 128 * localLine r.line + b.1 = a → (∀ q ∈ suf, q.1 ≠ b.1) →
      readByte (performWrite s arm r bs deep).mem a = b.2) ∧
    ((∀ b ∈ bs, 128 * localLine r.line + b.1 ≠ a) → readByte (performWrite s arm r bs deep).mem a = readByte s.mem a)

/-- A scratchpad store of one pass writes, in the team that issued it and as it issues, the bytes of its selected lanes, the highest-numbered lane's where several write one byte, and no others; one of p passes writes the same bytes p − 1 clk later, in the clk of its last pass, and until then leaves the scratchpads as they are; no other team's scratchpad changes (R160, R161). -/
def Obligations.ScratchpadStoresWriteTheirBytes : Prop :=
  (∀ s u bs t a, s.teams.find? (fun x => x.id == u) = some t →
    (∀ pre b suf, bs = pre ++ (b :: suf) → b.1 = a → (∀ q ∈ suf, q.1 ≠ a) → readByte (teamSpad (putSpad s u bs) u) a = b.2) ∧
    ((∀ b ∈ bs, b.1 ≠ a) → readByte (teamSpad (putSpad s u bs) u) a = readByte t.spad a)) ∧
  (∀ s u v bs, v ≠ u → teamSpad (putSpad s u bs) v = teamSpad s v) ∧
  (∀ c s, passCount (wordsTouched (spadAccs s c true) (accSize c.op c.f)) ≤ 1 →
    ∀ u, teamSpad (storeSpad c s) u = teamSpad (putSpad s c.g.team (spadStored c s)) u) ∧
  (∀ c s, 1 < passCount (wordsTouched (spadAccs s c true) (accSize c.op c.f)) →
    (∀ u, teamSpad (storeSpad c s) u = teamSpad s u) ∧
    (∃ f ∈ (storeSpad c s).flights, f.id = c.id ∧ f.at2 = c.g.team ∧ f.mems = spadStored c s) ∧
    ∃ d ∈ (storeSpad c s).agenda, d.ev = .spadAccessComplete c.id ∧ d.moment = .clk (coreDie c.g.core)
      (dieClk s (coreDie c.g.core) + (passCount (wordsTouched (spadAccs s c true) (accSize c.op c.f)) - 1))) ∧
  (∀ op s f u, flightAt? s op = some f → f.mems ≠ [] →
    ∃ t, exec (.spadAccessComplete op) s = .next t ∧ teamSpad t u = teamSpad (putSpad s f.at2 f.mems) u) ∧
  (∀ c s u, teamSpad (storeMask c s) u =
    teamSpad (putSpad s c.g.team (bytesAt (spadAddr s c false 0).toNat (leBytes 4 (kread c.g c.f.d.toNat).toNat))) u)

/-- In the clk in which a group raises its first fault, it stops with a record that names the place, region and time, and further faults of that clk join the record in the order of R191, eight at most; later ones produce no second record. No register of the group changes (R191, R192). -/
def Obligations.FirstFaultOpensTheRecord : Prop :=
  (∀ s u g e, groupAt? s u = some g → g.stop = none →
    ∃ g', groupAt? (raiseFault s u e) u = some g' ∧ regsOf g' = regsOf g ∧ g'.splits = g.splits ∧ g'.flags = g.flags ∧
      ∃ r, g'.stop = some r ∧ r.entries = [e] ∧ r.clk = coreClk s g.core ∧ r.time = timeNs s ∧ r.place = placeWord s g ∧
        r.rgncnt = (regionOf s g).toNat / 2 ^ 32 ∧ r.rgnpc = (regionOf s g).toNat % 2 ^ 19 ∧ r.ovf = false ∧
        r.nr = (g.nr || !g.nrMay.isEmpty) ∧ r.delivered = false) ∧
  (∀ s u g r e, groupAt? s u = some g → g.stop = some r → r.clk = coreClk s g.core → r.delivered = false →
    ∃ g', groupAt? (raiseFault s u e) u = some g' ∧ regsOf g' = regsOf g ∧
      g'.stop = some { r with entries := (insertEntry e r.entries).take 8,
                              ovf := r.ovf || decide ((insertEntry e r.entries).length > 8)
                              nr := g.nr || !g.nrMay.isEmpty }) ∧
  (∀ s u g r e, groupAt? s u = some g → g.stop = some r → (r.clk ≠ coreClk s g.core ∨ r.delivered = true) → raiseFault s u e = s) ∧
  (∀ s u e v, v ≠ u → groupAt? (raiseFault s u e) v = groupAt? s v) ∧
  (∀ e es, es.Pairwise (fun x y => entryBefore x y = true) →
    (insertEntry e es).Pairwise (fun x y => entryBefore x y = true))

/-- Resume actions of system software: continue is refused with `0x41` for a region fault, re-run with `0x41` for any other and with `0x42` where NR = 1, and actions 4 to 15 always with `0x40`; a refused action leaves the group stopped. A group that goes on is no longer stopped, keeps its registers, and its last-issue time is the clk of the resume (R194). -/
def Obligations.ResumeActions : Prop :=
  (∀ u s g r, groupAt? s u = some g → g.stop = some r → recKind r = 1 → exec (.resumeContinue u) s = .next { s with cpStatus := 0x41 }) ∧
  (∀ u s g r, groupAt? s u = some g → g.stop = some r → recKind r ≠ 1 → exec (.resumeRerun u) s = .next { s with cpStatus := 0x41 }) ∧
  (∀ u s g r, groupAt? s u = some g → g.stop = some r → recKind r = 1 → r.nr = true → exec (.resumeRerun u) s = .next { s with cpStatus := 0x42 }) ∧
  (∀ u a s g r, groupAt? s u = some g → g.stop = some r → exec (.resumeInvalid u a) s = .next { s with cpStatus := 0x40 }) ∧
  (∀ u s g r, groupAt? s u = some g → g.stop = some r → recKind r ≠ 1 →
    ∃ t g', exec (.resumeContinue u) s = .next t ∧ groupAt? t u = some g' ∧ g'.stop = none ∧ regsOf g' = regsOf g ∧ g'.splits = g.splits ∧
      g'.flags = g.flags ∧ g'.lastIssue = coreClk s g.core ∧ g'.resumed = true ∧ t.cpStatus = 0)

/-- At the end of a clk, after its arrivals and PEND changes, a barrier with COUNT = EXP and PEND = 0 opens: COUNT := 0, EXP := EXP − DROPS, DROPS := 0, PHASE flips; otherwise it only takes the PEND changes. One whose EXP has become 0 never opens again (R129, R29). -/
def Obligations.BarrierOpens : Prop :=
  (∀ b : TeamBar, b.exp ≠ 0 → b.count = b.exp → (b.pend : Int) + b.delta = 0 → openBar b = ⟨!b.phase, b.exp - b.drops, 0, 0, 0, 0⟩) ∧
  (∀ b : TeamBar, 0 ≤ (b.pend : Int) + b.delta → (b.count ≠ b.exp ∨ (b.pend : Int) + b.delta ≠ 0) →
    (openBar b).phase = b.phase ∧ (openBar b).exp = b.exp ∧ (openBar b).count = b.count ∧ (openBar b).drops = b.drops ∧
    ((openBar b).pend : Int) = b.pend + b.delta ∧ (openBar b).delta = 0) ∧
  (∀ b : TeamBar, b.exp = 0 → (openBar b).phase = b.phase ∧ (openBar b).exp = 0)

/-- A ring of depth D with w entries waiting, w < D, gives after a push its oldest w entries and then the pushed one; a pop takes one; indices and phases follow R25 and R26, so that a push never finds a full ring and a pop an empty one; and the header stays one that pushes and pops leave. -/
def Obligations.RingIsFirstInFirstOut : Prop :=
  (∀ (r : Ring) x, ringSound r → ringWait r < r.depth →
    (ringPops (ringWait r + 1) (ringPush r x)).1 = (ringPops (ringWait r) r).1 ++ [x] ∧
    ringWait (ringPush r x) = ringWait r + 1 ∧ ringSound (ringPush r x) ∧
    (ringPush r x).pushix = (r.pushix + 1) % r.depth ∧
    (ringPush r x).pushph = (if r.pushix + 1 = r.depth then !r.pushph else r.pushph) ∧
    (ringPush r x).popix = r.popix ∧ (ringPush r x).popph = r.popph) ∧
  (∀ r : Ring, ringSound r → 1 ≤ ringWait r →
    ringWait (ringPop r).2 + 1 = ringWait r ∧ ringSound (ringPop r).2 ∧
    (ringPop r).2.popix = (r.popix + 1) % r.depth ∧
    (ringPop r).2.popph = (if r.popix + 1 = r.depth then !r.popph else r.popph) ∧
    (ringPop r).2.pushix = r.pushix ∧ (ringPop r).2.pushph = r.pushph ∧ (ringPop r).2.ents = r.ents)

/-- A write to the place table of a context with resident groups is ignored and reported in the control processor's status and the black box; its number names the context and the logical unit; an index above 867 or an unknown context is ignored and reported in the status (R102, R103, R378). The number of the status and the fields of the entry that R378 leaves open (log 7), and that an unknown context is refused so (log 63), are the model's choices. -/
def Obligations.PlaceTableRefusals : Prop :=
  (∀ ctx i x s, i ≤ 867 → (vdOfCtx? s ctx).isSome = true → s.teams.any (fun t => t.ctx == ctx) = true →
    ∃ t, exec (.placeTableWrite ctx i x) s = .next t ∧ t.places = s.places ∧ t.cpStatus ≠ 0 ∧ t.groups = s.groups ∧ t.teams = s.teams ∧
      t.mem = s.mem ∧ t.box = (boxAppend s 0x51 (placeDie i) 0 ctx i).box ∧ (s.boxFrozen = true → t.box = s.box) ∧
      (s.boxFrozen = false → s.box.length < 4096 →
        ∃ e ∈ t.box, e.code = 0x51 ∧ e.src = placeDie i ∧ e.ctx = ctx ∧ e.data = i ∧ e.time = timeNs s)) ∧
  (∀ ctx i x s, 867 < i ∨ vdOfCtx? s ctx = none →
    ∃ t, exec (.placeTableWrite ctx i x) s = .next t ∧ t.places = s.places ∧ t.cpStatus ≠ 0 ∧ t.groups = s.groups ∧ t.teams = s.teams ∧
      t.mem = s.mem ∧ t.box = s.box)

/-- Right after module reset: no partition, virtual device, service block, front end, team, group, launch or request stands, device memory reads 0 everywhere and memories, code stores and spirals list nothing, `%time` is 0 and not set, every die is at operating point 0 with no limit below its ceiling, every link is up with nothing sent or awaited, no trap queue or save stands, and the black box holds the entries of the seven boot steps and no other (R370, R371, R375, R378). That the configuration record is the one shipped is the model's choice (DESIGN CHOICE, log 8), as is that the next patrol scrub is due a whole period later (log 66). -/
def Obligations.ResetState : Prop :=
  State.reset.boot = .released ∧ State.reset.mem = [] ∧ (∀ a, readByte State.reset.mem a = 0) ∧ State.reset.dram = [] ∧
  State.reset.codes = [] ∧ State.reset.arms = [] ∧ State.reset.cores = [] ∧ State.reset.engines = [] ∧ State.reset.groups = [] ∧
  State.reset.teams = [] ∧ State.reset.outer = [] ∧ State.reset.launches = [] ∧ State.reset.reqs = [] ∧ State.reset.flights = [] ∧
  State.reset.cmds = [] ∧ State.reset.pend = [] ∧ State.reset.updates = [] ∧ State.reset.wakes = [] ∧ State.reset.walks = [] ∧
  State.reset.tlb = [] ∧ State.reset.poison = [] ∧ State.reset.latent = [] ∧ State.reset.soft = [] ∧
  State.reset.parts = [] ∧ State.reset.vds = [] ∧ State.reset.fes = [] ∧ State.reset.comms = [] ∧ State.reset.places = [] ∧
  State.reset.saves = [] ∧ State.reset.pageReqs = [] ∧ State.reset.pageHeld = [] ∧ State.reset.hvLog = [] ∧ State.reset.errHeld = [] ∧
  timeNs State.reset = 0 ∧ State.reset.timeSet = false ∧
  (∀ d, d < 4 → (dieAt State.reset d).point = 0 ∧ (dieAt State.reset d).limit = 7 ∧ (dieAt State.reset d).ceiling = 7) ∧
  (∀ v, (vdAt State.reset v).valid = false ∧ (vdAt State.reset v).tqn = 0 ∧ (vdAt State.reset v).trn = 0) ∧
  State.reset.links.length = 16 ∧ (∀ l ∈ State.reset.links, l.up = true ∧ l.tx = 0 ∧ l.rx = 0 ∧ l.out = [] ∧ l.sent = [] ∧ l.asked = false) ∧
  State.reset.boxFrozen = false ∧
  State.reset.box.map (fun e => (e.code, e.seq.toNat, e.time, e.data)) = (List.range 7).map (fun k => (0x01, k, 0, k + 1)) ∧
  State.reset.config = ConfigRec.shipped ∧ (∀ d ∈ State.reset.agenda, d.ev = .patrolScrub ∧ d.moment = .ns scrubPeriod)

/-- At reset device memory and the code stores are in canonical form: the model's own invariant. -/
def Obligations.ResetIsCanonical : Prop :=
  canonical State.reset = true

/-- Every step keeps device memory and the code stores in canonical form, addresses rising strictly and no byte listed that reads as an unlisted address would: equal memories are equal data. The canonical form is the model's own invariant. -/
def Obligations.StepsKeepMemoryCanonical : Prop :=
  ∀ s t, canonical s = true → step s = .next t → canonical t = true
end

