-- ==== Sys2Proof/Machine/AsmLine.lean ====
section
/-!
DEFINITION. From a line of source text to an instruction (R9, R142, R358 to R360 and the written forms that the entries give):
lexical rules, operands, modifiers and scheduling fields. What a line is encoded as is in AsmKernel.lean.
-/
namespace Sys2Proof.Asm

open Sys2Proof.Machine

/-- Why the assembler refuses a line or a kernel (R358 to R369). Each is raised before any image exists, so all are safe. -/
inductive AsmStop where
  /-- the line is none of the forms of R358, or an upper-case letter stands where R358 refuses it -/
  | line
  /-- an unknown mnemonic, modifier or type, or a modifier that the instruction does not accept (R359, R369) -/
  | mnemonic
  /-- an operand outside R359 or outside its class, one too many, or one missing that has no default (R369) -/
  | operand
  /-- a constant outside the range of its type (R359) -/
  | constant
  /-- a second literal (R360) -/
  | literals
  /-- a scheduling field outside R360, or one written twice -/
  | scheduling
  /-- a label that R358 refuses, that is defined twice, or that no line defines -/
  | label
  /-- a directive outside R363, or with other arguments -/
  | directive
  /-- a role or ring declared twice, or a ring whose roles R364 cannot derive -/
  | ring
  /-- a register at or above the vector budget (R365) -/
  | budget
  /-- `.data` values that are misaligned or overlap (R366) -/
  | data
  /-- code, or a branch target, beyond the code store (R369) -/
  | codeStore
  /-- the word would trap with this cause (R79, R369) -/
  | illegal (cause : Nat)
  /-- the template would fail R88 with this status (R367) -/
  | template (status : Nat)
  deriving DecidableEq, Repr

abbrev Txt := List Char

/-! ### Characters, words and numbers (R358) -/

def isBlank (c : Char) : Bool := c == ' ' || c == '\t'
def isDigit (c : Char) : Bool := 48 ≤ c.toNat && c.toNat ≤ 57
def isLower (c : Char) : Bool := 97 ≤ c.toNat && c.toNat ≤ 122
def isLetter (c : Char) : Bool := isLower c || (65 ≤ c.toNat && c.toNat ≤ 90)
def isNameChar (c : Char) : Bool := isLetter c || isDigit c || c == '_'

/-- The text without blanks at its ends. -/
def trimTxt (t : Txt) : Txt := ((t.dropWhile isBlank).reverse.dropWhile isBlank).reverse

/-- The text before a comment (R358). -/
def beforeComment : Txt → Txt
  | [] => []
  | ';' :: _ => []
  | '/' :: '/' :: _ => []
  | c :: r => c :: beforeComment r

/-- The parts of a text between separators. -/
def splitTxt (sep : Char) : Txt → List Txt
  | [] => [[]]
  | c :: r =>
    match splitTxt sep r with
    | [] => [[]]
    | p :: ps => if c == sep then [] :: p :: ps else (c :: p) :: ps

/-- The parts joined again. -/
def joinTxt (sep : Char) : List Txt → Txt
  | [] => []
  | [p] => p
  | p :: ps => p ++ sep :: joinTxt sep ps

/-- The value of a digit; 99 for any other character. -/
def digitOf (c : Char) : Nat :=
  let n := c.toNat
  if isDigit c then n - 48 else if 97 ≤ n && n ≤ 102 then n - 87 else if 65 ≤ n && n ≤ 70 then n - 55 else 99

/-- Digits of a base. -/
def digitsTxt (base : Nat) (t : Txt) : Option Nat :=
  if t.isEmpty || t.any (fun c => base ≤ digitOf c) then none else some (t.foldl (fun a c => a * base + digitOf c) 0)

/-- Digits with underscores between them. -/
def spacedDigits (base : Nat) (t : Txt) : Option Nat :=
  if t.head? == some '_' || t.getLast? == some '_' then none else digitsTxt base (t.filter (· != '_'))

/-- A constant without its sign (R358). -/
def natTxt : Txt → Option Nat
  | '0' :: 'x' :: r => spacedDigits 16 r
  | '0' :: 'b' :: r => spacedDigits 2 r
  | t => digitsTxt 10 t

/-- A constant (R358). -/
def intTxt : Txt → Option Int
  | '-' :: r => (natTxt r).map (fun n => -(n : Int))
  | t => (natTxt t).map (fun n => (n : Int))

/-- A letter, then letters, digits and underscores (R358). -/
def isName (t : Txt) : Bool :=
  match t with
  | [] => false
  | c :: r => isLetter c && r.all isNameChar

/-- The place of a text in a list of words. -/
def wordIndex (ws : List String) (t : Txt) : Option Nat :=
  (ws.zipIdx.find? (fun p => p.1.toList == t)).map (·.2)

/-! ### Registers and operands (R359) -/

/-- The class that a letter names (R70). -/
def classOfChar (c : Char) : Option RegClass :=
  match c with
  | 'v' => some .v
  | 's' => some .s
  | 'k' => some .k
  | 'o' => some .o
  | 'a' => some .a
  | 'c' => some .c
  | 'q' => some .q
  | 'b' => some .b
  | _ => none

/-- A register of R70. -/
def regTxt (t : Txt) : Option (RegClass × Nat) :=
  match t with
  | [] => none
  | c :: r =>
    match classOfChar c, digitsTxt 10 r with
    | some k, some n => if n ≤ classMax k then some (k, n) else none
    | _, _ => none

/-- The special registers in the order of their kind-1 codes from 0x40 (R67). -/
def specialNames : List String :=
  ["%lane", "%group", "%team", "%time", "%rgn", "%gang", "%mcap", "%mres", "%place", "%seed"]

/-- What an operand names. -/
inductive Atom where
  | reg (c : RegClass) (n : Nat) (trap : Bool)
  | special (code : Nat) (trap : Bool)
  | const (x : Int)
  | name (t : Txt)
  deriving DecidableEq, Repr

/-- An operand as written: plain, or an address in brackets. -/
inductive Operand where
  | plain (a : Atom)
  | addr (base : Atom) (off : Option Atom)
  deriving DecidableEq, Repr

/-- A register, special register, constant or label. -/
def atomTxt (t : Txt) : Option Atom :=
  let trap := t.reverse.take 2 == ['t', ':']
  let core := if trap then t.take (t.length - 2) else t
  match regTxt core, wordIndex specialNames core with
  | some (c, n), _ => some (.reg c n trap)
  | none, some i => some (.special (0x40 + i) trap)
  | none, none =>
    if trap then none
    else
      match intTxt t with
      | some x => some (.const x)
      | none => if isName t then some (.name t) else none

/-- An operand of R359. -/
def operandTxt (t : Txt) : Option Operand :=
  match t with
  | '[' :: r =>
    if r.getLast? != some ']' then none
    else
      match (splitTxt '+' r.dropLast).map (fun p => atomTxt (trimTxt p)) with
      | [some b] => some (.addr b none)
      | [some b, some o] => some (.addr b (some o))
      | _ => none
  | _ => (atomTxt t).map .plain

/-! ### Mnemonics, types and modifiers (R48, R66, R68, R69, R77, R142 and the entries) -/

/-- The mnemonic of an opcode, as the map of R77 writes it. -/
def opName : Op → String
  | .nop => "nop"
  | .br => "br"
  | .brZ => "br.z"
  | .brNz => "br.nz"
  | .brLz => "br.lz"
  | .brGez => "br.gez"
  | .brx => "brx"
  | .call => "call"
  | .callx => "callx"
  | .ret => "ret"
  | .exit => "exit"
  | .yield => "yield"
  | .split => "split"
  | .barArrive => "bar.arrive"
  | .barWait => "bar.wait"
  | .barSync => "bar.sync"
  | .barDrop => "bar.drop"
  | .qpush => "qpush"
  | .qpop => "qpop"
  | .sadd => "sadd"
  | .ssub => "ssub"
  | .smul => "smul"
  | .sand => "sand"
  | .sor => "sor"
  | .sxor => "sxor"
  | .sshl => "sshl"
  | .sshr => "sshr"
  | .smin => "smin"
  | .smax => "smax"
  | .smov => "smov"
  | .ssel => "ssel"
  | .vaddS32 => "vadd"
  | .vsubS32 => "vsub"
  | .vmulS32 => "vmul"
  | .vmad => "vmad"
  | .vand => "vand"
  | .vor => "vor"
  | .vxor => "vxor"
  | .vshl => "vshl"
  | .vshr => "vshr"
  | .vminS32 => "vmin"
  | .vmaxS32 => "vmax"
  | .vabsS32 => "vabs"
  | .vnegS32 => "vneg"
  | .vsel => "vsel"
  | .vmov => "vmov"
  | .vdot4 => "vdot4"
  | .vaddF32 => "vadd"
  | .vsubF32 => "vsub"
  | .vmulF32 => "vmul"
  | .vfma => "vfma"
  | .vfms => "vfms"
  | .vfnma => "vfnma"
  | .vminF32 => "vmin"
  | .vmaxF32 => "vmax"
  | .vabsF32 => "vabs"
  | .vnegF32 => "vneg"
  | .vdiv => "vdiv"
  | .vsqrt => "vsqrt"
  | .vrsqrt => "vrsqrt"
  | .vrcp => "vrcp"
  | .vexp2 => "vexp2"
  | .vlog2 => "vlog2"
  | .vexp => "vexp"
  | .vlog => "vlog"
  | .vsin => "vsin"
  | .vcos => "vcos"
  | .vtanh => "vtanh"
  | .vsigm => "vsigm"
  | .vrint => "vrint"
  | .vscale => "vscale"
  | .vpack => "vpack"
  | .vunpack => "vunpack"
  | .vshfl => "vshfl"
  | .vbcast => "vbcast"
  | .vrot => "vrot"
  | .vbfly => "vbfly"
  | .vred => "vred"
  | .vballot => "vballot"
  | .vld => "vld"
  | .vst => "vst"
  | .vldw => "vldw"
  | .vstw => "vstw"
  | .vlds => "vlds"
  | .vsts => "vsts"
  | .vldsw => "vldsw"
  | .vstsw => "vstsw"
  | .vldb => "vldb"
  | .fence => "fence"
  | .vaadd => "vaadd"
  | .vradd => "vradd"
  | .vcmpS32 => "vcmp"
  | .vcmpF32 => "vcmp"
  | .vkop => "vkop"
  | .sspr => "sspr"
  | .scmp => "scmp"
  | .slea => "slea"
  | .sbfe => "sbfe"
  | .sbfi => "sbfi"
  | .sclz => "sclz"
  | .spopc => "spopc"
  | .vclz => "vclz"
  | .vpopc => "vpopc"
  | .vbfe => "vbfe"
  | .vbfi => "vbfi"
  | .vmulh => "vmulh"
  | .vadds => "vadds"
  | .vsubs => "vsubs"
  | .callv => "callv"
  | .retv => "retv"
  | .brAny => "br.any"
  | .brAll => "br.all"
  | .migrate => "migrate"
  | .launch => "launch"
  | .launchWait => "launch.wait"
  | .sleep => "sleep"
  | .smulh => "smulh"
  | .sdiv => "sdiv"
  | .srem => "srem"
  | .barTest => "bar.test"
  | .barAdd => "bar.add"
  | .qpushn => "qpushn"
  | .qpopn => "qpopn"
  | .qlen => "qlen"
  | .qpeek => "qpeek"
  | .vcvt => "vcvt"
  | .vquant => "vquant"
  | .vdequant => "vdequant"
  | .vext => "vext"
  | .vins => "vins"
  | .scvt => "scvt"
  | .vmant => "vmant"
  | .vexpo => "vexpo"
  | .vscan => "vscan"
  | .vldnf => "vldnf"
  | .vldk => "vldk"
  | .vstk => "vstk"
  | .vprf => "vprf"
  | .vamin => "vamin"
  | .vamax => "vamax"
  | .vaand => "vaand"
  | .vaor => "vaor"
  | .vaxor => "vaxor"
  | .vaxch => "vaxch"
  | .vacas => "vacas"
  | .vrmin => "vrmin"
  | .vrmax => "vrmax"
  | .vrbit => "vrbit"
  | .mmac => "mmac"
  | .mgmac => "mgmac"
  | .mmaci => "mmaci"
  | .mcbload => "mcbload"
  | .msmx => "msmx"
  | .msnorm => "msnorm"
  | .mclaim => "mclaim"
  | .mrel => "mrel"
  | .mfeed => "mfeed"
  | .mfeeda => "mfeeda"
  | .mst => "mst"
  | .mld => "mld"
  | .mzero => "mzero"
  | .mpoly => "mpoly"
  | .miterG => "miter.g"
  | .miterS => "miter.s"
  | .mgang => "mgang"
  | .mgleave => "mgleave"
  | .mcoef => "mcoef"
  | .mscale => "mscale"
  | .mtrans => "mtrans"
  | .mstat => "mstat"
  | .xcopy => "xcopy"
  | .xcopy2 => "xcopy2"
  | .xcopy3 => "xcopy3"
  | .xgath => "xgath"
  | .xscat => "xscat"
  | .xslot => "xslot"
  | .xfill => "xfill"
  | .xprf => "xprf"
  | .xred => "xred"
  | .xstat => "xstat"
  | .xcancel => "xcancel"
  | .xhand => "xhand"
  | .hdist => "hdist"
  | .hpin => "hpin"
  | .hunpin => "hunpin"
  | .hpre => "hpre"
  | .hdemote => "hdemote"
  | .hocc => "hocc"
  | .pmake => "pmake"
  | .pfill => "pfill"
  | .peq => "peq"
  | .pwait => "pwait"
  | .ppoll => "ppoll"
  | .pfind => "pfind"
  | .lput => "lput"
  | .lget => "lget"
  | .lallred => "lallred"
  | .lallgat => "lallgat"
  | .lredsc => "lredsc"
  | .lbcast => "lbcast"
  | .trap => "trap"
  | .rgn => "rgn"
  | .brk => "brk"
  | .mark => "mark"
  | .evt => "evt"
  | .opt => "opt"
  | .prio => "prio"
  | .gstat => "gstat"

/-- The type suffixes in the order of their codes from 1 (R68). -/
def typeNames : List String :=
  ["s4", "s8", "s16", "s32", "s64", "n4", "n8", "n16", "n32", "n64", "f32", "f16", "bf16", "e4m3", "e5m2", "e2m1", "cb2"]

/-- The kinds of modifier. -/
inductive ModKind where
  /-- a comparison (R69) -/
  | cmp
  /-- an operation of `vkop` (R147) -/
  | kop
  /-- an operation of `vred` and `vscan` (R155) -/
  | red
  /-- the exclusive scan (R156) -/
  | excl
  /-- the operation of `vrbit` (R171) -/
  | bit
  /-- ordering, scope and policy (R69) -/
  | ord
  | scope
  | pol
  /-- rounding (R48) -/
  | rm
  /-- `.sat` (R51) -/
  | sat
  /-- the level of a barrier (R132) -/
  | level
  /-- a one-bit modifier of OPX by its word: bit and word -/
  | flag (bit : Nat) (word : String)
  /-- the direction of a copy (R261) -/
  | dir
  /-- the operation of `xred` and of a reducing collective (R261, R330) -/
  | redOp
  /-- the engine of a copy (R261) -/
  | engine
  /-- the communicator (R330) -/
  | comm
  /-- the mode of `mzero` (R249) -/
  | zero
  /-- the shape of `mmac` and `mgmac` (R236) and of `mmaci` (R244) -/
  | shape
  | quarterShape
  deriving DecidableEq, Repr

def memMods : List ModKind := [.ord, .scope, .pol]

/-- The modifiers of an opcode in the order in which they are written (R142 and the entries). -/
def opMods (o : Op) : List ModKind :=
  match o with
  | .barArrive | .barWait | .barSync | .barDrop => [.level]
  | .sleep => [.flag 0 "abs"]
  | .scmp | .vcmpS32 | .vcmpF32 => [.cmp]
  | .vkop => [.kop]
  | .vred => [.red, .rm]
  | .vscan => [.red, .excl, .rm]
  | .vld | .vldw | .vldb | .vldnf | .vst | .vstw | .vaadd | .vamin | .vamax | .vaand | .vaor | .vaxor | .vaxch | .vacas
  | .vradd | .vrmin | .vrmax | .vprf | .fence => memMods
  | .vrbit => .bit :: memMods
  | .mmac | .mgmac => [.shape]
  | .mmaci => [.flag 8 "ta", .flag 7 "neg", .quarterShape]
  | .mfeeda => [.flag 0 "tr", .sat]
  | .mzero => [.zero]
  | .xcopy | .xcopy2 | .xcopy3 | .xgath | .xscat | .xfill => [.dir, .engine, .flag 2 "device", .pol]
  | .xslot | .xprf => [.engine, .pol]
  | .xred => [.redOp, .engine, .flag 2 "device", .pol]
  | .xstat | .xcancel | .xhand => [.engine]
  | .hdist => [.flag 0 "copy"]
  | .hdemote => [.flag 0 "out"]
  | .pmake | .pfill | .peq | .pwait | .ppoll => [.scope]
  | .lput | .lget => [.pol]
  | .lallred | .lredsc => [.redOp, .comm]
  | .lallgat | .lbcast => [.comm]
  | _ =>
    let m := opForm o (baseAsExt o ⟨0, 0, 0, 0, 0⟩)
    (if m.rounds then [.rm] else []) ++ (if m.sats then [.sat] else [])

def cmpNames : List String := ["eq", "ne", "lt", "le", "gt", "ge", "num", "nan"]
def kopNames : List String := ["and", "or", "xor", "andn", "orn", "not", "mov", "set"]
def redNames : List String := ["add", "max", "min", "and", "or", "xor"]
def bitNames : List String := ["and", "or", "xor"]
def ordNames : List String := ["", "acq", "rel", "acqrel"]
def scopeNames : List String := ["group", "team", "core", "cluster", "sector", "die", "device", "domain"]
def polNames : List String := ["near", "stay", "far", "dram"]
def rmNames : List String := ["rne", "rtz", "rdn", "rup", "rsr"]
def levelNames : List String := ["", "lev1", "lev2", "lev3", "lev4", "lev5", "lev6"]
def dirNames : List String := ["gs", "sg", "gg"]
def redOpNames : List String := ["add", "min", "max"]
def engineNames : List String := ["e0", "e1", "e2", "e3"]
def zeroNames : List String := ["", "sm", "all"]

/-- The c with 16 × 2^c = n, below a bound. -/
def sizeCode (bound n : Nat) : Option Nat := (List.range bound).find? (fun c => 16 * 2 ^ c == n)

/-- The three numbers of a shape as written, `mMnNkK` (R236). -/
def shapeTxt (t : Txt) : Option (Nat × Nat × Nat) :=
  match t with
  | 'm' :: r =>
    let m := r.takeWhile isDigit
    match r.dropWhile isDigit with
    | 'n' :: r2 =>
      let n := r2.takeWhile isDigit
      match r2.dropWhile isDigit with
      | 'k' :: k =>
        match digitsTxt 10 m, digitsTxt 10 n, digitsTxt 10 k with
        | some a, some b, some c => some (a, b, c)
        | _, _, _ => none
      | _ => none
    | _ => none
  | _ => none

/-- OPX of a shape: three 3-bit codes for `mmac` (R236), three 2-bit codes for `mmaci` (R244). -/
def shapeCode (width : Nat) (x : Nat × Nat × Nat) : Option Nat :=
  match sizeCode (2 ^ width) x.1, sizeCode (2 ^ width) x.2.1, sizeCode (2 ^ width) x.2.2 with
  | some a, some b, some c => some (a * 4 ^ width + b * 2 ^ width + c)
  | _, _, _ => none

/-- The shape when none is written: M = N = 128 and K = 2,048 / w (R236). -/
def defaultShape (width ty : Nat) : Nat :=
  let w := if ty = tyCb2 then 2 else max 1 (tyWidth ty)
  (shapeCode width (128, 128, 2048 / w)).getD 0

/-- What a line's modifiers put into its word: OPX, RM, SAT, and whether a shape or an operation of `vrbit` was written. -/
structure Mods where
  opx : Nat
  rm : Nat
  sat : Bool
  shape : Bool
  bit : Option Nat
  deriving DecidableEq, Repr

/-- A modifier of a kind, if the text is one. -/
def modTxt (k : ModKind) (m : Mods) (t : Txt) : Option Mods :=
  let named (ws : List String) (f : Nat → Mods) : Option Mods := if t.isEmpty then none else (wordIndex ws t).map f
  let opx (shift : Nat) (n : Nat) : Mods := { m with opx := m.opx + n * 2 ^ shift }
  match k with
  | .cmp => named cmpNames (opx 0)
  | .kop => named kopNames (opx 0)
  | .red => named redNames (opx 0)
  | .excl => named ["excl"] (fun _ => opx 3 1)
  | .bit => named bitNames (fun n => { m with bit := some n })
  | .ord => named ordNames (opx 2)
  | .scope => named scopeNames (opx 5)
  | .pol => named polNames (opx 0)
  | .rm => named rmNames (fun n => { m with rm := n })
  | .sat => named ["sat"] (fun _ => { m with sat := true })
  | .level => named levelNames (opx 0)
  | .flag b w => named [w] (fun _ => opx b 1)
  | .dir => named dirNames (opx 7)
  | .redOp => named redOpNames (opx 7)
  | .engine => named engineNames (fun n => opx 3 (4 + n))
  | .comm =>
    match t with
    | 'c' :: 'o' :: 'm' :: 'm' :: r => (digitsTxt 10 r).bind (fun n => if n < 16 then some (opx 2 n) else none)
    | _ => none
  | .zero => named zeroNames (opx 0)
  | .shape => ((shapeTxt t).bind (shapeCode 3)).map (fun n => { opx 0 n with shape := true })
  | .quarterShape => ((shapeTxt t).bind (shapeCode 2)).map (fun n => { opx 0 n with shape := true })

/-- Whether an entry, or R142, says in which order an opcode's modifiers stand; R244 does not. -/
def modsOrdered (o : Op) : Bool := o != .mmaci

/-- Modifiers, each of a kind that no other one has: in the order of the kinds where that order is stated. -/
def modsTxt (ordered : Bool) : List ModKind → Mods → List Txt → Option Mods
  | _, m, [] => some m
  | ks, m, t :: ts =>
    match ks.find? (fun k => (modTxt k m t).isSome) with
    | none => none
    | some k =>
      match modTxt k m t with
      | none => none
      | some m2 => modsTxt ordered (if ordered then (ks.dropWhile (· != k)).tail else ks.filter (· != k)) m2 ts

/-- The opcodes of a name; two where R77 gives an integer and a floating-point form. -/
def opsNamed (t : Txt) : List Op := opList.filter (fun o => (opName o).toList == t)

/-- The opcodes of the longest leading part of a mnemonic that is a name, and the parts after it. -/
def nameParts (n : Nat) (ps : List Txt) : Option (List Op × List Txt) :=
  match n with
  | 0 => none
  | k + 1 =>
    match opsNamed (joinTxt '.' (ps.take (k + 1))) with
    | [] => nameParts k ps
    | os => some (os, ps.drop (k + 1))

/-- A word with nothing in it. -/
def emptyExt : ExtWord := ⟨0, 0, false, 0, 0, 0, 0, 0, 0, 0, 0, false, false, false, 0, 0, false, false, 0, 0, none⟩

def isConversion (o : Op) : Bool := o == .vcvt || o == .scvt

/-- A mnemonic with its modifiers and types (R359): the opcode, the word so far and an operation of `vrbit`. -/
def mnemonicTxt (t : Txt) : Except AsmStop (Op × ExtWord × Option Nat) :=
  let ps := splitTxt '.' t
  match nameParts ps.length ps with
  | none => .error .mnemonic
  | some (os, rest) =>
    let ms := rest.takeWhile (fun p => (wordIndex typeNames p).isNone)
    let ts := (rest.drop ms.length).map (fun p => (wordIndex typeNames p).map (· + 1))
    let conv := os.any isConversion
    match ts with
    | _ :: _ :: _ :: _ => .error .mnemonic
    | _ =>
      let ty := (ts.head?.getD (some 0)).getD 99
      match os.find? (fun o => (opForm o emptyExt).types.contains ty) with
      | none => .error .mnemonic
      | some o =>
        match modsTxt (modsOrdered o) (opMods o) ⟨0, 0, false, false, none⟩ ms with
        | none => .error .mnemonic
        | some m =>
          if ts.contains none || ts.length == 2 && !conv || ts.length != 2 && conv then .error .mnemonic
          else
            let src := if conv then ((ts.getD 1 none).getD 0) else 0
            let dflt := if m.shape then 0 else
              match o with
              | .mmac | .mgmac => defaultShape 3 ty
              | .mmaci => defaultShape 2 ty
              | _ => 0
            .ok (o, { emptyExt with
              ty := BitVec.ofNat 5 ty
              opx := BitVec.ofNat 9 (m.opx + src + dflt)
              rm := BitVec.ofNat 3 m.rm
              sat := m.sat }, m.bit)

/-! ### Where operands are encoded (R359, R360 and the forms of the entries) -/

/-- Where one written operand goes. -/
inductive Place where
  /-- a register, special register or constant in a field: 0 D, 1 SA, 2 SB, 3 SC -/
  | field (i : Nat)
  /-- an address of a base in SA and an offset in SB -/
  | baseOffset
  /-- an address of one register, or constant, in a field -/
  | address (i : Nat)
  /-- a label (R109) -/
  | target
  /-- a slot list or a mask (R245) -/
  | slots
  /-- an operand that may be absent; its field is then 0 -/
  | maybe (i : Nat)
  /-- SC of `sbfi`: D where it is absent (R126) -/
  | tied
  /-- the count of `mfeed`: 0 where it is absent (R246) -/
  | feedCount
  /-- a trailing constant from `lo` to `hi`, held in OPX less `lo` at a bit; its OPX value where it is absent -/
  | tail (lo hi bit : Nat) (absent : Option Nat)
  /-- the barrier of a copy or link instruction, which sets OPX<6> (R261, R330) -/
  | barrier
  /-- the signal address of `lput`, which sets OPX<6> (R330) -/
  | signal
  deriving DecidableEq, Repr

/-- The fields an opcode uses, in the order D, SA, SB, SC. -/
def plainPlaces (o : Op) (e : ExtWord) : List Place :=
  let m := opForm o e
  ([(0, m.d), (1, m.a), (2, m.b), (3, m.c)].filter (fun p => p.2 != .zero)).map (fun p => .field p.1)

/-- The written operands of an opcode in order. -/
def opPlaces (o : Op) (e : ExtWord) (bit : Option Nat) : List Place :=
  match o with
  | .br => [.target]
  | .brZ | .brNz | .brLz | .brGez | .brAny | .brAll | .call => [.field 0, .target]
  | .slea => [.field 0, .field 1, .field 2, .tail 0 7 0 (some 0)]
  | .sbfi => [.field 0, .field 1, .field 2, .tied]
  | .vcvt | .vunpack => [.field 0, .field 1, .tail 0 7 5 (some 0)]
  | .vquant | .vdequant => [.field 0, .field 1, .field 2, .tail 0 7 5 (some 0)]
  | .vld | .vlds | .vldb | .vldk => [.field 0, .baseOffset]
  | .vldw | .vldsw => [.field 0, .baseOffset, .field 3]
  | .vst | .vsts | .vstk => [.baseOffset, .field 0]
  | .vstw | .vstsw => [.baseOffset, .field 0, .field 3]
  | .vldnf => [.field 0, .field 3, .baseOffset]
  | .vprf => [.baseOffset]
  | .vaadd | .vamin | .vamax | .vaand | .vaor | .vaxor | .vaxch | .vacas => [.field 0, .baseOffset, .field 3]
  | .vradd | .vrmin | .vrmax => [.baseOffset, .field 0]
  | .vrbit => [.baseOffset, .field 0] ++ (if bit.isSome then [] else [.field 3])
  | .mcbload => [.address 1]
  | .msmx => [.field 0, .field 1, .field 2, .tail 1 128 0 (some 127)]
  | .mclaim | .mrel => [.slots]
  | .mfeed => [.field 0, .address 1, .feedCount]
  | .mst => [.address 1, .field 2, .tail 1 128 0 (some 127)]
  | .mld => [.field 0, .address 1, .tail 1 128 0 (some 127)]
  | .mzero => if e.opx == 2 then [.maybe 0] else [.field 0]
  | .mpoly => [.field 0, .field 1, .field 2, .tail 1 256 0 none]
  | .miterG | .miterS => [.field 0, .tail 1 256 0 none]
  | .xcopy | .xcopy2 | .xcopy3 | .xgath | .xscat | .xred => [.address 0, .address 1, .field 2, .barrier]
  | .xslot => [.field 0, .address 1, .field 2, .barrier]
  | .xfill => [.address 0, .field 1, .field 2, .barrier]
  | .xprf | .hunpin | .hdemote | .pfill => [.address 1, .field 2]
  | .hdist | .hocc | .pwait | .pfind => [.field 0, .address 1]
  | .hpin => [.field 0, .address 1, .field 2]
  | .hpre => [.address 1, .field 2, .field 3]
  | .pmake => [.address 1]
  | .peq => [.address 1, .address 2]
  | .ppoll => [.field 0, .field 3, .address 1]
  | .lput => [.address 0, .address 1, .field 2, .signal]
  | .lget | .lallred | .lallgat | .lredsc | .lbcast => [.address 0, .address 1, .field 2, .barrier]
  | _ => plainPlaces o e

/-- The type under which the constant in a field is read (R68): the word's, but for the fields that an entry reads
otherwise; 0 for 64-bit addresses, counts, codes and selectors. -/
def constType (o : Op) (e : ExtWord) (i : Nat) : Nat :=
  match o with
  | .vcvt | .scvt => e.opx.toNat % 32
  | .vpack => tyF32
  | .vquant => if i = 1 then tyF32 else tyN32
  | .vdequant => if i = 1 then e.ty.toNat else tyN32
  | .vscale => if i = 2 then tyS32 else e.ty.toNat
  | .vdot4 => if i = 3 then tyS32 else e.ty.toNat
  | .slea => if i = 1 then tyNone else e.ty.toNat
  | .xfill => if i = 1 then e.ty.toNat else tyNone
  | .xred | .lallred | .lredsc | .mmac | .mgmac | .mpoly | .vldw | .vstw | .vldsw | .vstsw | .vrbit => tyNone
  | _ => e.ty.toNat

/-- Whether a constant lies in the range of a type (R359). -/
def constFits (t : Nat) (x : Int) : Bool :=
  let n := if t = 0 then 64 else tyWidth t
  let lo : Int := if t = tyF32 || t = tyF16 || t = tyBf16 then -128 else if t = 0 || tyInt t then -(2 ^ (n - 1)) else 0
  decide (lo ≤ x) && decide (x < 2 ^ n)

/-- A field with its kind and trap bit. -/
def putField (e : ExtWord) (i v k : Nat) (trap : Bool) : ExtWord :=
  let f := BitVec.ofNat 8 v
  let kk := BitVec.ofNat 2 k
  match i with
  | 0 => { e with d := f }
  | 1 => { e with sa := f, ka := kk, tra := trap }
  | 2 => { e with sb := f, kb := kk, trb := trap }
  | _ => { e with sc := f, kc := kk, trc := trap }

/-- The slot of a field. -/
def formSlot (m : OpForm) (i : Nat) : Slot :=
  match i with
  | 0 => m.d
  | 1 => m.a
  | 2 => m.b
  | _ => m.c

/-- A constant in a field: an immediate from −128 to 127, else the literal (R360). -/
def putConst (e : ExtWord) (t i : Nat) (x : Int) : Except AsmStop ExtWord :=
  if !(constFits t x) then .error .constant
  else if -128 ≤ x ∧ x ≤ 127 then .ok (putField e i (x % 256).toNat 2 false)
  else if e.lit.isSome then .error .literals
  else .ok { putField e i 0 3 false with lit := some (BitVec.ofInt 64 x) }

/-- An operand in a field (R67, R359). -/
def putAtom (o : Op) (e : ExtWord) (t i : Nat) (a : Atom) : Except AsmStop ExtWord :=
  match formSlot (opForm o e) i, a with
  | .src c ks, .reg d n trap =>
    if c == d && ks.contains 0 then .ok (putField e i n 0 trap)
    else if d == .s && ks.contains 1 then .ok (putField e i n 1 trap)
    else .error .operand
  | .src _ ks, .special code trap => if ks.contains 1 then .ok (putField e i code 1 trap) else .error .operand
  | .src _ ks, .const x => if ks.contains 2 || ks.contains 3 then putConst e t i x else .error .operand
  | .dst c, .reg d n trap => if c == d && !trap then .ok (putField e i n 0 false) else .error .operand
  | .upd c, .reg d n trap => if c == d && !trap then .ok (putField e i n 0 false) else .error .operand
  | .spr, .special code trap => if trap then .error .operand else .ok (putField e i code 0 false)
  | _, _ => .error .operand

/-- The mask of a slot list (R245). -/
def slotMask : List Operand → Option Nat
  | [] => some 0
  | .plain (.reg .o n false) :: r => (slotMask r).map (fun m => if m.testBit n then m else m + 2 ^ n)
  | _ => none

/-- Add to OPX. -/
def addOpx (e : ExtWord) (n : Nat) : ExtWord := { e with opx := BitVec.ofNat 9 (e.opx.toNat + n) }

/-- Encode one place: the word, the operands left, and the label of a branch. -/
def putPlace (o : Op) (e : ExtWord) (p : Place) (xs : List Operand) :
    Except AsmStop (ExtWord × List Operand × Option Txt) :=
  match p, xs with
  | .field i, .plain a :: r => (putAtom o e (constType o e i) i a).map (fun e2 => (e2, r, none))
  | .maybe i, .plain a :: r => (putAtom o e tyNone i a).map (fun e2 => (e2, r, none))
  | .maybe _, [] => .ok (e, [], none)
  | .tied, .plain a :: r => (putAtom o e tyNone 3 a).map (fun e2 => (e2, r, none))
  | .tied, [] => .ok (putField e 3 e.d.toNat 0 false, [], none)
  | .baseOffset, .addr b (some f) :: r =>
    match putAtom o e tyNone 1 b with
    | .error k => .error k
    | .ok e1 => (putAtom o e1 tyNone 2 f).map (fun e2 => (e2, r, none))
  | .address i, .addr b none :: r => (putAtom o e tyNone i b).map (fun e2 => (e2, r, none))
  | .target, .plain (.name t) :: r => .ok (e, r, some t)
  | .slots, .plain (.reg .o n t) :: r =>
    match slotMask (.plain (.reg .o n t) :: r) with
    | none => .error .operand
    | some m => (putConst e tyNone 1 m).map (fun e2 => (e2, [], none))
  | .slots, .plain a :: r => (putAtom o e tyNone 1 a).map (fun e2 => (e2, r, none))
  | .feedCount, .plain a :: r => (putAtom o e tyNone 2 a).map (fun e2 => (e2, r, none))
  | .feedCount, [] => .ok (putField e 2 0 2 false, [], none)
  | .tail lo hi b _, .plain (.const x) :: r =>
    if (lo : Int) ≤ x ∧ x ≤ hi then .ok (addOpx e ((x.toNat - lo) * 2 ^ b), r, none) else .error .operand
  | .tail _ _ b (some d), [] => .ok (addOpx e (d * 2 ^ b), [], none)
  | .barrier, .plain a :: r => (putAtom o (addOpx e 64) tyNone 3 a).map (fun e2 => (e2, r, none))
  | .barrier, [] => .ok (e, [], none)
  | .signal, .addr a none :: r => (putAtom o (addOpx e 64) tyNone 3 a).map (fun e2 => (e2, r, none))
  | .signal, [] => .ok (e, [], none)
  | _, _ => .error .operand

/-- Encode the places of an opcode in turn; every operand must find one. -/
def putPlaces (o : Op) : List Place → ExtWord → List Operand → Option Txt → Except AsmStop (ExtWord × Option Txt)
  | [], e, [], t => .ok (e, t)
  | [], _, _ :: _, _ => .error .operand
  | p :: ps, e, xs, t =>
    match putPlace o e p xs with
    | .error k => .error k
    | .ok (e2, r, t2) => putPlaces o ps e2 r (if t2.isSome then t2 else t)

/-! ### Lines (R9, R358, R360) -/

/-- Distinct flags as a mask (R360). -/
def flagMask : List Txt → Option Nat
  | [] => some 0
  | t :: r =>
    match digitsTxt 10 (trimTxt t), flagMask r with
    | some n, some m => if n < 12 && !(m.testBit n) then some (m + 2 ^ n) else none
    | _, _ => none

/-- The scheduling fields of a line (R360): a distance, a wait set and a flag, each at most once. -/
structure Sched where
  dist : Option Nat
  wait : Option Nat
  flag : Option Nat
  deriving DecidableEq, Repr

/-- Scheduling fields, each without its `!`. -/
def schedTxt : List Txt → Option Sched
  | [] => some ⟨none, none, none⟩
  | f :: r =>
    match schedTxt r with
    | none => none
    | some s =>
      match f with
      | 'd' :: t =>
        match digitsTxt 10 t with
        | some n => if n < 32 && s.dist.isNone then some { s with dist := some n } else none
        | none => none
      | 'w' :: t =>
        match flagMask (splitTxt ',' t) with
        | some m => if s.wait.isNone then some { s with wait := some m } else none
        | none => none
      | 'f' :: t =>
        match digitsTxt 10 t with
        | some n => if n < 12 && s.flag.isNone then some { s with flag := some n } else none
        | none => none
      | _ => none

/-- An instruction line: its opcode, its word with the branch displacement still 0, and the label it branches to. -/
structure AsmInstr where
  op : Op
  word : ExtWord
  target : Option Txt
  deriving DecidableEq, Repr

/-- A predicate, `?kN` or `?!kN`, at the head of a text (R9): whether one stands there, PN, PK and the text after it. -/
def predicateTxt (t : Txt) : Option (Bool × Bool × Nat × Txt) :=
  match t with
  | '?' :: r =>
    let neg := r.head? == some '!'
    let r1 := if neg then r.tail else r
    match regTxt (r1.takeWhile (fun c => !(isBlank c))) with
    | some (.k, n) => some (true, neg, n, trimTxt (r1.dropWhile (fun c => !(isBlank c))))
    | _ => none
  | _ => some (false, false, 0, t)

/-- The operands of a line; an empty text has none. -/
def operandsTxt (t : Txt) : Option (List Operand) :=
  if (trimTxt t).isEmpty then some [] else (splitTxt ',' t).mapM (fun p => operandTxt (trimTxt p))

/-- An instruction line without its label and comment (R9). -/
def instrTxt (t : Txt) : Except AsmStop AsmInstr :=
  match predicateTxt t with
  | none => .error .operand
  | some (pe, pn, pk, t1) =>
    let mn := t1.takeWhile (fun c => !(isBlank c) && c != '!')
    match splitTxt '!' (t1.drop mn.length) with
    | [] => .error .line
    | ops :: scs =>
      match mnemonicTxt mn, operandsTxt ops, schedTxt (scs.map trimTxt) with
      | .error k, _, _ => .error k
      | _, none, _ => .error .operand
      | _, _, none => .error .scheduling
      | .ok (o, e0, bit), some xs, some s =>
        let e1 := { e0 with
          pe := pe
          pn := pn
          pk := BitVec.ofNat 3 pk
          dist := BitVec.ofNat 5 (s.dist.getD 0)
          wait := BitVec.ofNat 12 (s.wait.getD 0)
          setf := BitVec.ofNat 4 (match s.flag with | none => 0 | some n => n + 1) }
        let e2 := match bit with
          | none => e1
          | some n => putField e1 3 n 2 false
        (putPlaces o (opPlaces o e2 bit) e2 xs none).map (fun r => ⟨o, r.1, r.2⟩)

/-- A label may be a name that spells no register and no mnemonic; a special register is no name (R358). -/
def labelOk (t : Txt) : Bool := isName t && (regTxt t).isNone && (opsNamed t).isEmpty

/-- A line of source text (R358). -/
inductive AsmLine where
  | directive (word : Txt) (args : List Txt)
  | code (label : Option Txt) (instr : Option AsmInstr)
  deriving DecidableEq, Repr

/-- The arguments of a directive: texts between commas. -/
def argsTxt (t : Txt) : List Txt := if (trimTxt t).isEmpty then [] else (splitTxt ',' t).map trimTxt

/-- The label that a line begins with, if any, and the rest. -/
def takeLabel (t : Txt) : Option Txt × Txt :=
  let w := t.takeWhile isNameChar
  match t.drop w.length with
  | ':' :: r => if w.isEmpty then (none, t) else (some w, trimTxt r)
  | _ => (none, t)

/-- Read a line. -/
def lineTxt (t0 : Txt) : Except AsmStop AsmLine :=
  match trimTxt (beforeComment t0) with
  | [] => .ok (.code none none)
  | '.' :: r =>
    let w := r.takeWhile (fun c => !(isBlank c))
    .ok (.directive w (argsTxt (r.drop w.length)))
  | t =>
    let (l, r) := takeLabel t
    if !((l.map labelOk).getD true) then .error .label
    else if r.isEmpty then .ok (.code l none)
    else (instrTxt r).map (fun i => .code l (some i))

end Sys2Proof.Asm
end

