-- ==== Sys2Proof/Machine/AsmKernel.lean ====
section
/-!
DEFINITION. From source text to kernel images (R15, R109, R361 to R369): the wait-mask table, base or extended words, branch
displacements, directives, the launch-record template and the image that CODE names (R83, R348).
-/
namespace Sys2Proof.Asm

open Sys2Proof.Machine

/-! ### Base or extended (R361) -/

/-- The operand fields of a branch that is `disp` words from its target (R109). -/
def putTarget (e : ExtWord) (disp : Int) : ExtWord :=
  let low := (disp % 4096).toNat
  let s : Int := if low < 2048 then low else (low : Int) - 4096
  { e with
    sa := BitVec.ofNat 8 (low / 64)
    sb := BitVec.ofNat 8 (low % 64)
    sc := BitVec.ofNat 8 (((disp - s) / 4096) % 256).toNat }

/-- The entry of a wait-mask table that holds a wait set; entry 0 for the empty set (R71, R361). -/
def waitIndex (tab : List (Nat × Nat)) (w : Nat) : Option Nat :=
  if w = 0 then some 0 else (tab.find? (fun p => p.2 == w)).map (·.1)

/-- The base word of an extended word, where R361 gives one: R61 makes it mean exactly the same, no register number is
above 63, the distance is at most 3 and the wait set is in the table. A literal stands for Z. -/
def baseOf (tab : List (Nat × Nat)) (o : Op) (e : ExtWord) : Option Word3 :=
  match waitIndex tab e.wait.toNat with
  | none => none
  | some i =>
    let f : BaseWord := ⟨e.d.setWidth 6, e.sa.setWidth 6, e.sb.setWidth 6, BitVec.ofNat 3 i, e.dist.setWidth 2⟩
    let means (w : Word3) : Bool := (fieldsOf o w).e == { e with wait := 0 } && !(cause8 o w)
    if 0x080 ≤ opCode o || 3 < e.dist.toNat then none
    else if means (.base f) then some (.base f)
    else e.lit.bind (fun l => if means (.lit f l) then some (.lit f l) else none)

/-- The word that a line is emitted as (R361); `wide` keeps a branch extended. -/
def emitWord (tab : List (Nat × Nat)) (wide : Bool) (o : Op) (e : ExtWord) : Word3 :=
  if wide then .ext e else (baseOf tab o e).getD (.ext e)

/-! ### The wait-mask table (R362) -/

/-- The lowest entry from 1 to 7 that is not in use. -/
def freeEntry (tab : List (Nat × Nat)) : Option Nat :=
  [1, 2, 3, 4, 5, 6, 7].find? (fun i => !(tab.any (fun p => p.1 == i)))

/-- The table after a line with a wait set. -/
def addWait (tab : List (Nat × Nat)) (w : Nat) : List (Nat × Nat) :=
  if w = 0 || tab.any (fun p => p.2 == w) then tab
  else
    match freeEntry tab with
    | none => tab
    | some i => tab ++ [(i, w)]

/-- Entry i of the table as R71 stores it. -/
def tableEntry (tab : List (Nat × Nat)) (i : Nat) : Nat := ((tab.find? (fun p => p.1 == i)).map (·.2)).getD 0

/-! ### Layout (R58, R109, R369) -/

/-- Addresses of instructions of these sizes, and the address after the last. -/
def addresses : Nat → List Nat → List Nat
  | a, [] => [a]
  | a, n :: r => a :: addresses (a + n) r

/-- The address of a label among the addresses of a kernel's instructions. -/
def labelAddr (labels : List (Txt × Nat)) (as : List Nat) (t : Txt) : Option Nat :=
  match labels.find? (fun p => p.1 == t) with
  | none => none
  | some p => as[p.2]?

/-- The word of a line at its address, its branch displacement filled in. -/
def wordAt (labels : List (Txt × Nat)) (tab : List (Nat × Nat)) (as : List Nat) (wide : Bool) (a : Nat) (i : AsmInstr) :
    Word3 :=
  match i.target with
  | none => emitWord tab false i.op i.word
  | some t =>
    let x := (labelAddr labels as t).getD a
    emitWord tab wide i.op (putTarget i.word (((x : Int) - a) / 4))

/-- The words of a kernel's lines when branches marked wide are extended. -/
def layoutOnce (labels : List (Txt × Nat)) (tab : List (Nat × Nat)) (load : Nat) (is : List AsmInstr)
    (sizes : List Nat) : List Word3 :=
  let as := addresses load sizes
  (is.zip (as.zip sizes)).map (fun p => wordAt labels tab as (p.2.2 == 12) p.2.1 p.1)

/-- Lay the lines out with every branch as short as its range allows: a branch that does not reach is extended, and the
lines are laid out again. -/
def layout (labels : List (Txt × Nat)) (tab : List (Nat × Nat)) (load : Nat) (is : List AsmInstr) :
    Nat → List Nat → List Word3
  | 0, sizes => layoutOnce labels tab load is sizes
  | n + 1, sizes =>
    let ws := layoutOnce labels tab load is sizes
    if ws.map word3Bytes == sizes then ws else layout labels tab load is n (ws.map word3Bytes)

/-- The size of a line before any branch has been found too far. -/
def firstSize (tab : List (Nat × Nat)) (i : AsmInstr) : Nat := word3Bytes (emitWord tab false i.op i.word)

/-! ### Directives (R363 to R367) -/

def roleNames : List String := ["vector", "matrix", "copy", "callee"]
def roleLabels : List String := ["vec", "mat", "cpy"]
def domainNames : List String := ["lane", "group", "core", "cluster", "sector", "die", "device", "domain"]

/-- A kernel while its lines are read. -/
structure Kernel where
  name : Txt
  load : Nat
  /-- role, count and entry label, in the order of declaration -/
  roles : List (Nat × Nat × Option Txt)
  /-- ring, depth, pushing and popping role where they are given -/
  rings : List (Nat × Nat × Option (Nat × Nat))
  regs : Option Nat
  /-- the fixed entries of the wait-mask table -/
  waits : List (Nat × Nat)
  /-- offset and bytes of each `.data` line -/
  data : List (Nat × List Byte)
  launch : List (List Txt)
  labels : List (Txt × Nat)
  instrs : List AsmInstr
  deriving DecidableEq, Repr

/-- `.kernel name[, load]` (R363). -/
def openKernel (args : List Txt) : Except AsmStop Kernel :=
  let mk (n : Txt) (a : Nat) : Except AsmStop Kernel :=
    if n.isEmpty || a % 64 != 0 || 524288 ≤ a then .error .directive
    else .ok ⟨n, a, [], [], none, [], [], [], [], []⟩
  match args with
  | [n] => mk n 0
  | [n, a] =>
    match natTxt a with
    | some x => mk n x
    | none => .error .directive
  | _ => .error .directive

/-- `.role role, count[, label]` (R363). -/
def roleLine (k : Kernel) (args : List Txt) : Except AsmStop Kernel :=
  let add (r : Nat) (c : Txt) (l : Option Txt) : Except AsmStop Kernel :=
    match natTxt c with
    | none => .error .directive
    | some n =>
      if k.roles.any (fun x => x.1 == r) then .error .ring
      else if (if r = 3 then 8 else 64) < n then .error .directive
      else .ok { k with roles := k.roles ++ [(r, n, l)] }
  match args with
  | [r, c] => match wordIndex roleNames r with | some i => add i c none | none => .error .directive
  | [r, c, l] => match wordIndex roleNames r with | some i => add i c (some l) | none => .error .directive
  | _ => .error .directive

/-- `.ring qN, depth[, pushing role, popping role]` (R363). -/
def ringLine (k : Kernel) (args : List Txt) : Except AsmStop Kernel :=
  let add (q d : Txt) (rs : Option (Nat × Nat)) : Except AsmStop Kernel :=
    match regTxt q, natTxt d with
    | some (.q, n), some x =>
      if x = 0 || 256 < x then .error .directive
      else if k.rings.any (fun y => y.1 == n) then .error .ring
      else .ok { k with rings := k.rings ++ [(n, x, rs)] }
    | _, _ => .error .directive
  match args with
  | [q, d] => add q d none
  | [q, d, a, b] =>
    match wordIndex (roleNames.take 3) a, wordIndex (roleNames.take 3) b with
    | some x, some y => add q d (some (x, y))
    | _, _ => .error .directive
  | _ => .error .directive

/-- The value of a `.data` constant in its type (R359, R366). -/
def dataValue (ty : Nat) (t : Txt) : Option Nat :=
  match intTxt t with
  | none => none
  | some x =>
    if !(constFits ty x) then none
    else if (ty == tyF32 || ty == tyF16 || ty == tyBf16) && decide (x ≤ 127) then some (roundF (fmtOf ty) 0 false 0 (ofInt x 0))
    else some (x % 2 ^ tyWidth ty).toNat

/-- Values of w bits packed from bit 0. -/
def packValues (w : Nat) : List Nat → Nat
  | [] => 0
  | v :: r => v % 2 ^ w + 2 ^ w * packValues w r

/-- `.data offset, type, v, …` (R366). -/
def dataLine (k : Kernel) (args : List Txt) : Except AsmStop Kernel :=
  match args with
  | o :: t :: v :: vs =>
    match natTxt o, (match t with | '.' :: r => wordIndex typeNames r | _ => wordIndex typeNames t) with
    | some off, some i =>
      let w := tyWidth (i + 1)
      match (v :: vs).mapM (dataValue (i + 1)) with
      | none => .error .constant
      | some xs =>
        let bs := leBytes ((xs.length * w + 7) / 8) (packValues w xs)
        if off * 8 % w != 0 || k.data.any (fun d => decide (off < d.1 + d.2.length) && decide (d.1 < off + bs.length)) then
          .error .data
        else .ok { k with data := k.data ++ [(off, bs)] }
    | _, _ => .error .directive
  | _ => .error .directive

/-- A directive inside a kernel, other than `.kernel` and `.end` (R363). -/
def directiveLine (k : Kernel) (w : Txt) (args : List Txt) : Except AsmStop Kernel :=
  match wordIndex ["role", "ring", "regs", "waittab", "data", "launch"] w, args with
  | some 0, _ => roleLine k args
  | some 1, _ => ringLine k args
  | some 2, [v] =>
    match natTxt v with
    | some n => if n % 8 != 0 || n = 0 || 256 < n || k.regs.isSome then .error .directive else .ok { k with regs := some n }
    | none => .error .directive
  | some 3, i :: fs =>
    match natTxt i, flagMask fs with
    | some n, some m =>
      if n = 0 || 7 < n || k.waits.any (fun p => p.1 == n) then .error .directive
      else .ok { k with waits := k.waits ++ [(n, m)] }
    | _, _ => .error .directive
  | some 4, _ => dataLine k args
  | some 5, _ :: _ => .ok { k with launch := k.launch ++ [args] }
  | _, _ => .error .directive

/-! ### Entries, sections, rings and the vector budget (R364, R365) -/

/-- What is known of a kernel once its lines are laid out. -/
structure Placed where
  k : Kernel
  table : List (Nat × Nat)
  words : List (Op × Word3)
  addrs : List Nat
  deriving DecidableEq, Repr

/-- The roles of a kernel: one vector group where none is declared (R364). -/
def kernelRoles (k : Kernel) : List (Nat × Nat × Option Txt) := if k.roles.isEmpty then [(0, 1, none)] else k.roles

def kernelCount (k : Kernel) (r : Nat) : Nat := ((kernelRoles k).find? (fun x => x.1 == r)).elim 0 (fun x => x.2.1)

/-- The entry of a role: its label, else `vec`, `mat` or `cpy`, else offset 0 (R364); none where its label is not defined. -/
def entryOf (p : Placed) (r : Nat) : Option Nat :=
  match ((kernelRoles p.k).find? (fun x => x.1 == r)).bind (fun x => x.2.2) with
  | some l => labelAddr p.k.labels p.addrs l
  | none =>
    some ((((roleLabels[r]?).map String.toList).bind (labelAddr p.k.labels p.addrs)).getD p.k.load)

/-- The sections: entry and ring role of each declared role; a callee runs vector code and has a section where it has a
label (R100, R364). -/
def sections (p : Placed) : List (Nat × Nat) :=
  (kernelRoles p.k).filterMap (fun x =>
    if x.1 = 3 && x.2.2.isNone then none else (entryOf p x.1).map (fun a => (a, if x.1 = 3 then 0 else x.1)))

/-- The sections that hold an address: those of the greatest entry that is not beyond it. -/
def sectionAt (p : Placed) (a : Nat) : List (Nat × Nat) :=
  let ss := (sections p).filter (fun x => decide (x.1 ≤ a))
  let m := (ss.map (·.1)).foldl max 0
  (ss.filter (fun x => x.1 == m)).dedup

/-- The sections that hold the lines on ring q with one of these opcodes. -/
def ringUsers (p : Placed) (os : List Op) (q : Nat) : List (Nat × Nat) :=
  (((p.words.zip p.addrs).filter (fun x =>
    os.contains x.1.1 && (ringsNamed x.1.1 (fieldsOf x.1.1 x.1.2).e).contains q)).map (fun x => sectionAt p x.2)).flatten.dedup

/-- Pushing and popping role of a ring: as given, or derived from the one section that holds its lines (R364). -/
def ringRoles (p : Placed) (x : Nat × Nat × Option (Nat × Nat)) : Option (Nat × Nat) :=
  match x.2.2 with
  | some rs => some rs
  | none =>
    match ringUsers p [.qpush, .qpushn, .xhand] x.1, ringUsers p [.qpop, .qpopn, .qpeek] x.1 with
    | [a], [b] => some (a.2, b.2)
    | _, _ => none

/-- The vector registers that the lines touch. -/
def vregsTouched (p : Placed) : List Nat := (p.words.map (fun x => vregsNamed x.1 (fieldsOf x.1 x.2).e)).flatten

/-- The vector budget V: as `.regs` gives it, else the least multiple of 8 above every register touched, at least 8 (R365). -/
def vectorBudget (p : Placed) : Nat :=
  p.k.regs.getD (8 * ((vregsTouched p).foldl max 0 / 8 + 1))

/-! ### The launch-record template (R367) -/

/-- A field of a little-endian structure. -/
def fld (lo v : Nat) : Nat := v * 2 ^ lo

/-- What the `.launch` lines give. -/
structure LaunchLines where
  args : Nat
  prio : Nat
  oppt : Nat
  spad : Nat
  levels : List Nat
  ranges : List (Nat × Nat × Nat)
  deriving DecidableEq, Repr

/-- A number at most `hi`. -/
def upTo (hi : Nat) (t : Txt) : Option Nat := (natTxt t).bind (fun n => if n ≤ hi then some n else none)

/-- A level descriptor from its line (R84, R367): the extent defaults to 32 for lane, to the number of groups for group and
to 1 otherwise; COR is 1 on lane, group and core and wherever it is written. -/
def levelLine (groups : Nat) (d s : Txt) (rest : List Txt) : Option Nat :=
  match wordIndex domainNames d, wordIndex scopeNames s with
  | some dn, some sn =>
    let dflt := if dn = 0 then 32 else if dn = 1 then groups else 1
    let mk (ext : Nat) (cor : Bool) : Nat := fld 0 dn + fld 4 sn + fld 7 (if cor || dn ≤ 2 then 1 else 0) + fld 8 ext
    match rest with
    | [] => some (mk dflt false)
    | [x] => if x == "cor".toList then some (mk dflt true) else (upTo (2 ^ 32 - 1) x).map (fun n => mk n false)
    | [x, c] => if c == "cor".toList then (upTo (2 ^ 32 - 1) x).map (fun n => mk n true) else none
    | _ => none
  | _, _ => none

/-- One `.launch` line (R367). -/
def launchLine (groups : Nat) (l : LaunchLines) (ts : List Txt) : Option LaunchLines :=
  match ts with
  | [] => none
  | key :: vs =>
    match wordIndex ["args", "prio", "oppt", "spad", "level", "range"] key, vs with
    | some 0, [v] => (upTo (2 ^ 64 - 1) v).map (fun n => { l with args := n })
    | some 1, [v] => (upTo 7 v).map (fun n => { l with prio := n })
    | some 2, [v] => (upTo 7 v).map (fun n => { l with oppt := n })
    | some 3, [v] => (upTo 512 v).map (fun n => { l with spad := n })
    | some 4, d :: s :: rest =>
      (levelLine groups d s rest).map (fun x => { l with levels := l.levels ++ [x] })
    | some 5, [o, n, m] =>
      match upTo (2 ^ 64 - 1) o, upTo (2 ^ 40 - 1) n, wordIndex ["read", "write", "rw"] m with
      | some a, some b, some c =>
        some { l with ranges := l.ranges ++ [(a, b, c + 1)] }
      | _, _, _ => none
    | _, _ => none

/-- Every `.launch` line in turn. -/
def launchLines (groups : Nat) : LaunchLines → List (List Txt) → Option LaunchLines
  | l, [] => some l
  | l, t :: ts =>
    match launchLine groups l t with
    | none => none
    | some l2 => launchLines groups l2 ts

/-- The two levels of a template without `level` lines: lane with scope group, core with scope team (R367). -/
def defaultLevels : List Nat := [fld 7 1 + fld 8 32, fld 0 2 + fld 4 1 + fld 7 1 + fld 8 1]

/-- The header of a launch record (R83). -/
def recordHeader (p : Placed) (l : LaunchLines) (levels : List Nat) (v entv entm entc : Nat) : Nat :=
  let n := kernelCount p.k
  fld 0 1 + fld 128 l.oppt + fld 132 l.prio + fld 192 (min 15 levels.length) + fld 196 (min 31 l.ranges.length) + fld 260 (v / 8 - 1) +
    fld 265 l.spad + fld 275 (n 0) + fld 282 (n 1) + fld 289 (n 2) + fld 296 (n 3) + fld 327 entv + fld 346 entm +
    fld 365 entc + fld 448 l.args

/-- What a kernel's `.launch` lines give; none where a line has no meaning (R367). -/
def launchOf (p : Placed) : Option LaunchLines :=
  let n := kernelCount p.k
  launchLines (n 0 + n 1 + n 2) ⟨0, 0, 0, 0, [], []⟩ p.k.launch

/-- The 512 bytes of a template (R82, R367). -/
def templateBytes (p : Placed) (l : LaunchLines) (rings : List (Nat × Nat × Nat × Nat)) (v entv entm entc : Nat) : List Byte :=
  let levels := if l.levels.isEmpty then defaultLevels else l.levels
  leBytes 64 (recordHeader p l levels v entv entm entc) ++
    ((List.range 8).map (fun i => leBytes 16 (levels.getD i 0))).flatten ++
    ((List.range 16).map (fun i => leBytes 4 (match rings.find? (fun r => r.1 == i) with
      | none => 0
      | some r => fld 0 r.2.1 + fld 10 r.2.2.1 + fld 12 r.2.2.2))).flatten ++
    ((List.range 16).map (fun i => leBytes 16 (match l.ranges[i]? with
      | none => 0
      | some r => fld 0 ((l.args + r.1) % 2 ^ 64) + fld 64 r.2.2 + fld 66 r.2.1))).flatten

/-- The first status of R88 that a template would fail, on a device of all clusters: a range that starts at 2^64 or above
is no range descriptor (R87, R367). -/
def templateStatus (l : LaunchLines) (bs : List Byte) : Nat :=
  let st := recordStatusOn (List.range 96) bs
  if (st = 0 || 6 < st) && l.ranges.any (fun r => decide (2 ^ 64 ≤ l.args + r.1)) then 6 else st

/-! ### Images (R368, R369) -/

/-- A kernel image: what its header says, and its parts. -/
structure KernelImage where
  name : Txt
  load : Nat
  code : List (BitVec 32)
  wtab : List Nat
  entv : Nat
  entm : Nat
  entc : Nat
  data : List (Nat × List Byte)
  template : Option (List Byte)
  deriving DecidableEq, Repr

/-- Zeros up to a multiple of n bytes. -/
def padTo (n : Nat) (bs : List Byte) : List Byte := bs ++ List.replicate ((n - bs.length % n) % n) 0

/-- The argument initialiser: a record for each `.data` line (R368). -/
def initBytes (ds : List (Nat × List Byte)) : List Byte :=
  (ds.map (fun d => leBytes 8 d.1 ++ leBytes 8 d.2.length ++ padTo 8 d.2)).flatten

/-- The header of an image (R368). -/
def imageHeader (i : KernelImage) : Nat :=
  fld 0 1 + fld 8 (if i.template.isSome then 1 else 0) + fld 217 (4 * i.code.length) + fld 237 i.load + fld 263 i.entv +
    fld 282 i.entm + fld 301 i.entc + fld 352 (initBytes i.data).length +
    ((List.range 8).map (fun n => fld (384 + 16 * n) (i.wtab.getD n 0))).sum

/-- The bytes of an image in device memory (R368). -/
def imageBytes (i : KernelImage) : List Byte :=
  leBytes 64 (imageHeader i) ++ padTo 64 (i.code.map bytesOfWord).flatten ++ initBytes i.data ++ i.template.getD []

/-- The first word that R79 would trap, or R70 would with this budget and these rings. -/
def firstIllegal (p : Placed) (v : Nat) : Option AsmStop :=
  p.words.findSome? (fun x =>
    let e := (fieldsOf x.1 x.2).e
    match illegalCause x.1 x.2 with
    | some c => some (.illegal c)
    | none =>
      if (vregsNamed x.1 e).any (fun r => decide (v ≤ r)) then some .budget
      else if (ringsNamed x.1 e).any (fun q => !(p.k.rings.any (fun r => r.1 == q))) then some (.illegal 6)
      else none)

/-- A branch to a label that no line defines, or beyond the code store (R369). -/
def targetStop (p : Placed) : Option AsmStop :=
  p.k.instrs.findSome? (fun i =>
    match i.target with
    | none => none
    | some t =>
      match labelAddr p.k.labels p.addrs t with
      | none => some .label
      | some a => if 524288 ≤ a then some .codeStore else none)

/-- Lay a kernel out (R361, R362). -/
def placeKernel (k : Kernel) : Placed :=
  let tab := k.instrs.foldl (fun t i => addWait t i.word.wait.toNat) k.waits
  let ws := layout k.labels tab k.load k.instrs (k.instrs.length + 1) (k.instrs.map (firstSize tab))
  ⟨k, tab, (k.instrs.map (·.op)).zip ws, addresses k.load (ws.map word3Bytes)⟩

/-- The image of a kernel with the template that its `.launch` lines give, or the status for which R88 refuses it (R367). -/
def withTemplate (p : Placed) (rings : List (Nat × Nat × Nat × Nat)) (v : Nat) (img : KernelImage) :
    Except AsmStop KernelImage :=
  if p.k.launch.isEmpty then .ok img
  else
    match launchOf p with
    | none => .error .directive
    | some l =>
      let bs := templateBytes p l rings v img.entv img.entm img.entc
      match templateStatus l bs with
      | 0 => .ok { img with template := some bs }
      | st => .error (.template st)

/-- The image of a kernel, or why there is none (R368, R369). -/
def finishKernel (k : Kernel) : Except AsmStop KernelImage :=
  let p := placeKernel k
  let v := vectorBudget p
  if k.instrs.isEmpty || 524288 < p.addrs.getLastD 0 then .error .codeStore
  else
    match targetStop p, firstIllegal p v with
    | some e, _ => .error e
    | none, some e => .error e
    | none, none =>
      match entryOf p 0, entryOf p 1, entryOf p 2, entryOf p 3 with
      | some ev, some em, some ec, some _ =>
        match k.rings.mapM (fun r => (ringRoles p r).map (fun x => (r.1, r.2.1, x.1, x.2))) with
        | none => .error .ring
        | some rings =>
          let img : KernelImage := ⟨k.name, k.load, (p.words.map (fun x => encodeWord x.1 x.2)).flatten,
            (List.range 8).map (tableEntry p.table), ev, em, ec, k.data, none⟩
          withTemplate p rings v img
      | _, _, _, _ => .error .label

/-- A code line inside a kernel: its label names the next instruction (R358). -/
def codeLine (k : Kernel) (lab : Option Txt) (i : Option AsmInstr) : Except AsmStop Kernel :=
  let ls := lab.toList
  if ls.any (fun t => k.labels.any (fun p => p.1 == t)) then .error .label
  else .ok { k with
    labels := k.labels ++ ls.map (fun t => (t, k.instrs.length))
    instrs := k.instrs ++ i.toList }

/-- Read lines in turn: the kernel that is open, and the images finished so far (R363). -/
def assembleFrom : Option Kernel → List KernelImage → List Txt → Except AsmStop (List KernelImage)
  | none, done, [] => .ok done
  | some _, _, [] => .error .directive
  | open?, done, t :: ts =>
    match lineTxt t with
    | .error e => .error e
    | .ok l =>
      match open?, l with
      | none, .code none none => assembleFrom none done ts
      | none, .code _ _ => .error .line
      | none, .directive w args =>
        if w == "kernel".toList then
          match openKernel args with
          | .error e => .error e
          | .ok k => assembleFrom (some k) done ts
        else .error .directive
      | some k, .directive w args =>
        if w == "end".toList then
          match args, finishKernel k with
          | _ :: _, _ => .error .directive
          | [], .error e => .error e
          | [], .ok i => assembleFrom none (done ++ [i]) ts
        else if w == "kernel".toList then .error .directive
        else
          match directiveLine k w args with
          | .error e => .error e
          | .ok k2 => assembleFrom (some k2) done ts
      | some k, .code lab i =>
        match codeLine k lab i with
        | .error e => .error e
        | .ok k2 => assembleFrom (some k2) done ts

/-- The images of the kernels of a source text, given as its lines (R358, R363). -/
def assemble (lines : List String) : Except AsmStop (List KernelImage) := assembleFrom none [] (lines.map String.toList)

end Sys2Proof.Asm
end

