-- ==== Sys2Proof/Laws/Asm.lean ====
section
/-!
SUPPORT. What the assembler emits: a base word means what its line means (R61, R361), and no word of an image would trap (R79,
R369).
-/
namespace Sys2Proof.Asm

/-- A line emitted as a base word, with or without a literal, means what it means as an extended word, the wait set apart,
which the base word names by its entry of the table. -/
theorem baseOf_meaning (tab : List (Nat × Nat)) (o : Op) (e : ExtWord) (w : Word3) (h : baseOf tab o e = some w) :
    (fieldsOf o w).e = { e with wait := 0 } := by
  unfold baseOf at h
  split at h
  · cases h
  simp only [] at h
  split at h
  · cases h
  split at h
  · next hb =>
    cases h
    exact eq_of_beq (Bool.and_eq_true_iff.mp hb).1
  · obtain ⟨l, -, hl⟩ := Option.bind_eq_some_iff.mp h
    split at hl
    · next hb =>
      cases hl
      exact eq_of_beq (Bool.and_eq_true_iff.mp hb).1
    · cases hl

/-- Every word of a kernel that has an image passes the decode checks of R79, and names only declared rings and registers
below its budget. -/
theorem finishKernel_legal (k : Kernel) (i : KernelImage) (h : finishKernel k = .ok i) :
    ∀ x ∈ (placeKernel k).words, illegalCause x.1 x.2 = none := by
  have hn : firstIllegal (placeKernel k) (vectorBudget (placeKernel k)) = none := by
    unfold finishKernel at h
    simp only [] at h
    split at h
    · cases h
    · split at h
      · cases h
      · cases h
      · assumption
  intro x hx
  have := List.findSome?_eq_none_iff.mp hn x hx
  simp only [] at this
  split at this
  · cases this
  · assumption

end Sys2Proof.Asm
end

