-- ==== Sys2Proof/Laws/State.lean ====
section
/-!
SUPPORT. What each update operation leaves as it was: one theorem per operation, a clause per field of State that it does
not change, each a rewriting rule.
-/
namespace Sys2Proof.Machine

@[simp] theorem setDie_rest (s : State) (d : Nat) (x : DieSt) :
    let t := setDie s d x
    t.ns = s.ns ∧ t.frac = s.frac ∧ t.slew = s.slew ∧ t.timeSet = s.timeSet ∧ t.module = s.module ∧ t.boot = s.boot ∧
    t.config = s.config ∧ t.flash = s.flash ∧ t.saveCount = s.saveCount ∧ t.bootNo = s.bootNo ∧ t.box = s.box ∧
    t.boxSeq = s.boxSeq ∧ t.boxBoot = s.boxBoot ∧ t.boxFrozen = s.boxFrozen ∧ t.cores = s.cores ∧ t.arms = s.arms ∧
    t.engines = s.engines ∧ t.codes = s.codes ∧ t.mem = s.mem ∧ t.dram = s.dram ∧ t.dramTags = s.dramTags ∧
    t.poison = s.poison ∧ t.latent = s.latent ∧ t.hostCopies = s.hostCopies ∧ t.tags = s.tags ∧
    t.horizons = s.horizons ∧ t.groups = s.groups ∧ t.teams = s.teams ∧ t.outer = s.outer ∧ t.flights = s.flights ∧
    t.pend = s.pend ∧ t.reqs = s.reqs ∧ t.cmds = s.cmds ∧ t.updates = s.updates ∧ t.wakes = s.wakes ∧
    t.walks = s.walks ∧ t.tlb = s.tlb ∧ t.lockq = s.lockq ∧ t.colls = s.colls ∧ t.hostWaits = s.hostWaits ∧
    t.hostHors = s.hostHors ∧ t.pcieq = s.pcieq ∧ t.links = s.links ∧ t.blockVia = s.blockVia ∧
    t.peerSeen = s.peerSeen ∧ t.routes = s.routes ∧ t.comms = s.comms ∧ t.parts = s.parts ∧ t.vds = s.vds ∧
    t.fes = s.fes ∧ t.places = s.places ∧ t.owners = s.owners ∧ t.homes = s.homes ∧ t.launches = s.launches ∧
    t.pageReqs = s.pageReqs ∧ t.pageHeld = s.pageHeld ∧ t.pageLast = s.pageLast ∧ t.takeReg = s.takeReg ∧
    t.saves = s.saves ∧ t.cpStatus = s.cpStatus ∧ t.cpWaits = s.cpWaits ∧ t.hvLog = s.hvLog ∧ t.errHeld = s.errHeld ∧
    t.hostIrq = s.hostIrq ∧ t.windows = s.windows ∧ t.busErrors = s.busErrors ∧ t.soft = s.soft ∧
    t.upsets = s.upsets ∧ t.corrected = s.corrected ∧ t.agenda = s.agenda ∧ t.stage = s.stage ∧ t.issueQ = s.issueQ ∧
    t.cur = s.cur ∧ t.turn = s.turn ∧ t.opCount = s.opCount ∧ t.uidCount = s.uidCount ∧ t.freeCount = s.freeCount := by
  refine ⟨rfl, rfl, rfl, rfl, rfl, rfl, rfl, rfl, rfl, rfl, rfl, rfl, rfl, rfl, rfl, rfl, rfl, rfl, rfl, rfl, rfl, rfl, rfl,
    rfl, rfl, rfl, rfl, rfl, rfl, rfl, rfl, rfl, rfl, rfl, rfl, rfl, rfl, rfl, rfl, rfl, rfl, rfl, rfl, rfl, rfl, rfl,
    rfl, rfl, rfl, rfl, rfl, rfl, rfl, rfl, rfl, rfl, rfl, rfl, rfl, rfl, rfl, rfl, rfl, rfl, rfl, rfl, rfl, rfl, rfl,
    rfl, rfl, rfl, rfl, rfl, rfl, rfl, rfl⟩

@[simp] theorem addDue_rest (s : State) (m : When) (r : Nat) (e : Event) :
    let t := addDue s m r e
    t.ns = s.ns ∧ t.frac = s.frac ∧ t.slew = s.slew ∧ t.timeSet = s.timeSet ∧ t.dies = s.dies ∧ t.module = s.module ∧
    t.boot = s.boot ∧ t.config = s.config ∧ t.flash = s.flash ∧ t.saveCount = s.saveCount ∧ t.bootNo = s.bootNo ∧
    t.box = s.box ∧ t.boxSeq = s.boxSeq ∧ t.boxBoot = s.boxBoot ∧ t.boxFrozen = s.boxFrozen ∧ t.cores = s.cores ∧
    t.arms = s.arms ∧ t.engines = s.engines ∧ t.codes = s.codes ∧ t.mem = s.mem ∧ t.dram = s.dram ∧
    t.dramTags = s.dramTags ∧ t.poison = s.poison ∧ t.latent = s.latent ∧ t.hostCopies = s.hostCopies ∧
    t.tags = s.tags ∧ t.horizons = s.horizons ∧ t.groups = s.groups ∧ t.teams = s.teams ∧ t.outer = s.outer ∧
    t.flights = s.flights ∧ t.pend = s.pend ∧ t.reqs = s.reqs ∧ t.cmds = s.cmds ∧ t.updates = s.updates ∧
    t.wakes = s.wakes ∧ t.walks = s.walks ∧ t.tlb = s.tlb ∧ t.lockq = s.lockq ∧ t.colls = s.colls ∧
    t.hostWaits = s.hostWaits ∧ t.hostHors = s.hostHors ∧ t.pcieq = s.pcieq ∧ t.links = s.links ∧
    t.blockVia = s.blockVia ∧ t.peerSeen = s.peerSeen ∧ t.routes = s.routes ∧ t.comms = s.comms ∧ t.parts = s.parts ∧
    t.vds = s.vds ∧ t.fes = s.fes ∧ t.places = s.places ∧ t.owners = s.owners ∧ t.homes = s.homes ∧
    t.launches = s.launches ∧ t.pageReqs = s.pageReqs ∧ t.pageHeld = s.pageHeld ∧ t.pageLast = s.pageLast ∧
    t.takeReg = s.takeReg ∧ t.saves = s.saves ∧ t.cpStatus = s.cpStatus ∧ t.cpWaits = s.cpWaits ∧ t.hvLog = s.hvLog ∧
    t.errHeld = s.errHeld ∧ t.hostIrq = s.hostIrq ∧ t.windows = s.windows ∧ t.busErrors = s.busErrors ∧
    t.soft = s.soft ∧ t.upsets = s.upsets ∧ t.corrected = s.corrected ∧ t.stage = s.stage ∧ t.issueQ = s.issueQ ∧
    t.cur = s.cur ∧ t.turn = s.turn ∧ t.opCount = s.opCount ∧ t.uidCount = s.uidCount ∧ t.freeCount = s.freeCount := by
  refine ⟨rfl, rfl, rfl, rfl, rfl, rfl, rfl, rfl, rfl, rfl, rfl, rfl, rfl, rfl, rfl, rfl, rfl, rfl, rfl, rfl, rfl, rfl, rfl,
    rfl, rfl, rfl, rfl, rfl, rfl, rfl, rfl, rfl, rfl, rfl, rfl, rfl, rfl, rfl, rfl, rfl, rfl, rfl, rfl, rfl, rfl, rfl,
    rfl, rfl, rfl, rfl, rfl, rfl, rfl, rfl, rfl, rfl, rfl, rfl, rfl, rfl, rfl, rfl, rfl, rfl, rfl, rfl, rfl, rfl, rfl,
    rfl, rfl, rfl, rfl, rfl, rfl, rfl, rfl⟩

@[simp] theorem afterClk_rest (s : State) (d n r : Nat) (e : Event) :
    let t := afterClk s d n r e
    t.ns = s.ns ∧ t.frac = s.frac ∧ t.slew = s.slew ∧ t.timeSet = s.timeSet ∧ t.dies = s.dies ∧ t.module = s.module ∧
    t.boot = s.boot ∧ t.config = s.config ∧ t.flash = s.flash ∧ t.saveCount = s.saveCount ∧ t.bootNo = s.bootNo ∧
    t.box = s.box ∧ t.boxSeq = s.boxSeq ∧ t.boxBoot = s.boxBoot ∧ t.boxFrozen = s.boxFrozen ∧ t.cores = s.cores ∧
    t.arms = s.arms ∧ t.engines = s.engines ∧ t.codes = s.codes ∧ t.mem = s.mem ∧ t.dram = s.dram ∧
    t.dramTags = s.dramTags ∧ t.poison = s.poison ∧ t.latent = s.latent ∧ t.hostCopies = s.hostCopies ∧
    t.tags = s.tags ∧ t.horizons = s.horizons ∧ t.groups = s.groups ∧ t.teams = s.teams ∧ t.outer = s.outer ∧
    t.flights = s.flights ∧ t.pend = s.pend ∧ t.reqs = s.reqs ∧ t.cmds = s.cmds ∧ t.updates = s.updates ∧
    t.wakes = s.wakes ∧ t.walks = s.walks ∧ t.tlb = s.tlb ∧ t.lockq = s.lockq ∧ t.colls = s.colls ∧
    t.hostWaits = s.hostWaits ∧ t.hostHors = s.hostHors ∧ t.pcieq = s.pcieq ∧ t.links = s.links ∧
    t.blockVia = s.blockVia ∧ t.peerSeen = s.peerSeen ∧ t.routes = s.routes ∧ t.comms = s.comms ∧ t.parts = s.parts ∧
    t.vds = s.vds ∧ t.fes = s.fes ∧ t.places = s.places ∧ t.owners = s.owners ∧ t.homes = s.homes ∧
    t.launches = s.launches ∧ t.pageReqs = s.pageReqs ∧ t.pageHeld = s.pageHeld ∧ t.pageLast = s.pageLast ∧
    t.takeReg = s.takeReg ∧ t.saves = s.saves ∧ t.cpStatus = s.cpStatus ∧ t.cpWaits = s.cpWaits ∧ t.hvLog = s.hvLog ∧
    t.errHeld = s.errHeld ∧ t.hostIrq = s.hostIrq ∧ t.windows = s.windows ∧ t.busErrors = s.busErrors ∧
    t.soft = s.soft ∧ t.upsets = s.upsets ∧ t.corrected = s.corrected ∧ t.stage = s.stage ∧ t.issueQ = s.issueQ ∧
    t.cur = s.cur ∧ t.turn = s.turn ∧ t.opCount = s.opCount ∧ t.uidCount = s.uidCount ∧ t.freeCount = s.freeCount := by
  refine ⟨rfl, rfl, rfl, rfl, rfl, rfl, rfl, rfl, rfl, rfl, rfl, rfl, rfl, rfl, rfl, rfl, rfl, rfl, rfl, rfl, rfl, rfl, rfl,
    rfl, rfl, rfl, rfl, rfl, rfl, rfl, rfl, rfl, rfl, rfl, rfl, rfl, rfl, rfl, rfl, rfl, rfl, rfl, rfl, rfl, rfl, rfl,
    rfl, rfl, rfl, rfl, rfl, rfl, rfl, rfl, rfl, rfl, rfl, rfl, rfl, rfl, rfl, rfl, rfl, rfl, rfl, rfl, rfl, rfl, rfl,
    rfl, rfl, rfl, rfl, rfl, rfl, rfl, rfl⟩

@[simp] theorem setCore_rest (s : State) (c : Nat) (x : CoreSt) :
    let t := setCore s c x
    t.ns = s.ns ∧ t.frac = s.frac ∧ t.slew = s.slew ∧ t.timeSet = s.timeSet ∧ t.dies = s.dies ∧ t.module = s.module ∧
    t.boot = s.boot ∧ t.config = s.config ∧ t.flash = s.flash ∧ t.saveCount = s.saveCount ∧ t.bootNo = s.bootNo ∧
    t.box = s.box ∧ t.boxSeq = s.boxSeq ∧ t.boxBoot = s.boxBoot ∧ t.boxFrozen = s.boxFrozen ∧ t.arms = s.arms ∧
    t.engines = s.engines ∧ t.codes = s.codes ∧ t.mem = s.mem ∧ t.dram = s.dram ∧ t.dramTags = s.dramTags ∧
    t.poison = s.poison ∧ t.latent = s.latent ∧ t.hostCopies = s.hostCopies ∧ t.tags = s.tags ∧
    t.horizons = s.horizons ∧ t.groups = s.groups ∧ t.teams = s.teams ∧ t.outer = s.outer ∧ t.flights = s.flights ∧
    t.pend = s.pend ∧ t.reqs = s.reqs ∧ t.cmds = s.cmds ∧ t.updates = s.updates ∧ t.wakes = s.wakes ∧
    t.walks = s.walks ∧ t.tlb = s.tlb ∧ t.lockq = s.lockq ∧ t.colls = s.colls ∧ t.hostWaits = s.hostWaits ∧
    t.hostHors = s.hostHors ∧ t.pcieq = s.pcieq ∧ t.links = s.links ∧ t.blockVia = s.blockVia ∧
    t.peerSeen = s.peerSeen ∧ t.routes = s.routes ∧ t.comms = s.comms ∧ t.parts = s.parts ∧ t.vds = s.vds ∧
    t.fes = s.fes ∧ t.places = s.places ∧ t.owners = s.owners ∧ t.homes = s.homes ∧ t.launches = s.launches ∧
    t.pageReqs = s.pageReqs ∧ t.pageHeld = s.pageHeld ∧ t.pageLast = s.pageLast ∧ t.takeReg = s.takeReg ∧
    t.saves = s.saves ∧ t.cpStatus = s.cpStatus ∧ t.cpWaits = s.cpWaits ∧ t.hvLog = s.hvLog ∧ t.errHeld = s.errHeld ∧
    t.hostIrq = s.hostIrq ∧ t.windows = s.windows ∧ t.busErrors = s.busErrors ∧ t.soft = s.soft ∧
    t.upsets = s.upsets ∧ t.corrected = s.corrected ∧ t.agenda = s.agenda ∧ t.stage = s.stage ∧ t.issueQ = s.issueQ ∧
    t.cur = s.cur ∧ t.turn = s.turn ∧ t.opCount = s.opCount ∧ t.uidCount = s.uidCount ∧ t.freeCount = s.freeCount := by
  refine ⟨rfl, rfl, rfl, rfl, rfl, rfl, rfl, rfl, rfl, rfl, rfl, rfl, rfl, rfl, rfl, rfl, rfl, rfl, rfl, rfl, rfl, rfl, rfl,
    rfl, rfl, rfl, rfl, rfl, rfl, rfl, rfl, rfl, rfl, rfl, rfl, rfl, rfl, rfl, rfl, rfl, rfl, rfl, rfl, rfl, rfl, rfl,
    rfl, rfl, rfl, rfl, rfl, rfl, rfl, rfl, rfl, rfl, rfl, rfl, rfl, rfl, rfl, rfl, rfl, rfl, rfl, rfl, rfl, rfl, rfl,
    rfl, rfl, rfl, rfl, rfl, rfl, rfl, rfl⟩

@[simp] theorem updCore_rest (s : State) (c : Nat) (f : CoreSt → CoreSt) :
    let t := updCore s c f
    t.ns = s.ns ∧ t.frac = s.frac ∧ t.slew = s.slew ∧ t.timeSet = s.timeSet ∧ t.dies = s.dies ∧ t.module = s.module ∧
    t.boot = s.boot ∧ t.config = s.config ∧ t.flash = s.flash ∧ t.saveCount = s.saveCount ∧ t.bootNo = s.bootNo ∧
    t.box = s.box ∧ t.boxSeq = s.boxSeq ∧ t.boxBoot = s.boxBoot ∧ t.boxFrozen = s.boxFrozen ∧ t.arms = s.arms ∧
    t.engines = s.engines ∧ t.codes = s.codes ∧ t.mem = s.mem ∧ t.dram = s.dram ∧ t.dramTags = s.dramTags ∧
    t.poison = s.poison ∧ t.latent = s.latent ∧ t.hostCopies = s.hostCopies ∧ t.tags = s.tags ∧
    t.horizons = s.horizons ∧ t.groups = s.groups ∧ t.teams = s.teams ∧ t.outer = s.outer ∧ t.flights = s.flights ∧
    t.pend = s.pend ∧ t.reqs = s.reqs ∧ t.cmds = s.cmds ∧ t.updates = s.updates ∧ t.wakes = s.wakes ∧
    t.walks = s.walks ∧ t.tlb = s.tlb ∧ t.lockq = s.lockq ∧ t.colls = s.colls ∧ t.hostWaits = s.hostWaits ∧
    t.hostHors = s.hostHors ∧ t.pcieq = s.pcieq ∧ t.links = s.links ∧ t.blockVia = s.blockVia ∧
    t.peerSeen = s.peerSeen ∧ t.routes = s.routes ∧ t.comms = s.comms ∧ t.parts = s.parts ∧ t.vds = s.vds ∧
    t.fes = s.fes ∧ t.places = s.places ∧ t.owners = s.owners ∧ t.homes = s.homes ∧ t.launches = s.launches ∧
    t.pageReqs = s.pageReqs ∧ t.pageHeld = s.pageHeld ∧ t.pageLast = s.pageLast ∧ t.takeReg = s.takeReg ∧
    t.saves = s.saves ∧ t.cpStatus = s.cpStatus ∧ t.cpWaits = s.cpWaits ∧ t.hvLog = s.hvLog ∧ t.errHeld = s.errHeld ∧
    t.hostIrq = s.hostIrq ∧ t.windows = s.windows ∧ t.busErrors = s.busErrors ∧ t.soft = s.soft ∧
    t.upsets = s.upsets ∧ t.corrected = s.corrected ∧ t.agenda = s.agenda ∧ t.stage = s.stage ∧ t.issueQ = s.issueQ ∧
    t.cur = s.cur ∧ t.turn = s.turn ∧ t.opCount = s.opCount ∧ t.uidCount = s.uidCount ∧ t.freeCount = s.freeCount := by
  refine ⟨rfl, rfl, rfl, rfl, rfl, rfl, rfl, rfl, rfl, rfl, rfl, rfl, rfl, rfl, rfl, rfl, rfl, rfl, rfl, rfl, rfl, rfl, rfl,
    rfl, rfl, rfl, rfl, rfl, rfl, rfl, rfl, rfl, rfl, rfl, rfl, rfl, rfl, rfl, rfl, rfl, rfl, rfl, rfl, rfl, rfl, rfl,
    rfl, rfl, rfl, rfl, rfl, rfl, rfl, rfl, rfl, rfl, rfl, rfl, rfl, rfl, rfl, rfl, rfl, rfl, rfl, rfl, rfl, rfl, rfl,
    rfl, rfl, rfl, rfl, rfl, rfl, rfl, rfl⟩

@[simp] theorem setArm_rest (s : State) (a : Nat) (x : ArmSt) :
    let t := setArm s a x
    t.ns = s.ns ∧ t.frac = s.frac ∧ t.slew = s.slew ∧ t.timeSet = s.timeSet ∧ t.dies = s.dies ∧ t.module = s.module ∧
    t.boot = s.boot ∧ t.config = s.config ∧ t.flash = s.flash ∧ t.saveCount = s.saveCount ∧ t.bootNo = s.bootNo ∧
    t.box = s.box ∧ t.boxSeq = s.boxSeq ∧ t.boxBoot = s.boxBoot ∧ t.boxFrozen = s.boxFrozen ∧ t.cores = s.cores ∧
    t.engines = s.engines ∧ t.codes = s.codes ∧ t.mem = s.mem ∧ t.dram = s.dram ∧ t.dramTags = s.dramTags ∧
    t.poison = s.poison ∧ t.latent = s.latent ∧ t.hostCopies = s.hostCopies ∧ t.tags = s.tags ∧
    t.horizons = s.horizons ∧ t.groups = s.groups ∧ t.teams = s.teams ∧ t.outer = s.outer ∧ t.flights = s.flights ∧
    t.pend = s.pend ∧ t.reqs = s.reqs ∧ t.cmds = s.cmds ∧ t.updates = s.updates ∧ t.wakes = s.wakes ∧
    t.walks = s.walks ∧ t.tlb = s.tlb ∧ t.lockq = s.lockq ∧ t.colls = s.colls ∧ t.hostWaits = s.hostWaits ∧
    t.hostHors = s.hostHors ∧ t.pcieq = s.pcieq ∧ t.links = s.links ∧ t.blockVia = s.blockVia ∧
    t.peerSeen = s.peerSeen ∧ t.routes = s.routes ∧ t.comms = s.comms ∧ t.parts = s.parts ∧ t.vds = s.vds ∧
    t.fes = s.fes ∧ t.places = s.places ∧ t.owners = s.owners ∧ t.homes = s.homes ∧ t.launches = s.launches ∧
    t.pageReqs = s.pageReqs ∧ t.pageHeld = s.pageHeld ∧ t.pageLast = s.pageLast ∧ t.takeReg = s.takeReg ∧
    t.saves = s.saves ∧ t.cpStatus = s.cpStatus ∧ t.cpWaits = s.cpWaits ∧ t.hvLog = s.hvLog ∧ t.errHeld = s.errHeld ∧
    t.hostIrq = s.hostIrq ∧ t.windows = s.windows ∧ t.busErrors = s.busErrors ∧ t.soft = s.soft ∧
    t.upsets = s.upsets ∧ t.corrected = s.corrected ∧ t.agenda = s.agenda ∧ t.stage = s.stage ∧ t.issueQ = s.issueQ ∧
    t.cur = s.cur ∧ t.turn = s.turn ∧ t.opCount = s.opCount ∧ t.uidCount = s.uidCount ∧ t.freeCount = s.freeCount := by
  refine ⟨rfl, rfl, rfl, rfl, rfl, rfl, rfl, rfl, rfl, rfl, rfl, rfl, rfl, rfl, rfl, rfl, rfl, rfl, rfl, rfl, rfl, rfl, rfl,
    rfl, rfl, rfl, rfl, rfl, rfl, rfl, rfl, rfl, rfl, rfl, rfl, rfl, rfl, rfl, rfl, rfl, rfl, rfl, rfl, rfl, rfl, rfl,
    rfl, rfl, rfl, rfl, rfl, rfl, rfl, rfl, rfl, rfl, rfl, rfl, rfl, rfl, rfl, rfl, rfl, rfl, rfl, rfl, rfl, rfl, rfl,
    rfl, rfl, rfl, rfl, rfl, rfl, rfl, rfl⟩

@[simp] theorem updArm_rest (s : State) (a : Nat) (f : ArmSt → ArmSt) :
    let t := updArm s a f
    t.ns = s.ns ∧ t.frac = s.frac ∧ t.slew = s.slew ∧ t.timeSet = s.timeSet ∧ t.dies = s.dies ∧ t.module = s.module ∧
    t.boot = s.boot ∧ t.config = s.config ∧ t.flash = s.flash ∧ t.saveCount = s.saveCount ∧ t.bootNo = s.bootNo ∧
    t.box = s.box ∧ t.boxSeq = s.boxSeq ∧ t.boxBoot = s.boxBoot ∧ t.boxFrozen = s.boxFrozen ∧ t.cores = s.cores ∧
    t.engines = s.engines ∧ t.codes = s.codes ∧ t.mem = s.mem ∧ t.dram = s.dram ∧ t.dramTags = s.dramTags ∧
    t.poison = s.poison ∧ t.latent = s.latent ∧ t.hostCopies = s.hostCopies ∧ t.tags = s.tags ∧
    t.horizons = s.horizons ∧ t.groups = s.groups ∧ t.teams = s.teams ∧ t.outer = s.outer ∧ t.flights = s.flights ∧
    t.pend = s.pend ∧ t.reqs = s.reqs ∧ t.cmds = s.cmds ∧ t.updates = s.updates ∧ t.wakes = s.wakes ∧
    t.walks = s.walks ∧ t.tlb = s.tlb ∧ t.lockq = s.lockq ∧ t.colls = s.colls ∧ t.hostWaits = s.hostWaits ∧
    t.hostHors = s.hostHors ∧ t.pcieq = s.pcieq ∧ t.links = s.links ∧ t.blockVia = s.blockVia ∧
    t.peerSeen = s.peerSeen ∧ t.routes = s.routes ∧ t.comms = s.comms ∧ t.parts = s.parts ∧ t.vds = s.vds ∧
    t.fes = s.fes ∧ t.places = s.places ∧ t.owners = s.owners ∧ t.homes = s.homes ∧ t.launches = s.launches ∧
    t.pageReqs = s.pageReqs ∧ t.pageHeld = s.pageHeld ∧ t.pageLast = s.pageLast ∧ t.takeReg = s.takeReg ∧
    t.saves = s.saves ∧ t.cpStatus = s.cpStatus ∧ t.cpWaits = s.cpWaits ∧ t.hvLog = s.hvLog ∧ t.errHeld = s.errHeld ∧
    t.hostIrq = s.hostIrq ∧ t.windows = s.windows ∧ t.busErrors = s.busErrors ∧ t.soft = s.soft ∧
    t.upsets = s.upsets ∧ t.corrected = s.corrected ∧ t.agenda = s.agenda ∧ t.stage = s.stage ∧ t.issueQ = s.issueQ ∧
    t.cur = s.cur ∧ t.turn = s.turn ∧ t.opCount = s.opCount ∧ t.uidCount = s.uidCount ∧ t.freeCount = s.freeCount := by
  refine ⟨rfl, rfl, rfl, rfl, rfl, rfl, rfl, rfl, rfl, rfl, rfl, rfl, rfl, rfl, rfl, rfl, rfl, rfl, rfl, rfl, rfl, rfl, rfl,
    rfl, rfl, rfl, rfl, rfl, rfl, rfl, rfl, rfl, rfl, rfl, rfl, rfl, rfl, rfl, rfl, rfl, rfl, rfl, rfl, rfl, rfl, rfl,
    rfl, rfl, rfl, rfl, rfl, rfl, rfl, rfl, rfl, rfl, rfl, rfl, rfl, rfl, rfl, rfl, rfl, rfl, rfl, rfl, rfl, rfl, rfl,
    rfl, rfl, rfl, rfl, rfl, rfl, rfl, rfl⟩

@[simp] theorem updMat_rest (s : State) (c : Nat) (f : MatrixSt → MatrixSt) :
    let t := updMat s c f
    t.ns = s.ns ∧ t.frac = s.frac ∧ t.slew = s.slew ∧ t.timeSet = s.timeSet ∧ t.dies = s.dies ∧ t.module = s.module ∧
    t.boot = s.boot ∧ t.config = s.config ∧ t.flash = s.flash ∧ t.saveCount = s.saveCount ∧ t.bootNo = s.bootNo ∧
    t.box = s.box ∧ t.boxSeq = s.boxSeq ∧ t.boxBoot = s.boxBoot ∧ t.boxFrozen = s.boxFrozen ∧ t.arms = s.arms ∧
    t.engines = s.engines ∧ t.codes = s.codes ∧ t.mem = s.mem ∧ t.dram = s.dram ∧ t.dramTags = s.dramTags ∧
    t.poison = s.poison ∧ t.latent = s.latent ∧ t.hostCopies = s.hostCopies ∧ t.tags = s.tags ∧
    t.horizons = s.horizons ∧ t.groups = s.groups ∧ t.teams = s.teams ∧ t.outer = s.outer ∧ t.flights = s.flights ∧
    t.pend = s.pend ∧ t.reqs = s.reqs ∧ t.cmds = s.cmds ∧ t.updates = s.updates ∧ t.wakes = s.wakes ∧
    t.walks = s.walks ∧ t.tlb = s.tlb ∧ t.lockq = s.lockq ∧ t.colls = s.colls ∧ t.hostWaits = s.hostWaits ∧
    t.hostHors = s.hostHors ∧ t.pcieq = s.pcieq ∧ t.links = s.links ∧ t.blockVia = s.blockVia ∧
    t.peerSeen = s.peerSeen ∧ t.routes = s.routes ∧ t.comms = s.comms ∧ t.parts = s.parts ∧ t.vds = s.vds ∧
    t.fes = s.fes ∧ t.places = s.places ∧ t.owners = s.owners ∧ t.homes = s.homes ∧ t.launches = s.launches ∧
    t.pageReqs = s.pageReqs ∧ t.pageHeld = s.pageHeld ∧ t.pageLast = s.pageLast ∧ t.takeReg = s.takeReg ∧
    t.saves = s.saves ∧ t.cpStatus = s.cpStatus ∧ t.cpWaits = s.cpWaits ∧ t.hvLog = s.hvLog ∧ t.errHeld = s.errHeld ∧
    t.hostIrq = s.hostIrq ∧ t.windows = s.windows ∧ t.busErrors = s.busErrors ∧ t.soft = s.soft ∧
    t.upsets = s.upsets ∧ t.corrected = s.corrected ∧ t.agenda = s.agenda ∧ t.stage = s.stage ∧ t.issueQ = s.issueQ ∧
    t.cur = s.cur ∧ t.turn = s.turn ∧ t.opCount = s.opCount ∧ t.uidCount = s.uidCount ∧ t.freeCount = s.freeCount := by
  refine ⟨rfl, rfl, rfl, rfl, rfl, rfl, rfl, rfl, rfl, rfl, rfl, rfl, rfl, rfl, rfl, rfl, rfl, rfl, rfl, rfl, rfl, rfl, rfl,
    rfl, rfl, rfl, rfl, rfl, rfl, rfl, rfl, rfl, rfl, rfl, rfl, rfl, rfl, rfl, rfl, rfl, rfl, rfl, rfl, rfl, rfl, rfl,
    rfl, rfl, rfl, rfl, rfl, rfl, rfl, rfl, rfl, rfl, rfl, rfl, rfl, rfl, rfl, rfl, rfl, rfl, rfl, rfl, rfl, rfl, rfl,
    rfl, rfl, rfl, rfl, rfl, rfl, rfl, rfl⟩

@[simp] theorem updPart_rest (s : State) (p : Nat) (f : PartSt → PartSt) :
    let t := updPart s p f
    t.ns = s.ns ∧ t.frac = s.frac ∧ t.slew = s.slew ∧ t.timeSet = s.timeSet ∧ t.dies = s.dies ∧ t.module = s.module ∧
    t.boot = s.boot ∧ t.config = s.config ∧ t.flash = s.flash ∧ t.saveCount = s.saveCount ∧ t.bootNo = s.bootNo ∧
    t.box = s.box ∧ t.boxSeq = s.boxSeq ∧ t.boxBoot = s.boxBoot ∧ t.boxFrozen = s.boxFrozen ∧ t.cores = s.cores ∧
    t.arms = s.arms ∧ t.engines = s.engines ∧ t.codes = s.codes ∧ t.mem = s.mem ∧ t.dram = s.dram ∧
    t.dramTags = s.dramTags ∧ t.poison = s.poison ∧ t.latent = s.latent ∧ t.hostCopies = s.hostCopies ∧
    t.tags = s.tags ∧ t.horizons = s.horizons ∧ t.groups = s.groups ∧ t.teams = s.teams ∧ t.outer = s.outer ∧
    t.flights = s.flights ∧ t.pend = s.pend ∧ t.reqs = s.reqs ∧ t.cmds = s.cmds ∧ t.updates = s.updates ∧
    t.wakes = s.wakes ∧ t.walks = s.walks ∧ t.tlb = s.tlb ∧ t.lockq = s.lockq ∧ t.colls = s.colls ∧
    t.hostWaits = s.hostWaits ∧ t.hostHors = s.hostHors ∧ t.pcieq = s.pcieq ∧ t.links = s.links ∧
    t.blockVia = s.blockVia ∧ t.peerSeen = s.peerSeen ∧ t.routes = s.routes ∧ t.comms = s.comms ∧ t.vds = s.vds ∧
    t.fes = s.fes ∧ t.places = s.places ∧ t.owners = s.owners ∧ t.homes = s.homes ∧ t.launches = s.launches ∧
    t.pageReqs = s.pageReqs ∧ t.pageHeld = s.pageHeld ∧ t.pageLast = s.pageLast ∧ t.takeReg = s.takeReg ∧
    t.saves = s.saves ∧ t.cpStatus = s.cpStatus ∧ t.cpWaits = s.cpWaits ∧ t.hvLog = s.hvLog ∧ t.errHeld = s.errHeld ∧
    t.hostIrq = s.hostIrq ∧ t.windows = s.windows ∧ t.busErrors = s.busErrors ∧ t.soft = s.soft ∧
    t.upsets = s.upsets ∧ t.corrected = s.corrected ∧ t.agenda = s.agenda ∧ t.stage = s.stage ∧ t.issueQ = s.issueQ ∧
    t.cur = s.cur ∧ t.turn = s.turn ∧ t.opCount = s.opCount ∧ t.uidCount = s.uidCount ∧ t.freeCount = s.freeCount := by
  refine ⟨rfl, rfl, rfl, rfl, rfl, rfl, rfl, rfl, rfl, rfl, rfl, rfl, rfl, rfl, rfl, rfl, rfl, rfl, rfl, rfl, rfl, rfl, rfl,
    rfl, rfl, rfl, rfl, rfl, rfl, rfl, rfl, rfl, rfl, rfl, rfl, rfl, rfl, rfl, rfl, rfl, rfl, rfl, rfl, rfl, rfl, rfl,
    rfl, rfl, rfl, rfl, rfl, rfl, rfl, rfl, rfl, rfl, rfl, rfl, rfl, rfl, rfl, rfl, rfl, rfl, rfl, rfl, rfl, rfl, rfl,
    rfl, rfl, rfl, rfl, rfl, rfl, rfl, rfl⟩

@[simp] theorem updVd_rest (s : State) (v : Nat) (f : VdSt → VdSt) :
    let t := updVd s v f
    t.ns = s.ns ∧ t.frac = s.frac ∧ t.slew = s.slew ∧ t.timeSet = s.timeSet ∧ t.dies = s.dies ∧ t.module = s.module ∧
    t.boot = s.boot ∧ t.config = s.config ∧ t.flash = s.flash ∧ t.saveCount = s.saveCount ∧ t.bootNo = s.bootNo ∧
    t.box = s.box ∧ t.boxSeq = s.boxSeq ∧ t.boxBoot = s.boxBoot ∧ t.boxFrozen = s.boxFrozen ∧ t.cores = s.cores ∧
    t.arms = s.arms ∧ t.engines = s.engines ∧ t.codes = s.codes ∧ t.mem = s.mem ∧ t.dram = s.dram ∧
    t.dramTags = s.dramTags ∧ t.poison = s.poison ∧ t.latent = s.latent ∧ t.hostCopies = s.hostCopies ∧
    t.tags = s.tags ∧ t.horizons = s.horizons ∧ t.groups = s.groups ∧ t.teams = s.teams ∧ t.outer = s.outer ∧
    t.flights = s.flights ∧ t.pend = s.pend ∧ t.reqs = s.reqs ∧ t.cmds = s.cmds ∧ t.updates = s.updates ∧
    t.wakes = s.wakes ∧ t.walks = s.walks ∧ t.tlb = s.tlb ∧ t.lockq = s.lockq ∧ t.colls = s.colls ∧
    t.hostWaits = s.hostWaits ∧ t.hostHors = s.hostHors ∧ t.pcieq = s.pcieq ∧ t.links = s.links ∧
    t.blockVia = s.blockVia ∧ t.peerSeen = s.peerSeen ∧ t.routes = s.routes ∧ t.comms = s.comms ∧ t.parts = s.parts ∧
    t.fes = s.fes ∧ t.places = s.places ∧ t.owners = s.owners ∧ t.homes = s.homes ∧ t.launches = s.launches ∧
    t.pageReqs = s.pageReqs ∧ t.pageHeld = s.pageHeld ∧ t.pageLast = s.pageLast ∧ t.takeReg = s.takeReg ∧
    t.saves = s.saves ∧ t.cpStatus = s.cpStatus ∧ t.cpWaits = s.cpWaits ∧ t.hvLog = s.hvLog ∧ t.errHeld = s.errHeld ∧
    t.hostIrq = s.hostIrq ∧ t.windows = s.windows ∧ t.busErrors = s.busErrors ∧ t.soft = s.soft ∧
    t.upsets = s.upsets ∧ t.corrected = s.corrected ∧ t.agenda = s.agenda ∧ t.stage = s.stage ∧ t.issueQ = s.issueQ ∧
    t.cur = s.cur ∧ t.turn = s.turn ∧ t.opCount = s.opCount ∧ t.uidCount = s.uidCount ∧ t.freeCount = s.freeCount := by
  refine ⟨rfl, rfl, rfl, rfl, rfl, rfl, rfl, rfl, rfl, rfl, rfl, rfl, rfl, rfl, rfl, rfl, rfl, rfl, rfl, rfl, rfl, rfl, rfl,
    rfl, rfl, rfl, rfl, rfl, rfl, rfl, rfl, rfl, rfl, rfl, rfl, rfl, rfl, rfl, rfl, rfl, rfl, rfl, rfl, rfl, rfl, rfl,
    rfl, rfl, rfl, rfl, rfl, rfl, rfl, rfl, rfl, rfl, rfl, rfl, rfl, rfl, rfl, rfl, rfl, rfl, rfl, rfl, rfl, rfl, rfl,
    rfl, rfl, rfl, rfl, rfl, rfl, rfl, rfl⟩

@[simp] theorem updFe_rest (s : State) (n : Nat) (f : FrontEnd → FrontEnd) :
    let t := updFe s n f
    t.ns = s.ns ∧ t.frac = s.frac ∧ t.slew = s.slew ∧ t.timeSet = s.timeSet ∧ t.dies = s.dies ∧ t.module = s.module ∧
    t.boot = s.boot ∧ t.config = s.config ∧ t.flash = s.flash ∧ t.saveCount = s.saveCount ∧ t.bootNo = s.bootNo ∧
    t.box = s.box ∧ t.boxSeq = s.boxSeq ∧ t.boxBoot = s.boxBoot ∧ t.boxFrozen = s.boxFrozen ∧ t.cores = s.cores ∧
    t.arms = s.arms ∧ t.engines = s.engines ∧ t.codes = s.codes ∧ t.mem = s.mem ∧ t.dram = s.dram ∧
    t.dramTags = s.dramTags ∧ t.poison = s.poison ∧ t.latent = s.latent ∧ t.hostCopies = s.hostCopies ∧
    t.tags = s.tags ∧ t.horizons = s.horizons ∧ t.groups = s.groups ∧ t.teams = s.teams ∧ t.outer = s.outer ∧
    t.flights = s.flights ∧ t.pend = s.pend ∧ t.reqs = s.reqs ∧ t.cmds = s.cmds ∧ t.updates = s.updates ∧
    t.wakes = s.wakes ∧ t.walks = s.walks ∧ t.tlb = s.tlb ∧ t.lockq = s.lockq ∧ t.colls = s.colls ∧
    t.hostWaits = s.hostWaits ∧ t.hostHors = s.hostHors ∧ t.pcieq = s.pcieq ∧ t.links = s.links ∧
    t.blockVia = s.blockVia ∧ t.peerSeen = s.peerSeen ∧ t.routes = s.routes ∧ t.comms = s.comms ∧ t.parts = s.parts ∧
    t.vds = s.vds ∧ t.places = s.places ∧ t.owners = s.owners ∧ t.homes = s.homes ∧ t.launches = s.launches ∧
    t.pageReqs = s.pageReqs ∧ t.pageHeld = s.pageHeld ∧ t.pageLast = s.pageLast ∧ t.takeReg = s.takeReg ∧
    t.saves = s.saves ∧ t.cpStatus = s.cpStatus ∧ t.cpWaits = s.cpWaits ∧ t.hvLog = s.hvLog ∧ t.errHeld = s.errHeld ∧
    t.hostIrq = s.hostIrq ∧ t.windows = s.windows ∧ t.busErrors = s.busErrors ∧ t.soft = s.soft ∧
    t.upsets = s.upsets ∧ t.corrected = s.corrected ∧ t.agenda = s.agenda ∧ t.stage = s.stage ∧ t.issueQ = s.issueQ ∧
    t.cur = s.cur ∧ t.turn = s.turn ∧ t.opCount = s.opCount ∧ t.uidCount = s.uidCount ∧ t.freeCount = s.freeCount := by
  refine ⟨rfl, rfl, rfl, rfl, rfl, rfl, rfl, rfl, rfl, rfl, rfl, rfl, rfl, rfl, rfl, rfl, rfl, rfl, rfl, rfl, rfl, rfl, rfl,
    rfl, rfl, rfl, rfl, rfl, rfl, rfl, rfl, rfl, rfl, rfl, rfl, rfl, rfl, rfl, rfl, rfl, rfl, rfl, rfl, rfl, rfl, rfl,
    rfl, rfl, rfl, rfl, rfl, rfl, rfl, rfl, rfl, rfl, rfl, rfl, rfl, rfl, rfl, rfl, rfl, rfl, rfl, rfl, rfl, rfl, rfl,
    rfl, rfl, rfl, rfl, rfl, rfl, rfl, rfl⟩

@[simp] theorem updGroup_rest (s : State) (u : Nat) (f : Group → Group) :
    let t := updGroup s u f
    t.ns = s.ns ∧ t.frac = s.frac ∧ t.slew = s.slew ∧ t.timeSet = s.timeSet ∧ t.dies = s.dies ∧ t.module = s.module ∧
    t.boot = s.boot ∧ t.config = s.config ∧ t.flash = s.flash ∧ t.saveCount = s.saveCount ∧ t.bootNo = s.bootNo ∧
    t.box = s.box ∧ t.boxSeq = s.boxSeq ∧ t.boxBoot = s.boxBoot ∧ t.boxFrozen = s.boxFrozen ∧ t.cores = s.cores ∧
    t.arms = s.arms ∧ t.engines = s.engines ∧ t.codes = s.codes ∧ t.mem = s.mem ∧ t.dram = s.dram ∧
    t.dramTags = s.dramTags ∧ t.poison = s.poison ∧ t.latent = s.latent ∧ t.hostCopies = s.hostCopies ∧
    t.tags = s.tags ∧ t.horizons = s.horizons ∧ t.teams = s.teams ∧ t.outer = s.outer ∧ t.flights = s.flights ∧
    t.pend = s.pend ∧ t.reqs = s.reqs ∧ t.cmds = s.cmds ∧ t.updates = s.updates ∧ t.wakes = s.wakes ∧
    t.walks = s.walks ∧ t.tlb = s.tlb ∧ t.lockq = s.lockq ∧ t.colls = s.colls ∧ t.hostWaits = s.hostWaits ∧
    t.hostHors = s.hostHors ∧ t.pcieq = s.pcieq ∧ t.links = s.links ∧ t.blockVia = s.blockVia ∧
    t.peerSeen = s.peerSeen ∧ t.routes = s.routes ∧ t.comms = s.comms ∧ t.parts = s.parts ∧ t.vds = s.vds ∧
    t.fes = s.fes ∧ t.places = s.places ∧ t.owners = s.owners ∧ t.homes = s.homes ∧ t.launches = s.launches ∧
    t.pageReqs = s.pageReqs ∧ t.pageHeld = s.pageHeld ∧ t.pageLast = s.pageLast ∧ t.takeReg = s.takeReg ∧
    t.saves = s.saves ∧ t.cpStatus = s.cpStatus ∧ t.cpWaits = s.cpWaits ∧ t.hvLog = s.hvLog ∧ t.errHeld = s.errHeld ∧
    t.hostIrq = s.hostIrq ∧ t.windows = s.windows ∧ t.busErrors = s.busErrors ∧ t.soft = s.soft ∧
    t.upsets = s.upsets ∧ t.corrected = s.corrected ∧ t.agenda = s.agenda ∧ t.stage = s.stage ∧ t.issueQ = s.issueQ ∧
    t.cur = s.cur ∧ t.turn = s.turn ∧ t.opCount = s.opCount ∧ t.uidCount = s.uidCount ∧ t.freeCount = s.freeCount := by
  refine ⟨rfl, rfl, rfl, rfl, rfl, rfl, rfl, rfl, rfl, rfl, rfl, rfl, rfl, rfl, rfl, rfl, rfl, rfl, rfl, rfl, rfl, rfl, rfl,
    rfl, rfl, rfl, rfl, rfl, rfl, rfl, rfl, rfl, rfl, rfl, rfl, rfl, rfl, rfl, rfl, rfl, rfl, rfl, rfl, rfl, rfl, rfl,
    rfl, rfl, rfl, rfl, rfl, rfl, rfl, rfl, rfl, rfl, rfl, rfl, rfl, rfl, rfl, rfl, rfl, rfl, rfl, rfl, rfl, rfl, rfl,
    rfl, rfl, rfl, rfl, rfl, rfl, rfl, rfl⟩

@[simp] theorem updTeam_rest (s : State) (t : Nat) (f : Team → Team) :
    let t := updTeam s t f
    t.ns = s.ns ∧ t.frac = s.frac ∧ t.slew = s.slew ∧ t.timeSet = s.timeSet ∧ t.dies = s.dies ∧ t.module = s.module ∧
    t.boot = s.boot ∧ t.config = s.config ∧ t.flash = s.flash ∧ t.saveCount = s.saveCount ∧ t.bootNo = s.bootNo ∧
    t.box = s.box ∧ t.boxSeq = s.boxSeq ∧ t.boxBoot = s.boxBoot ∧ t.boxFrozen = s.boxFrozen ∧ t.cores = s.cores ∧
    t.arms = s.arms ∧ t.engines = s.engines ∧ t.codes = s.codes ∧ t.mem = s.mem ∧ t.dram = s.dram ∧
    t.dramTags = s.dramTags ∧ t.poison = s.poison ∧ t.latent = s.latent ∧ t.hostCopies = s.hostCopies ∧
    t.tags = s.tags ∧ t.horizons = s.horizons ∧ t.groups = s.groups ∧ t.outer = s.outer ∧ t.flights = s.flights ∧
    t.pend = s.pend ∧ t.reqs = s.reqs ∧ t.cmds = s.cmds ∧ t.updates = s.updates ∧ t.wakes = s.wakes ∧
    t.walks = s.walks ∧ t.tlb = s.tlb ∧ t.lockq = s.lockq ∧ t.colls = s.colls ∧ t.hostWaits = s.hostWaits ∧
    t.hostHors = s.hostHors ∧ t.pcieq = s.pcieq ∧ t.links = s.links ∧ t.blockVia = s.blockVia ∧
    t.peerSeen = s.peerSeen ∧ t.routes = s.routes ∧ t.comms = s.comms ∧ t.parts = s.parts ∧ t.vds = s.vds ∧
    t.fes = s.fes ∧ t.places = s.places ∧ t.owners = s.owners ∧ t.homes = s.homes ∧ t.launches = s.launches ∧
    t.pageReqs = s.pageReqs ∧ t.pageHeld = s.pageHeld ∧ t.pageLast = s.pageLast ∧ t.takeReg = s.takeReg ∧
    t.saves = s.saves ∧ t.cpStatus = s.cpStatus ∧ t.cpWaits = s.cpWaits ∧ t.hvLog = s.hvLog ∧ t.errHeld = s.errHeld ∧
    t.hostIrq = s.hostIrq ∧ t.windows = s.windows ∧ t.busErrors = s.busErrors ∧ t.soft = s.soft ∧
    t.upsets = s.upsets ∧ t.corrected = s.corrected ∧ t.agenda = s.agenda ∧ t.stage = s.stage ∧ t.issueQ = s.issueQ ∧
    t.cur = s.cur ∧ t.turn = s.turn ∧ t.opCount = s.opCount ∧ t.uidCount = s.uidCount ∧ t.freeCount = s.freeCount := by
  refine ⟨rfl, rfl, rfl, rfl, rfl, rfl, rfl, rfl, rfl, rfl, rfl, rfl, rfl, rfl, rfl, rfl, rfl, rfl, rfl, rfl, rfl, rfl, rfl,
    rfl, rfl, rfl, rfl, rfl, rfl, rfl, rfl, rfl, rfl, rfl, rfl, rfl, rfl, rfl, rfl, rfl, rfl, rfl, rfl, rfl, rfl, rfl,
    rfl, rfl, rfl, rfl, rfl, rfl, rfl, rfl, rfl, rfl, rfl, rfl, rfl, rfl, rfl, rfl, rfl, rfl, rfl, rfl, rfl, rfl, rfl,
    rfl, rfl, rfl, rfl, rfl, rfl, rfl, rfl⟩

@[simp] theorem updFlight_rest (s : State) (o : Nat) (f : Flight → Flight) :
    let t := updFlight s o f
    t.ns = s.ns ∧ t.frac = s.frac ∧ t.slew = s.slew ∧ t.timeSet = s.timeSet ∧ t.dies = s.dies ∧ t.module = s.module ∧
    t.boot = s.boot ∧ t.config = s.config ∧ t.flash = s.flash ∧ t.saveCount = s.saveCount ∧ t.bootNo = s.bootNo ∧
    t.box = s.box ∧ t.boxSeq = s.boxSeq ∧ t.boxBoot = s.boxBoot ∧ t.boxFrozen = s.boxFrozen ∧ t.cores = s.cores ∧
    t.arms = s.arms ∧ t.engines = s.engines ∧ t.codes = s.codes ∧ t.mem = s.mem ∧ t.dram = s.dram ∧
    t.dramTags = s.dramTags ∧ t.poison = s.poison ∧ t.latent = s.latent ∧ t.hostCopies = s.hostCopies ∧
    t.tags = s.tags ∧ t.horizons = s.horizons ∧ t.groups = s.groups ∧ t.teams = s.teams ∧ t.outer = s.outer ∧
    t.pend = s.pend ∧ t.reqs = s.reqs ∧ t.cmds = s.cmds ∧ t.updates = s.updates ∧ t.wakes = s.wakes ∧
    t.walks = s.walks ∧ t.tlb = s.tlb ∧ t.lockq = s.lockq ∧ t.colls = s.colls ∧ t.hostWaits = s.hostWaits ∧
    t.hostHors = s.hostHors ∧ t.pcieq = s.pcieq ∧ t.links = s.links ∧ t.blockVia = s.blockVia ∧
    t.peerSeen = s.peerSeen ∧ t.routes = s.routes ∧ t.comms = s.comms ∧ t.parts = s.parts ∧ t.vds = s.vds ∧
    t.fes = s.fes ∧ t.places = s.places ∧ t.owners = s.owners ∧ t.homes = s.homes ∧ t.launches = s.launches ∧
    t.pageReqs = s.pageReqs ∧ t.pageHeld = s.pageHeld ∧ t.pageLast = s.pageLast ∧ t.takeReg = s.takeReg ∧
    t.saves = s.saves ∧ t.cpStatus = s.cpStatus ∧ t.cpWaits = s.cpWaits ∧ t.hvLog = s.hvLog ∧ t.errHeld = s.errHeld ∧
    t.hostIrq = s.hostIrq ∧ t.windows = s.windows ∧ t.busErrors = s.busErrors ∧ t.soft = s.soft ∧
    t.upsets = s.upsets ∧ t.corrected = s.corrected ∧ t.agenda = s.agenda ∧ t.stage = s.stage ∧ t.issueQ = s.issueQ ∧
    t.cur = s.cur ∧ t.turn = s.turn ∧ t.opCount = s.opCount ∧ t.uidCount = s.uidCount ∧ t.freeCount = s.freeCount := by
  refine ⟨rfl, rfl, rfl, rfl, rfl, rfl, rfl, rfl, rfl, rfl, rfl, rfl, rfl, rfl, rfl, rfl, rfl, rfl, rfl, rfl, rfl, rfl, rfl,
    rfl, rfl, rfl, rfl, rfl, rfl, rfl, rfl, rfl, rfl, rfl, rfl, rfl, rfl, rfl, rfl, rfl, rfl, rfl, rfl, rfl, rfl, rfl,
    rfl, rfl, rfl, rfl, rfl, rfl, rfl, rfl, rfl, rfl, rfl, rfl, rfl, rfl, rfl, rfl, rfl, rfl, rfl, rfl, rfl, rfl, rfl,
    rfl, rfl, rfl, rfl, rfl, rfl, rfl, rfl⟩

@[simp] theorem delFlight_rest (s : State) (o : Nat) :
    let t := delFlight s o
    t.ns = s.ns ∧ t.frac = s.frac ∧ t.slew = s.slew ∧ t.timeSet = s.timeSet ∧ t.dies = s.dies ∧ t.module = s.module ∧
    t.boot = s.boot ∧ t.config = s.config ∧ t.flash = s.flash ∧ t.saveCount = s.saveCount ∧ t.bootNo = s.bootNo ∧
    t.box = s.box ∧ t.boxSeq = s.boxSeq ∧ t.boxBoot = s.boxBoot ∧ t.boxFrozen = s.boxFrozen ∧ t.cores = s.cores ∧
    t.arms = s.arms ∧ t.engines = s.engines ∧ t.codes = s.codes ∧ t.mem = s.mem ∧ t.dram = s.dram ∧
    t.dramTags = s.dramTags ∧ t.poison = s.poison ∧ t.latent = s.latent ∧ t.hostCopies = s.hostCopies ∧
    t.tags = s.tags ∧ t.horizons = s.horizons ∧ t.groups = s.groups ∧ t.teams = s.teams ∧ t.outer = s.outer ∧
    t.pend = s.pend ∧ t.reqs = s.reqs ∧ t.cmds = s.cmds ∧ t.updates = s.updates ∧ t.wakes = s.wakes ∧
    t.walks = s.walks ∧ t.tlb = s.tlb ∧ t.lockq = s.lockq ∧ t.colls = s.colls ∧ t.hostWaits = s.hostWaits ∧
    t.hostHors = s.hostHors ∧ t.pcieq = s.pcieq ∧ t.links = s.links ∧ t.blockVia = s.blockVia ∧
    t.peerSeen = s.peerSeen ∧ t.routes = s.routes ∧ t.comms = s.comms ∧ t.parts = s.parts ∧ t.vds = s.vds ∧
    t.fes = s.fes ∧ t.places = s.places ∧ t.owners = s.owners ∧ t.homes = s.homes ∧ t.launches = s.launches ∧
    t.pageReqs = s.pageReqs ∧ t.pageHeld = s.pageHeld ∧ t.pageLast = s.pageLast ∧ t.takeReg = s.takeReg ∧
    t.saves = s.saves ∧ t.cpStatus = s.cpStatus ∧ t.cpWaits = s.cpWaits ∧ t.hvLog = s.hvLog ∧ t.errHeld = s.errHeld ∧
    t.hostIrq = s.hostIrq ∧ t.windows = s.windows ∧ t.busErrors = s.busErrors ∧ t.soft = s.soft ∧
    t.upsets = s.upsets ∧ t.corrected = s.corrected ∧ t.agenda = s.agenda ∧ t.stage = s.stage ∧ t.issueQ = s.issueQ ∧
    t.cur = s.cur ∧ t.turn = s.turn ∧ t.opCount = s.opCount ∧ t.uidCount = s.uidCount ∧ t.freeCount = s.freeCount := by
  refine ⟨rfl, rfl, rfl, rfl, rfl, rfl, rfl, rfl, rfl, rfl, rfl, rfl, rfl, rfl, rfl, rfl, rfl, rfl, rfl, rfl, rfl, rfl, rfl,
    rfl, rfl, rfl, rfl, rfl, rfl, rfl, rfl, rfl, rfl, rfl, rfl, rfl, rfl, rfl, rfl, rfl, rfl, rfl, rfl, rfl, rfl, rfl,
    rfl, rfl, rfl, rfl, rfl, rfl, rfl, rfl, rfl, rfl, rfl, rfl, rfl, rfl, rfl, rfl, rfl, rfl, rfl, rfl, rfl, rfl, rfl,
    rfl, rfl, rfl, rfl, rfl, rfl, rfl, rfl⟩

@[simp] theorem updReq_rest (s : State) (r : Nat) (f : Req → Req) :
    let t := updReq s r f
    t.ns = s.ns ∧ t.frac = s.frac ∧ t.slew = s.slew ∧ t.timeSet = s.timeSet ∧ t.dies = s.dies ∧ t.module = s.module ∧
    t.boot = s.boot ∧ t.config = s.config ∧ t.flash = s.flash ∧ t.saveCount = s.saveCount ∧ t.bootNo = s.bootNo ∧
    t.box = s.box ∧ t.boxSeq = s.boxSeq ∧ t.boxBoot = s.boxBoot ∧ t.boxFrozen = s.boxFrozen ∧ t.cores = s.cores ∧
    t.arms = s.arms ∧ t.engines = s.engines ∧ t.codes = s.codes ∧ t.mem = s.mem ∧ t.dram = s.dram ∧
    t.dramTags = s.dramTags ∧ t.poison = s.poison ∧ t.latent = s.latent ∧ t.hostCopies = s.hostCopies ∧
    t.tags = s.tags ∧ t.horizons = s.horizons ∧ t.groups = s.groups ∧ t.teams = s.teams ∧ t.outer = s.outer ∧
    t.flights = s.flights ∧ t.pend = s.pend ∧ t.cmds = s.cmds ∧ t.updates = s.updates ∧ t.wakes = s.wakes ∧
    t.walks = s.walks ∧ t.tlb = s.tlb ∧ t.lockq = s.lockq ∧ t.colls = s.colls ∧ t.hostWaits = s.hostWaits ∧
    t.hostHors = s.hostHors ∧ t.pcieq = s.pcieq ∧ t.links = s.links ∧ t.blockVia = s.blockVia ∧
    t.peerSeen = s.peerSeen ∧ t.routes = s.routes ∧ t.comms = s.comms ∧ t.parts = s.parts ∧ t.vds = s.vds ∧
    t.fes = s.fes ∧ t.places = s.places ∧ t.owners = s.owners ∧ t.homes = s.homes ∧ t.launches = s.launches ∧
    t.pageReqs = s.pageReqs ∧ t.pageHeld = s.pageHeld ∧ t.pageLast = s.pageLast ∧ t.takeReg = s.takeReg ∧
    t.saves = s.saves ∧ t.cpStatus = s.cpStatus ∧ t.cpWaits = s.cpWaits ∧ t.hvLog = s.hvLog ∧ t.errHeld = s.errHeld ∧
    t.hostIrq = s.hostIrq ∧ t.windows = s.windows ∧ t.busErrors = s.busErrors ∧ t.soft = s.soft ∧
    t.upsets = s.upsets ∧ t.corrected = s.corrected ∧ t.agenda = s.agenda ∧ t.stage = s.stage ∧ t.issueQ = s.issueQ ∧
    t.cur = s.cur ∧ t.turn = s.turn ∧ t.opCount = s.opCount ∧ t.uidCount = s.uidCount ∧ t.freeCount = s.freeCount := by
  refine ⟨rfl, rfl, rfl, rfl, rfl, rfl, rfl, rfl, rfl, rfl, rfl, rfl, rfl, rfl, rfl, rfl, rfl, rfl, rfl, rfl, rfl, rfl, rfl,
    rfl, rfl, rfl, rfl, rfl, rfl, rfl, rfl, rfl, rfl, rfl, rfl, rfl, rfl, rfl, rfl, rfl, rfl, rfl, rfl, rfl, rfl, rfl,
    rfl, rfl, rfl, rfl, rfl, rfl, rfl, rfl, rfl, rfl, rfl, rfl, rfl, rfl, rfl, rfl, rfl, rfl, rfl, rfl, rfl, rfl, rfl,
    rfl, rfl, rfl, rfl, rfl, rfl, rfl, rfl⟩

@[simp] theorem delReq_rest (s : State) (r : Nat) :
    let t := delReq s r
    t.ns = s.ns ∧ t.frac = s.frac ∧ t.slew = s.slew ∧ t.timeSet = s.timeSet ∧ t.dies = s.dies ∧ t.module = s.module ∧
    t.boot = s.boot ∧ t.config = s.config ∧ t.flash = s.flash ∧ t.saveCount = s.saveCount ∧ t.bootNo = s.bootNo ∧
    t.box = s.box ∧ t.boxSeq = s.boxSeq ∧ t.boxBoot = s.boxBoot ∧ t.boxFrozen = s.boxFrozen ∧ t.cores = s.cores ∧
    t.arms = s.arms ∧ t.engines = s.engines ∧ t.codes = s.codes ∧ t.mem = s.mem ∧ t.dram = s.dram ∧
    t.dramTags = s.dramTags ∧ t.poison = s.poison ∧ t.latent = s.latent ∧ t.hostCopies = s.hostCopies ∧
    t.tags = s.tags ∧ t.horizons = s.horizons ∧ t.groups = s.groups ∧ t.teams = s.teams ∧ t.outer = s.outer ∧
    t.flights = s.flights ∧ t.pend = s.pend ∧ t.cmds = s.cmds ∧ t.updates = s.updates ∧ t.wakes = s.wakes ∧
    t.walks = s.walks ∧ t.tlb = s.tlb ∧ t.lockq = s.lockq ∧ t.colls = s.colls ∧ t.hostWaits = s.hostWaits ∧
    t.hostHors = s.hostHors ∧ t.pcieq = s.pcieq ∧ t.links = s.links ∧ t.blockVia = s.blockVia ∧
    t.peerSeen = s.peerSeen ∧ t.routes = s.routes ∧ t.comms = s.comms ∧ t.parts = s.parts ∧ t.vds = s.vds ∧
    t.fes = s.fes ∧ t.places = s.places ∧ t.owners = s.owners ∧ t.homes = s.homes ∧ t.launches = s.launches ∧
    t.pageReqs = s.pageReqs ∧ t.pageHeld = s.pageHeld ∧ t.pageLast = s.pageLast ∧ t.takeReg = s.takeReg ∧
    t.saves = s.saves ∧ t.cpStatus = s.cpStatus ∧ t.cpWaits = s.cpWaits ∧ t.hvLog = s.hvLog ∧ t.errHeld = s.errHeld ∧
    t.hostIrq = s.hostIrq ∧ t.windows = s.windows ∧ t.busErrors = s.busErrors ∧ t.soft = s.soft ∧
    t.upsets = s.upsets ∧ t.corrected = s.corrected ∧ t.agenda = s.agenda ∧ t.stage = s.stage ∧ t.issueQ = s.issueQ ∧
    t.cur = s.cur ∧ t.turn = s.turn ∧ t.opCount = s.opCount ∧ t.uidCount = s.uidCount ∧ t.freeCount = s.freeCount := by
  refine ⟨rfl, rfl, rfl, rfl, rfl, rfl, rfl, rfl, rfl, rfl, rfl, rfl, rfl, rfl, rfl, rfl, rfl, rfl, rfl, rfl, rfl, rfl, rfl,
    rfl, rfl, rfl, rfl, rfl, rfl, rfl, rfl, rfl, rfl, rfl, rfl, rfl, rfl, rfl, rfl, rfl, rfl, rfl, rfl, rfl, rfl, rfl,
    rfl, rfl, rfl, rfl, rfl, rfl, rfl, rfl, rfl, rfl, rfl, rfl, rfl, rfl, rfl, rfl, rfl, rfl, rfl, rfl, rfl, rfl, rfl,
    rfl, rfl, rfl, rfl, rfl, rfl, rfl, rfl⟩

@[simp] theorem updCmd_rest (s : State) (c : Nat) (f : CopyCmd → CopyCmd) :
    let t := updCmd s c f
    t.ns = s.ns ∧ t.frac = s.frac ∧ t.slew = s.slew ∧ t.timeSet = s.timeSet ∧ t.dies = s.dies ∧ t.module = s.module ∧
    t.boot = s.boot ∧ t.config = s.config ∧ t.flash = s.flash ∧ t.saveCount = s.saveCount ∧ t.bootNo = s.bootNo ∧
    t.box = s.box ∧ t.boxSeq = s.boxSeq ∧ t.boxBoot = s.boxBoot ∧ t.boxFrozen = s.boxFrozen ∧ t.cores = s.cores ∧
    t.arms = s.arms ∧ t.engines = s.engines ∧ t.codes = s.codes ∧ t.mem = s.mem ∧ t.dram = s.dram ∧
    t.dramTags = s.dramTags ∧ t.poison = s.poison ∧ t.latent = s.latent ∧ t.hostCopies = s.hostCopies ∧
    t.tags = s.tags ∧ t.horizons = s.horizons ∧ t.groups = s.groups ∧ t.teams = s.teams ∧ t.outer = s.outer ∧
    t.flights = s.flights ∧ t.pend = s.pend ∧ t.reqs = s.reqs ∧ t.updates = s.updates ∧ t.wakes = s.wakes ∧
    t.walks = s.walks ∧ t.tlb = s.tlb ∧ t.lockq = s.lockq ∧ t.colls = s.colls ∧ t.hostWaits = s.hostWaits ∧
    t.hostHors = s.hostHors ∧ t.pcieq = s.pcieq ∧ t.links = s.links ∧ t.blockVia = s.blockVia ∧
    t.peerSeen = s.peerSeen ∧ t.routes = s.routes ∧ t.comms = s.comms ∧ t.parts = s.parts ∧ t.vds = s.vds ∧
    t.fes = s.fes ∧ t.places = s.places ∧ t.owners = s.owners ∧ t.homes = s.homes ∧ t.launches = s.launches ∧
    t.pageReqs = s.pageReqs ∧ t.pageHeld = s.pageHeld ∧ t.pageLast = s.pageLast ∧ t.takeReg = s.takeReg ∧
    t.saves = s.saves ∧ t.cpStatus = s.cpStatus ∧ t.cpWaits = s.cpWaits ∧ t.hvLog = s.hvLog ∧ t.errHeld = s.errHeld ∧
    t.hostIrq = s.hostIrq ∧ t.windows = s.windows ∧ t.busErrors = s.busErrors ∧ t.soft = s.soft ∧
    t.upsets = s.upsets ∧ t.corrected = s.corrected ∧ t.agenda = s.agenda ∧ t.stage = s.stage ∧ t.issueQ = s.issueQ ∧
    t.cur = s.cur ∧ t.turn = s.turn ∧ t.opCount = s.opCount ∧ t.uidCount = s.uidCount ∧ t.freeCount = s.freeCount := by
  refine ⟨rfl, rfl, rfl, rfl, rfl, rfl, rfl, rfl, rfl, rfl, rfl, rfl, rfl, rfl, rfl, rfl, rfl, rfl, rfl, rfl, rfl, rfl, rfl,
    rfl, rfl, rfl, rfl, rfl, rfl, rfl, rfl, rfl, rfl, rfl, rfl, rfl, rfl, rfl, rfl, rfl, rfl, rfl, rfl, rfl, rfl, rfl,
    rfl, rfl, rfl, rfl, rfl, rfl, rfl, rfl, rfl, rfl, rfl, rfl, rfl, rfl, rfl, rfl, rfl, rfl, rfl, rfl, rfl, rfl, rfl,
    rfl, rfl, rfl, rfl, rfl, rfl, rfl, rfl⟩

@[simp] theorem updLaunch_rest (s : State) (l : Nat) (f : Launch → Launch) :
    let t := updLaunch s l f
    t.ns = s.ns ∧ t.frac = s.frac ∧ t.slew = s.slew ∧ t.timeSet = s.timeSet ∧ t.dies = s.dies ∧ t.module = s.module ∧
    t.boot = s.boot ∧ t.config = s.config ∧ t.flash = s.flash ∧ t.saveCount = s.saveCount ∧ t.bootNo = s.bootNo ∧
    t.box = s.box ∧ t.boxSeq = s.boxSeq ∧ t.boxBoot = s.boxBoot ∧ t.boxFrozen = s.boxFrozen ∧ t.cores = s.cores ∧
    t.arms = s.arms ∧ t.engines = s.engines ∧ t.codes = s.codes ∧ t.mem = s.mem ∧ t.dram = s.dram ∧
    t.dramTags = s.dramTags ∧ t.poison = s.poison ∧ t.latent = s.latent ∧ t.hostCopies = s.hostCopies ∧
    t.tags = s.tags ∧ t.horizons = s.horizons ∧ t.groups = s.groups ∧ t.teams = s.teams ∧ t.outer = s.outer ∧
    t.flights = s.flights ∧ t.pend = s.pend ∧ t.reqs = s.reqs ∧ t.cmds = s.cmds ∧ t.updates = s.updates ∧
    t.wakes = s.wakes ∧ t.walks = s.walks ∧ t.tlb = s.tlb ∧ t.lockq = s.lockq ∧ t.colls = s.colls ∧
    t.hostWaits = s.hostWaits ∧ t.hostHors = s.hostHors ∧ t.pcieq = s.pcieq ∧ t.links = s.links ∧
    t.blockVia = s.blockVia ∧ t.peerSeen = s.peerSeen ∧ t.routes = s.routes ∧ t.comms = s.comms ∧ t.parts = s.parts ∧
    t.vds = s.vds ∧ t.fes = s.fes ∧ t.places = s.places ∧ t.owners = s.owners ∧ t.homes = s.homes ∧
    t.pageReqs = s.pageReqs ∧ t.pageHeld = s.pageHeld ∧ t.pageLast = s.pageLast ∧ t.takeReg = s.takeReg ∧
    t.saves = s.saves ∧ t.cpStatus = s.cpStatus ∧ t.cpWaits = s.cpWaits ∧ t.hvLog = s.hvLog ∧ t.errHeld = s.errHeld ∧
    t.hostIrq = s.hostIrq ∧ t.windows = s.windows ∧ t.busErrors = s.busErrors ∧ t.soft = s.soft ∧
    t.upsets = s.upsets ∧ t.corrected = s.corrected ∧ t.agenda = s.agenda ∧ t.stage = s.stage ∧ t.issueQ = s.issueQ ∧
    t.cur = s.cur ∧ t.turn = s.turn ∧ t.opCount = s.opCount ∧ t.uidCount = s.uidCount ∧ t.freeCount = s.freeCount := by
  refine ⟨rfl, rfl, rfl, rfl, rfl, rfl, rfl, rfl, rfl, rfl, rfl, rfl, rfl, rfl, rfl, rfl, rfl, rfl, rfl, rfl, rfl, rfl, rfl,
    rfl, rfl, rfl, rfl, rfl, rfl, rfl, rfl, rfl, rfl, rfl, rfl, rfl, rfl, rfl, rfl, rfl, rfl, rfl, rfl, rfl, rfl, rfl,
    rfl, rfl, rfl, rfl, rfl, rfl, rfl, rfl, rfl, rfl, rfl, rfl, rfl, rfl, rfl, rfl, rfl, rfl, rfl, rfl, rfl, rfl, rfl,
    rfl, rfl, rfl, rfl, rfl, rfl, rfl, rfl⟩

@[simp] theorem later_rest (s : State) (c u n : Nat) (w : WriteTo) :
    let t := later s c u n w
    t.ns = s.ns ∧ t.frac = s.frac ∧ t.slew = s.slew ∧ t.timeSet = s.timeSet ∧ t.dies = s.dies ∧ t.module = s.module ∧
    t.boot = s.boot ∧ t.config = s.config ∧ t.flash = s.flash ∧ t.saveCount = s.saveCount ∧ t.bootNo = s.bootNo ∧
    t.box = s.box ∧ t.boxSeq = s.boxSeq ∧ t.boxBoot = s.boxBoot ∧ t.boxFrozen = s.boxFrozen ∧ t.cores = s.cores ∧
    t.arms = s.arms ∧ t.engines = s.engines ∧ t.codes = s.codes ∧ t.mem = s.mem ∧ t.dram = s.dram ∧
    t.dramTags = s.dramTags ∧ t.poison = s.poison ∧ t.latent = s.latent ∧ t.hostCopies = s.hostCopies ∧
    t.tags = s.tags ∧ t.horizons = s.horizons ∧ t.groups = s.groups ∧ t.teams = s.teams ∧ t.outer = s.outer ∧
    t.flights = s.flights ∧ t.reqs = s.reqs ∧ t.cmds = s.cmds ∧ t.updates = s.updates ∧ t.wakes = s.wakes ∧
    t.walks = s.walks ∧ t.tlb = s.tlb ∧ t.lockq = s.lockq ∧ t.colls = s.colls ∧ t.hostWaits = s.hostWaits ∧
    t.hostHors = s.hostHors ∧ t.pcieq = s.pcieq ∧ t.links = s.links ∧ t.blockVia = s.blockVia ∧
    t.peerSeen = s.peerSeen ∧ t.routes = s.routes ∧ t.comms = s.comms ∧ t.parts = s.parts ∧ t.vds = s.vds ∧
    t.fes = s.fes ∧ t.places = s.places ∧ t.owners = s.owners ∧ t.homes = s.homes ∧ t.launches = s.launches ∧
    t.pageReqs = s.pageReqs ∧ t.pageHeld = s.pageHeld ∧ t.pageLast = s.pageLast ∧ t.takeReg = s.takeReg ∧
    t.saves = s.saves ∧ t.cpStatus = s.cpStatus ∧ t.cpWaits = s.cpWaits ∧ t.hvLog = s.hvLog ∧ t.errHeld = s.errHeld ∧
    t.hostIrq = s.hostIrq ∧ t.windows = s.windows ∧ t.busErrors = s.busErrors ∧ t.soft = s.soft ∧
    t.upsets = s.upsets ∧ t.corrected = s.corrected ∧ t.agenda = s.agenda ∧ t.stage = s.stage ∧ t.issueQ = s.issueQ ∧
    t.cur = s.cur ∧ t.turn = s.turn ∧ t.opCount = s.opCount ∧ t.uidCount = s.uidCount ∧ t.freeCount = s.freeCount := by
  refine ⟨rfl, rfl, rfl, rfl, rfl, rfl, rfl, rfl, rfl, rfl, rfl, rfl, rfl, rfl, rfl, rfl, rfl, rfl, rfl, rfl, rfl, rfl, rfl,
    rfl, rfl, rfl, rfl, rfl, rfl, rfl, rfl, rfl, rfl, rfl, rfl, rfl, rfl, rfl, rfl, rfl, rfl, rfl, rfl, rfl, rfl, rfl,
    rfl, rfl, rfl, rfl, rfl, rfl, rfl, rfl, rfl, rfl, rfl, rfl, rfl, rfl, rfl, rfl, rfl, rfl, rfl, rfl, rfl, rfl, rfl,
    rfl, rfl, rfl, rfl, rfl, rfl, rfl, rfl⟩

end Sys2Proof.Machine
end

