-- ==== Sys2Proof/Laws/Bytes.lean ====
section
/-!
SUPPORT. What leaves the byte memories as they were: every operation of the machine but the few of Laws/Canonical.lean.
-/
namespace Sys2Proof.Machine

/-- A loop whose every turn leaves the byte memories as they were leaves them as they were. -/
@[simp] theorem foldl_bytes {α : Type} {g : State → α → State} (h : ∀ x a, (g x a).mem = x.mem ∧ (g x a).codes = x.codes)
    (l : List α) (s : State) : (l.foldl g s).mem = s.mem ∧ (l.foldl g s).codes = s.codes := by
  induction l generalizing s with
  | nil => exact ⟨rfl, rfl⟩
  | cons a l ih => simp only [List.foldl_cons, ih, h, and_self]

@[simp] theorem ite_mem {c : Prop} [Decidable c] (a b : State) : (if c then a else b).mem = if c then a.mem else b.mem := by
  split <;> rfl

@[simp] theorem ite_codes {c : Prop} [Decidable c] (a b : State) :
    (if c then a else b).codes = if c then a.codes else b.codes := by
  split <;> rfl

/-- The same of a loop that also counts. -/
@[simp] theorem foldl_fst_bytes {α β : Type} {g : State × β → α → State × β}
    (h : ∀ x a, (g x a).1.mem = x.1.mem ∧ (g x a).1.codes = x.1.codes) (l : List α) (s : State × β) :
    (l.foldl g s).1.mem = s.1.mem ∧ (l.foldl g s).1.codes = s.1.codes := by
  induction l generalizing s with
  | nil => exact ⟨rfl, rfl⟩
  | cons a l ih => simp only [List.foldl_cons, ih, h, and_self]

@[simp] theorem newId_bytes (s : State) :
    (newId s).2.mem = s.mem ∧ (newId s).2.codes = s.codes := by
  simp [newId]

@[simp] theorem boxAppend_bytes (s : State) (code src unit ctx data : Nat) :
    (boxAppend s code src unit ctx data).mem = s.mem ∧ (boxAppend s code src unit ctx data).codes = s.codes := by
  simp [boxAppend]

@[simp] theorem applyPend_bytes (s : State) (d n : Nat) :
    (applyPend s d n).mem = s.mem ∧ (applyPend s d n).codes = s.codes := by
  simp [applyPend]

@[simp] theorem flushPend_bytes (s : State) (u : Nat) :
    (flushPend s u).mem = s.mem ∧ (flushPend s u).codes = s.codes := by
  simp [flushPend]

@[simp] theorem completeFlight_bytes (s : State) (f : Flight) :
    (completeFlight s f).mem = s.mem ∧ (completeFlight s f).codes = s.codes := by
  simp [completeFlight]

@[simp] theorem dropArrival_bytes (s : State) (u core : Nat) :
    (dropArrival s u core).mem = s.mem ∧ (dropArrival s u core).codes = s.codes := by
  unfold dropArrival; split <;> simp

@[simp] theorem raiseFault_bytes (s : State) (u : Nat) (e : TrapEntry) :
    (raiseFault s u e).mem = s.mem ∧ (raiseFault s u e).codes = s.codes := by
  unfold raiseFault; (repeat' split) <;> simp

@[simp] theorem flightFault_bytes (s : State) (f : Flight) (code detail : Nat) (lanes : Word) (addr : Nat) :
    (flightFault s f code detail lanes addr).mem = s.mem ∧ (flightFault s f code detail lanes addr).codes = s.codes := by
  simp [flightFault]

@[simp] theorem resumeGroup_bytes (s : State) (u : Nat) :
    (resumeGroup s u).mem = s.mem ∧ (resumeGroup s u).codes = s.codes := by
  unfold resumeGroup; split <;> simp

@[simp] theorem noteGen_bytes (s : State) (core slot gen : Nat) :
    (noteGen s core slot gen).mem = s.mem ∧ (noteGen s core slot gen).codes = s.codes := by
  simp [noteGen]

@[simp] theorem rerunGroup_bytes (s : State) (u : Nat) :
    (rerunGroup s u).mem = s.mem ∧ (rerunGroup s u).codes = s.codes := by
  unfold rerunGroup; split <;> simp

@[simp] theorem holdUnit_bytes (s : State) (core : Nat) (u : ExecUnit) (n : Nat) :
    (holdUnit s core u n).mem = s.mem ∧ (holdUnit s core u n).codes = s.codes := by
  unfold holdUnit; split <;> simp

@[simp] theorem updRing_bytes (s : State) (team q : Nat) (f : Ring → Ring) :
    (updRing s team q f).mem = s.mem ∧ (updRing s team q f).codes = s.codes := by
  simp [updRing]

@[simp] theorem blockRing_bytes (s : State) (team q : Nat) (push : Bool) :
    (blockRing s team q push).mem = s.mem ∧ (blockRing s team q push).codes = s.codes := by
  simp [blockRing]

@[simp] theorem beginIssue_bytes (s : State) (c : Ctx) :
    (beginIssue s c).mem = s.mem ∧ (beginIssue s c).codes = s.codes := by
  simp [beginIssue]

@[simp] theorem finishAt_bytes (s : State) (c : Ctx) (lat : Nat) :
    (finishAt s c lat).mem = s.mem ∧ (finishAt s c lat).codes = s.codes := by
  simp [finishAt]

@[simp] theorem writeAt_bytes (s : State) (c : Ctx) (lat : Nat) (w : WriteTo) :
    (writeAt s c lat w).mem = s.mem ∧ (writeAt s c lat w).codes = s.codes := by
  simp [writeAt]

@[simp] theorem afterIssue_bytes (s : State) (c : Ctx) :
    (afterIssue s c).mem = s.mem ∧ (afterIssue s c).codes = s.codes := by
  simp [afterIssue]

@[simp] theorem raiseAt_bytes (s : State) (c : Ctx) (code detail : Nat) (lanes : Word) (addr : Nat) :
    (raiseAt s c code detail lanes addr).mem = s.mem ∧ (raiseAt s c code detail lanes addr).codes = s.codes := by
  simp [raiseAt]

@[simp] theorem transfer_bytes (s : State) (c : Ctx) (t : Word) (x : Nat) :
    (transfer s c t x).mem = s.mem ∧ (transfer s c t x).codes = s.codes := by
  simp [transfer]

@[simp] theorem peel_bytes (s : State) (c : Ctx) (t : Word) (x : Nat) :
    (peel s c t x).mem = s.mem ∧ (peel s c t x).codes = s.codes := by
  simp [peel]

@[simp] theorem branchIf_bytes (cond : DWord → Bool) (c : Ctx) (s : State) :
    (branchIf cond c s).mem = s.mem ∧ (branchIf cond c s).codes = s.codes := by
  simp [branchIf]

@[simp] theorem branchMask_bytes (all : Bool) (c : Ctx) (s : State) :
    (branchMask all c s).mem = s.mem ∧ (branchMask all c s).codes = s.codes := by
  simp [branchMask]

@[simp] theorem branchIndirect_bytes (c : Ctx) (s : State) :
    (branchIndirect c s).mem = s.mem ∧ (branchIndirect c s).codes = s.codes := by
  simp [branchIndirect]

@[simp] theorem callDirect_bytes (c : Ctx) (s : State) :
    (callDirect c s).mem = s.mem ∧ (callDirect c s).codes = s.codes := by
  simp [callDirect]

@[simp] theorem callIndirect_bytes (c : Ctx) (s : State) :
    (callIndirect c s).mem = s.mem ∧ (callIndirect c s).codes = s.codes := by
  simp [callIndirect]

@[simp] theorem exitLanes_bytes (c : Ctx) (s : State) :
    (exitLanes c s).mem = s.mem ∧ (exitLanes c s).codes = s.codes := by
  simp [exitLanes]

@[simp] theorem yieldNow_bytes (c : Ctx) (s : State) :
    (yieldNow c s).mem = s.mem ∧ (yieldNow c s).codes = s.codes := by
  simp [yieldNow]

@[simp] theorem splitNow_bytes (c : Ctx) (s : State) :
    (splitNow c s).mem = s.mem ∧ (splitNow c s).codes = s.codes := by
  simp [splitNow]

@[simp] theorem sleepNow_bytes (c : Ctx) (s : State) :
    (sleepNow c s).mem = s.mem ∧ (sleepNow c s).codes = s.codes := by
  simp [sleepNow]

@[simp] theorem launchFlight_bytes (s : State) (c : Ctx) (f : Flight) :
    (launchFlight s c f).mem = s.mem ∧ (launchFlight s c f).codes = s.codes := by
  simp [launchFlight]

@[simp] theorem callLanes_bytes (c : Ctx) (s : State) :
    (callLanes c s).mem = s.mem ∧ (callLanes c s).codes = s.codes := by
  simp [callLanes]

-- enqueueLanes

@[simp] theorem enqueueCallv_bytes (s : State) (g place : Nat) :
    (enqueueCallv s g place).mem = s.mem ∧ (enqueueCallv s g place).codes = s.codes := by
  have h : ∀ (f : Flight) (g : Group) (ls : List Nat) (s : State) (a b : Word),
      (enqueueLanes f g ls s a b).mem = s.mem ∧ (enqueueLanes f g ls s a b).codes = s.codes := by
    intro f g ls
    induction ls with
    | nil => intro s a b; simp [enqueueLanes]
    | cons l r ih => intro s a b; simp only [enqueueLanes]; split <;> simp [ih]
  unfold enqueueCallv; (repeat' split) <;> simp [h]

@[simp] theorem takeItems_bytes (s : State) (g : Nat) (x : Group) (q : CalleeQueue) :
    (takeItems s g x q).mem = s.mem ∧ (takeItems s g x q).codes = s.codes := by
  simp [takeItems]

@[simp] theorem callerBack_bytes (clk : Nat) (st : State) (o : Nat) :
    (callerBack clk st o).mem = st.mem ∧ (callerBack clk st o).codes = st.codes := by
  unfold callerBack; (repeat' split) <;> simp

@[simp] theorem returnLanes_bytes (c : Ctx) (s : State) :
    (returnLanes c s).mem = s.mem ∧ (returnLanes c s).codes = s.codes := by
  simp [returnLanes]

@[simp] theorem noteBlock_bytes (s : State) (module block link : Nat) :
    (noteBlock s module block link).mem = s.mem ∧ (noteBlock s module block link).codes = s.codes := by
  simp [noteBlock]

@[simp] theorem sendFrame_bytes (s : State) (link dest block : Nat) (b : FrameBody) :
    (sendFrame s link dest block b).mem = s.mem ∧ (sendFrame s link dest block b).codes = s.codes := by
  simp [sendFrame]

@[simp] theorem sendTo_bytes (s : State) (dest block : Nat) (b : FrameBody) :
    (sendTo s dest block b).mem = s.mem ∧ (sendTo s dest block b).codes = s.codes := by
  unfold sendTo; split <;> simp

@[simp] theorem sendAway_bytes (s : State) (r : Req) :
    (sendAway s r).mem = s.mem ∧ (sendAway s r).codes = s.codes := by
  unfold sendAway; dsimp only; (repeat' split) <;> simp

@[simp] theorem sendReq_bytes (s : State) (r0 : Req) (k : Nat) :
    (sendReq s r0 k).mem = s.mem ∧ (sendReq s r0 k).codes = s.codes := by
  unfold sendReq; dsimp only; (repeat' split) <;> simp

@[simp] theorem startWalk_bytes (s : State) (part va : Nat) (op cmd : Option Nat) :
    (startWalk s part va op cmd).mem = s.mem ∧ (startWalk s part va op cmd).codes = s.codes := by
  unfold startWalk; split <;> simp

@[simp] theorem sendUpdate_bytes (s : State) (sector arm line tag : Nat) (bs : List (Nat × Byte)) (req : Nat) (drop poison : Bool) (wait : Nat) :
    (sendUpdate s sector arm line tag bs req drop poison wait).mem = s.mem ∧ (sendUpdate s sector arm line tag bs req drop poison wait).codes = s.codes := by
  simp [sendUpdate]

@[simp] theorem fillDram_bytes (s : State) (line : Nat) (data : List (Nat × Byte)) (tag : Nat) :
    (fillDram s line data tag).mem = s.mem ∧ (fillDram s line data tag).codes = s.codes := by
  simp [fillDram]

@[simp] theorem logWrite_bytes (s : State) (r : Req) :
    (logWrite s r).mem = s.mem ∧ (logWrite s r).codes = s.codes := by
  unfold logWrite; dsimp only; (repeat' split) <;> simp

@[simp] theorem logCombined_bytes (s : State) (r : Req) :
    (logCombined s r).mem = s.mem ∧ (logCombined s r).codes = s.codes := by
  simp [logCombined]

@[simp] theorem poisonLine_bytes (s : State) (l : Nat) :
    (poisonLine s l).mem = s.mem ∧ (poisonLine s l).codes = s.codes := by
  simp [poisonLine]

@[simp] theorem foundError_bytes (s : State) (line : Nat) :
    (foundError s line).mem = s.mem ∧ (foundError s line).codes = s.codes := by
  simp [foundError]

@[simp] theorem performRead_bytes (s : State) (arm : Nat) (r : Req) (deep : Bool) :
    (performRead s arm r deep).mem = s.mem ∧ (performRead s arm r deep).codes = s.codes := by
  simp [performRead]

@[simp] theorem holdReq_bytes (s : State) (arm block id : Nat) :
    (holdReq s arm block id).mem = s.mem ∧ (holdReq s arm block id).codes = s.codes := by
  simp [holdReq]

@[simp] theorem takeEntry_bytes (s : State) (arm tile : Nat) (k : MotionKind) (order lead : Nat) :
    (takeEntry s arm tile k order lead).mem = s.mem ∧ (takeEntry s arm tile k order lead).codes = s.codes := by
  simp [takeEntry]

@[simp] theorem setReply_bytes (s : State) (r : Req) (k : Nat) :
    (setReply s r k).mem = s.mem ∧ (setReply s r k).codes = s.codes := by
  unfold setReply; (repeat' split) <;> simp

@[simp] theorem toMemory_bytes (s : State) (r : Req) :
    (toMemory s r).mem = s.mem ∧ (toMemory s r).codes = s.codes := by
  simp [toMemory]

@[simp] theorem parkReq_bytes (s : State) (arm : Nat) (r : Req) :
    (parkReq s arm r).mem = s.mem ∧ (parkReq s arm r).codes = s.codes := by
  simp [parkReq]

@[simp] theorem unpark_bytes (s : State) (arm tile : Nat) :
    (unpark s arm tile).mem = s.mem ∧ (unpark s arm tile).codes = s.codes := by
  simp [unpark]

@[simp] theorem endTravel_bytes (s : State) (arm tile : Nat) :
    (endTravel s arm tile).mem = s.mem ∧ (endTravel s arm tile).codes = s.codes := by
  simp [endTravel]

@[simp] theorem startFetch_bytes (s : State) (arm : Nat) (r : Req) (target : Nat) :
    (startFetch s arm r target).mem = s.mem ∧ (startFetch s arm r target).codes = s.codes := by
  simp [startFetch]

@[simp] theorem placeAbsent_bytes (s : State) (arm : Nat) (r : Req) :
    (placeAbsent s arm r).mem = s.mem ∧ (placeAbsent s arm r).codes = s.codes := by
  unfold placeAbsent; (repeat' split) <;> simp

@[simp] theorem setOff_bytes (s : State) (arm tile target : Nat) :
    (setOff s arm tile target).mem = s.mem ∧ (setOff s arm tile target).codes = s.codes := by
  unfold setOff; dsimp only; (repeat' split) <;> simp

@[simp] theorem travelTo_bytes (s : State) (arm : Nat) (r : Req) (t : Tile) :
    (travelTo s arm r t).mem = s.mem ∧ (travelTo s arm r t).codes = s.codes := by
  unfold travelTo
  (repeat' split) <;> first | (simp; done) | exact foldl_bytes (fun x a => by (repeat' split) <;> simp) _ _

@[simp] theorem foldHorizons_bytes (s : State) (arm : Nat) (t : Tile) :
    (foldHorizons s arm t).mem = s.mem ∧ (foldHorizons s arm t).codes = s.codes := by
  simp [foldHorizons]

@[simp] theorem leaveWork_bytes (s : State) (arm : Nat) (t : Tile) :
    (leaveWork s arm t).mem = s.mem ∧ (leaveWork s arm t).codes = s.codes := by
  simp [leaveWork]

@[simp] theorem startLeave_bytes (s : State) (arm tile : Nat) :
    (startLeave s arm tile).mem = s.mem ∧ (startLeave s arm tile).codes = s.codes := by
  unfold startLeave; split <;> simp

@[simp] theorem evictNow_bytes (s : State) (arm : Nat) (t : Tile) :
    (evictNow s arm t).mem = s.mem ∧ (evictNow s arm t).codes = s.codes := by
  simp [evictNow]

@[simp] theorem evictFor_bytes (s : State) (arm : Nat) (t : Tile) (heir : Nat) :
    (evictFor s arm t heir).mem = s.mem ∧ (evictFor s arm t heir).codes = s.codes := by
  simp [evictFor]

@[simp] theorem evictSwap_bytes (s : State) (arm : Nat) (t : Tile) :
    (evictSwap s arm t).mem = s.mem ∧ (evictSwap s arm t).codes = s.codes := by
  simp [evictSwap]

@[simp] theorem forwardHome_bytes (s : State) (arm : Nat) (r : Req) :
    (forwardHome s arm r).mem = s.mem ∧ (forwardHome s arm r).codes = s.codes := by
  simp [forwardHome]

@[simp] theorem copyServe_bytes (s : State) (arm : Nat) (r : Req) :
    (copyServe s arm r).mem = s.mem ∧ (copyServe s arm r).codes = s.codes := by
  unfold copyServe; split <;> simp

@[simp] theorem refreshCopy_bytes (s : State) (r : Req) :
    (refreshCopy s r).mem = s.mem ∧ (refreshCopy s r).codes = s.codes := by
  unfold refreshCopy; dsimp only; (repeat' split) <;> simp

@[simp] theorem setPin_bytes (s : State) (arm : Nat) (r : Req) :
    (setPin s arm r).mem = s.mem ∧ (setPin s arm r).codes = s.codes := by
  simp [setPin]

@[simp] theorem awaitMotion_bytes (s : State) (arm : Nat) (r : Req) :
    (awaitMotion s arm r).mem = s.mem ∧ (awaitMotion s arm r).codes = s.codes := by
  simp [awaitMotion]

@[simp] theorem answerRiders_bytes (s : State) (arm tile : Nat) :
    (answerRiders s arm tile).mem = s.mem ∧ (answerRiders s arm tile).codes = s.codes := by
  simp [answerRiders]

@[simp] theorem leaveInPlace_bytes (s : State) (arm : Nat) (r : Req) :
    (leaveInPlace s arm r).mem = s.mem ∧ (leaveInPlace s arm r).codes = s.codes := by
  simp [leaveInPlace]

@[simp] theorem grantPin_bytes (s : State) (arm : Nat) (r : Req) (t : Tile) :
    (grantPin s arm r t).mem = s.mem ∧ (grantPin s arm r t).codes = s.codes := by
  simp [grantPin]

@[simp] theorem spiralAct_bytes (s : State) (arm : Nat) (r : Req) (t : Tile) :
    (spiralAct s arm r t).mem = s.mem ∧ (spiralAct s arm r t).codes = s.codes := by
  unfold spiralAct; split <;> simp

@[simp] theorem dropOthers_bytes (s : State) (arm line : Nat) :
    (dropOthers s arm line).mem = s.mem ∧ (dropOthers s arm line).codes = s.codes := by
  simp [dropOthers]

@[simp] theorem placeWords_bytes (s : State) (arm : Nat) (r : Req) :
    (placeWords s arm r).mem = s.mem ∧ (placeWords s arm r).codes = s.codes := by
  unfold placeWords; (repeat' split) <;> simp

@[simp] theorem applyWords_bytes (s : State) (arm : Nat) (r : Req) (t : Tile) :
    (applyWords s arm r t).mem = s.mem ∧ (applyWords s arm r t).codes = s.codes := by
  simp [applyWords]

@[simp] theorem actPresent_bytes (s : State) (arm : Nat) (r : Req) (t : Tile) :
    (actPresent s arm r t).mem = s.mem ∧ (actPresent s arm r t).codes = s.codes := by
  simp [actPresent]

@[simp] theorem startWave_bytes (s : State) (arm : Nat) (r : Req) (t : Tile) :
    (startWave s arm r t).mem = s.mem ∧ (startWave s arm r t).codes = s.codes := by
  simp [startWave]

@[simp] theorem resumeReq_bytes (s : State) (arm : Nat) (r : Req) :
    (resumeReq s arm r).mem = s.mem ∧ (resumeReq s arm r).codes = s.codes := by
  unfold resumeReq; (repeat' split) <;> simp

@[simp] theorem takeParked_bytes (s : State) (arm tile : Nat) :
    (takeParked s arm tile).mem = s.mem ∧ (takeParked s arm tile).codes = s.codes := by
  unfold takeParked; dsimp only
  rw [(unpark_bytes _ _ _).1, (unpark_bytes _ _ _).2]
  exact foldl_fst_bytes (fun x a => by (repeat' split) <;> simp) _ _

@[simp] theorem checkRenew_bytes (s : State) (r : Req) :
    (checkRenew s r).mem = s.mem ∧ (checkRenew s r).codes = s.codes := by
  unfold checkRenew; split <;> simp

@[simp] theorem settleServed_bytes (s : State) (arm : Nat) (r : Req) :
    (settleServed s arm r).mem = s.mem ∧ (settleServed s arm r).codes = s.codes := by
  simp [settleServed]

@[simp] theorem placeServed_bytes (s : State) (arm id : Nat) :
    (placeServed s arm id).mem = s.mem ∧ (placeServed s arm id).codes = s.codes := by
  unfold placeServed; dsimp only; (repeat' split) <;> simp

@[simp] theorem enterFront_bytes (s : State) (id : Nat) (r : Req) :
    (enterFront s id r).mem = s.mem ∧ (enterFront s id r).codes = s.codes := by
  simp [enterFront]

@[simp] theorem putTile_bytes (s : State) (arm tile target owner : Nat) (copy : Bool) (hole : Nat) :
    (putTile s arm tile target owner copy hole).mem = s.mem ∧ (putTile s arm tile target owner copy hole).codes = s.codes := by
  simp [putTile]

@[simp] theorem landTile_bytes (s : State) (arm tile target owner : Nat) (copy : Bool) :
    (landTile s arm tile target owner copy).mem = s.mem ∧ (landTile s arm tile target owner copy).codes = s.codes := by
  unfold landTile; dsimp only; (repeat' split) <;> simp

@[simp] theorem repin_bytes (s : State) (arm tile : Nat) :
    (repin s arm tile).mem = s.mem ∧ (repin s arm tile).codes = s.codes := by
  unfold repin; split <;> simp

@[simp] theorem pinLanded_bytes (s : State) (arm tile : Nat) :
    (pinLanded s arm tile).mem = s.mem ∧ (pinLanded s arm tile).codes = s.codes := by
  unfold pinLanded
  (repeat' split) <;> first | (simp; done) | exact foldl_bytes (fun x a => by (repeat' split) <;> simp) _ _

@[simp] theorem wordsLanded_bytes (s : State) (arm tile : Nat) :
    (wordsLanded s arm tile).mem = s.mem ∧ (wordsLanded s arm tile).codes = s.codes := by
  simp [wordsLanded]

@[simp] theorem deferLandings_bytes (s : State) (arm : Nat) :
    (deferLandings s arm).mem = s.mem ∧ (deferLandings s arm).codes = s.codes := by
  simp [deferLandings]

@[simp] theorem landed_bytes (s : State) (arm tile : Nat) :
    (landed s arm tile).mem = s.mem ∧ (landed s arm tile).codes = s.codes := by
  simp [landed]

@[simp] theorem unshare_bytes (s : State) (arm line sector : Nat) :
    (unshare s arm line sector).mem = s.mem ∧ (unshare s arm line sector).codes = s.codes := by
  simp [unshare]

@[simp] theorem takeUpdate_bytes (s : State) (u : Update) :
    (takeUpdate s u).mem = s.mem ∧ (takeUpdate s u).codes = s.codes := by
  simp [takeUpdate]

@[simp] theorem applyUpdate_bytes (s : State) (u : Update) :
    (applyUpdate s u).mem = s.mem ∧ (applyUpdate s u).codes = s.codes := by
  unfold applyUpdate; split <;> simp

@[simp] theorem bringWords_bytes (s : State) (arm : Nat) (r0 : Req) :
    (bringWords s arm r0).mem = s.mem ∧ (bringWords s arm r0).codes = s.codes := by
  unfold bringWords; dsimp only; (repeat' split) <;> simp

@[simp] theorem endNest_bytes (s : State) (arm : Nat) (r : Req) :
    (endNest s arm r).mem = s.mem ∧ (endNest s arm r).codes = s.codes := by
  unfold endNest; split <;> simp

@[simp] theorem openNest_bytes (s : State) (arm : Nat) (r : Req) :
    (openNest s arm r).mem = s.mem ∧ (openNest s arm r).codes = s.codes := by
  simp [openNest]

@[simp] theorem spadFlight_bytes (s : State) (c : Ctx) (f : Flight) (base p : Nat) :
    (spadFlight s c f base p).mem = s.mem ∧ (spadFlight s c f base p).codes = s.codes := by
  simp [spadFlight]

@[simp] theorem loadSpad_bytes (c : Ctx) (s : State) :
    (loadSpad c s).mem = s.mem ∧ (loadSpad c s).codes = s.codes := by
  simp [loadSpad]

@[simp] theorem putSpad_bytes (s : State) (team : Nat) (bs : List (Nat × Byte)) :
    (putSpad s team bs).mem = s.mem ∧ (putSpad s team bs).codes = s.codes := by
  simp [putSpad]

@[simp] theorem spadStore_bytes (s : State) (c : Ctx) (bs : List (Nat × Byte)) (p : Nat) :
    (spadStore s c bs p).mem = s.mem ∧ (spadStore s c bs p).codes = s.codes := by
  simp [spadStore]

@[simp] theorem storeSpad_bytes (c : Ctx) (s : State) :
    (storeSpad c s).mem = s.mem ∧ (storeSpad c s).codes = s.codes := by
  simp [storeSpad]

@[simp] theorem loadMask_bytes (c : Ctx) (s : State) :
    (loadMask c s).mem = s.mem ∧ (loadMask c s).codes = s.codes := by
  simp [loadMask]

@[simp] theorem storeMask_bytes (c : Ctx) (s : State) :
    (storeMask c s).mem = s.mem ∧ (storeMask c s).codes = s.codes := by
  simp [storeMask]

@[simp] theorem abandonFlight_bytes (s : State) (f : Flight) :
    (abandonFlight s f).mem = s.mem ∧ (abandonFlight s f).codes = s.codes := by
  simp [abandonFlight]

@[simp] theorem settleNr_bytes (s : State) (f : Flight) :
    (settleNr s f).mem = s.mem ∧ (settleNr s f).codes = s.codes := by
  simp [settleNr]

@[simp] theorem loseFlight_bytes (s : State) (f : Flight) :
    (loseFlight s f).mem = s.mem ∧ (loseFlight s f).codes = s.codes := by
  simp [loseFlight]

@[simp] theorem faultLanes_bytes (s : State) (f : Flight) (code detail : Nat) (ls : List LaneAcc) :
    (faultLanes s f code detail ls).mem = s.mem ∧ (faultLanes s f code detail ls).codes = s.codes := by
  unfold faultLanes; split <;> simp

@[simp] theorem postSlot_bytes (s : State) (core : Nat) (alone : Bool) :
    (postSlot s core alone).2.mem = s.mem ∧ (postSlot s core alone).2.codes = s.codes := by
  unfold postSlot; dsimp only; (repeat' split) <;> simp

@[simp] theorem sendFlightReq_bytes (s0 : State) (f : Flight) (ask : Ask) (line pol va : Nat) (dl : Bool) :
    (sendFlightReq s0 f ask line pol va dl).mem = s0.mem ∧ (sendFlightReq s0 f ask line pol va dl).codes = s0.codes := by
  unfold sendFlightReq; dsimp only; (repeat' split) <;> simp

@[simp] theorem sendFlight_bytes (s : State) (f : Flight) (ls : List LaneAcc) :
    (sendFlight s f ls).mem = s.mem ∧ (sendFlight s f ls).codes = s.codes := by
  unfold sendFlight; dsimp only
  split
  · rw [(foldl_bytes (fun x a => by simp) _ _).1, (foldl_bytes (fun x a => by simp) _ _).2]; simp
  · rw [(foldl_bytes (fun x a => by split <;> simp) _ _).1, (foldl_bytes (fun x a => by split <;> simp) _ _).2]; simp

@[simp] theorem noteWrites_bytes (s : State) (f : Flight) :
    (noteWrites s f).mem = s.mem ∧ (noteWrites s f).codes = s.codes := by
  unfold noteWrites; split <;> simp

@[simp] theorem finishTranslate_bytes (s : State) (f : Flight) :
    (finishTranslate s f).mem = s.mem ∧ (finishTranslate s f).codes = s.codes := by
  unfold finishTranslate; split <;> simp

theorem advanceOn_bytes {fin : State → Flight → State} (h : ∀ s f, (fin s f).mem = s.mem ∧ (fin s f).codes = s.codes)
    (s : State) (f : Flight) : (advanceOn fin s f).mem = s.mem ∧ (advanceOn fin s f).codes = s.codes := by
  unfold advanceOn
  split
  · simp
  · dsimp only
    split
    · split
      · exact ⟨rfl, rfl⟩
      · exact h _ _
    · exact foldl_bytes (fun x a => by split <;> simp) _ _

theorem advanceWith_bytes {fin : State → Flight → State} (h : ∀ s f, (fin s f).mem = s.mem ∧ (fin s f).codes = s.codes)
    (s : State) (op : Nat) : (advanceWith fin s op).mem = s.mem ∧ (advanceWith fin s op).codes = s.codes := by
  unfold advanceWith
  split
  · simp
  · exact advanceOn_bytes h _ _

@[simp] theorem advance_finishTranslate_bytes (s : State) (op : Nat) :
    (advanceWith finishTranslate s op).mem = s.mem ∧ (advanceWith finishTranslate s op).codes = s.codes :=
  advanceWith_bytes finishTranslate_bytes s op

@[simp] theorem start_finishTranslate_bytes (s : State) (f : Flight) :
    (advanceOn finishTranslate s f).mem = s.mem ∧ (advanceOn finishTranslate s f).codes = s.codes :=
  advanceOn_bytes finishTranslate_bytes s f

@[simp] theorem startGlobal_bytes (w : Work) (vec : Bool) (data : Nat → List (Nat × DWord)) (c : Ctx) (s : State) :
    (startGlobal w vec data c s).mem = s.mem ∧ (startGlobal w vec data c s).codes = s.codes := by
  unfold startGlobal; dsimp only; split <;> simp

@[simp] theorem startFence_bytes (c : Ctx) (s : State) :
    (startFence c s).mem = s.mem ∧ (startFence c s).codes = s.codes := by
  simp [startFence]

@[simp] theorem writeBack_bytes (s : State) (line : Nat) :
    (writeBack s line).mem = s.mem ∧ (writeBack s line).codes = s.codes := by
  unfold writeBack; dsimp only; (repeat' split) <;> simp

@[simp] theorem performDeep_bytes (s : State) (f : Flight) (lines : List Nat) :
    (performDeep s f lines).mem = s.mem ∧ (performDeep s f lines).codes = s.codes := by
  simp [performDeep]

@[simp] theorem updBar_bytes (s : State) (team b : Nat) (f : TeamBar → TeamBar) :
    (updBar s team b f).mem = s.mem ∧ (updBar s team b f).codes = s.codes := by
  simp [updBar]

@[simp] theorem withOuter_bytes (s : State) (g : Group) (key : Nat) :
    (withOuter s g key).mem = s.mem ∧ (withOuter s g key).codes = s.codes := by
  simp [withOuter]

@[simp] theorem updOuter_bytes (s : State) (g : Group) (key : Nat) (f : OuterBar → OuterBar) :
    (updOuter s g key f).mem = s.mem ∧ (updOuter s g key f).codes = s.codes := by
  simp [updOuter]

@[simp] theorem arriveNow_bytes (c : Ctx) (key : Nat) (s : State) :
    (arriveNow c key s).mem = s.mem ∧ (arriveNow c key s).codes = s.codes := by
  simp [arriveNow]

@[simp] theorem setBits_bytes (s : State) (c : Ctx) (key : Nat) (b : BarBits) :
    (setBits s c key b).mem = s.mem ∧ (setBits s c key b).codes = s.codes := by
  simp [setBits]

@[simp] theorem arriveAtBar_bytes (sync : Bool) (c : Ctx) (s : State) :
    (arriveAtBar sync c s).mem = s.mem ∧ (arriveAtBar sync c s).codes = s.codes := by
  simp [arriveAtBar]

@[simp] theorem passBar_bytes (c : Ctx) (s : State) :
    (passBar c s).mem = s.mem ∧ (passBar c s).codes = s.codes := by
  simp [passBar]

@[simp] theorem dropFromBar_bytes (c : Ctx) (s : State) :
    (dropFromBar c s).mem = s.mem ∧ (dropFromBar c s).codes = s.codes := by
  simp [dropFromBar]

theorem addPend_bytes (s : State) (team b : Nat) (n : Int) {t : State} (h : addPend s team b n = some t) :
    t.mem = s.mem ∧ t.codes = s.codes := by
  unfold addPend at h; dsimp only at h
  split at h
  · cases h
  · simp only [Option.some.injEq] at h; subst h; simp

@[simp] theorem pushInto_bytes (c : Ctx) (s : State) (xs : List Word) :
    (pushInto c s xs).mem = s.mem ∧ (pushInto c s xs).codes = s.codes := by
  simp [pushInto]

@[simp] theorem popInto_bytes (c : Ctx) (s : State) (n : Nat) (r : Ring) :
    (popInto c s n r).mem = s.mem ∧ (popInto c s n r).codes = s.codes := by
  simp [popInto]

theorem onceFaults_bytes (s : State) (f : Flight) {t : State} (h : onceFaults s f = some t) :
    t.mem = s.mem ∧ t.codes = s.codes := by
  unfold onceFaults at h; dsimp only at h
  split at h
  · cases h
  · simp only [Option.some.injEq] at h; subst h; (repeat' split) <;> simp

@[simp] theorem takeOwn_bytes (s : State) (f : Flight) :
    (takeOwn s f).mem = s.mem ∧ (takeOwn s f).codes = s.codes := by
  simp [takeOwn]

@[simp] theorem undoFault_bytes (s : State) (f : Flight) (code detail : Nat) :
    (undoFault s f code detail).mem = s.mem ∧ (undoFault s f code detail).codes = s.codes := by
  simp [undoFault]

@[simp] theorem finishSpiral_bytes (s : State) (f : Flight) :
    (finishSpiral s f).mem = s.mem ∧ (finishSpiral s f).codes = s.codes := by
  unfold finishSpiral; dsimp only
  split
  · rename_i h; rw [(onceFaults_bytes _ _ h).1, (onceFaults_bytes _ _ h).2]; simp
  · (repeat' split) <;> simp

@[simp] theorem advance_finishSpiral_bytes (s : State) (op : Nat) :
    (advanceWith finishSpiral s op).mem = s.mem ∧ (advanceWith finishSpiral s op).codes = s.codes :=
  advanceWith_bytes finishSpiral_bytes s op

@[simp] theorem start_finishSpiral_bytes (s : State) (f : Flight) :
    (advanceOn finishSpiral s f).mem = s.mem ∧ (advanceOn finishSpiral s f).codes = s.codes :=
  advanceOn_bytes finishSpiral_bytes s f

@[simp] theorem answerNow_bytes (s : State) (c : Ctx) (x : DWord) :
    (answerNow s c x).mem = s.mem ∧ (answerNow s c x).codes = s.codes := by
  simp [answerNow]

@[simp] theorem startSpiral_bytes (c : Ctx) (s : State) :
    (startSpiral c s).mem = s.mem ∧ (startSpiral c s).codes = s.codes := by
  simp [startSpiral]

@[simp] theorem spiralReply_bytes (s : State) (r : Req) :
    (spiralReply s r).mem = s.mem ∧ (spiralReply s r).codes = s.codes := by
  unfold spiralReply; dsimp only; (repeat' split) <;> simp

@[simp] theorem takeTrap_bytes (s : State) (c : Ctx) (code detail : Nat) :
    (takeTrap s c code detail).mem = s.mem ∧ (takeTrap s c code detail).codes = s.codes := by
  simp [takeTrap]

@[simp] theorem breakpoint_bytes (c : Ctx) (s : State) :
    (breakpoint c s).mem = s.mem ∧ (breakpoint c s).codes = s.codes := by
  simp [breakpoint]

@[simp] theorem enterRegion_bytes (c : Ctx) (s : State) :
    (enterRegion c s).mem = s.mem ∧ (enterRegion c s).codes = s.codes := by
  simp [enterRegion]

@[simp] theorem countEvent_bytes (c : Ctx) (s : State) :
    (countEvent c s).mem = s.mem ∧ (countEvent c s).codes = s.codes := by
  simp [countEvent]

@[simp] theorem requestPoint_bytes (c : Ctx) (s : State) :
    (requestPoint c s).mem = s.mem ∧ (requestPoint c s).codes = s.codes := by
  unfold requestPoint; (repeat' split) <;> simp

@[simp] theorem setPrio_bytes (c : Ctx) (s : State) :
    (setPrio c s).mem = s.mem ∧ (setPrio c s).codes = s.codes := by
  simp [setPrio]

@[simp] theorem queueLaunch_bytes (c : Ctx) (s : State) :
    (queueLaunch c s).mem = s.mem ∧ (queueLaunch c s).codes = s.codes := by
  unfold queueLaunch; dsimp only
  have h := advanceOn_bytes (fin := fun st f => updFlight st f.id (fun x => { x with sent := true })) (fun _ _ => by simp)
  simp only [h]; simp

@[simp] theorem askLaunch_bytes (c : Ctx) (s : State) :
    (askLaunch c s).mem = s.mem ∧ (askLaunch c s).codes = s.codes := by
  simp [askLaunch]

@[simp] theorem awaitLaunch_bytes (c : Ctx) (s : State) :
    (awaitLaunch c s).mem = s.mem ∧ (awaitLaunch c s).codes = s.codes := by
  unfold awaitLaunch; dsimp only; (repeat' split) <;> simp

@[simp] theorem completeWith_bytes (s : State) (f : Flight) (x : DWord) :
    (completeWith s f x).mem = s.mem ∧ (completeWith s f x).codes = s.codes := by
  simp [completeWith]

@[simp] theorem finishMigrate_bytes (s : State) (f : Flight) :
    (finishMigrate s f).mem = s.mem ∧ (finishMigrate s f).codes = s.codes := by
  unfold finishMigrate; dsimp only; (repeat' split) <;> simp

@[simp] theorem advance_finishMigrate_bytes (s : State) (op : Nat) :
    (advanceWith finishMigrate s op).mem = s.mem ∧ (advanceWith finishMigrate s op).codes = s.codes :=
  advanceWith_bytes finishMigrate_bytes s op

@[simp] theorem start_finishMigrate_bytes (s : State) (f : Flight) :
    (advanceOn finishMigrate s f).mem = s.mem ∧ (advanceOn finishMigrate s f).codes = s.codes :=
  advanceOn_bytes finishMigrate_bytes s f

@[simp] theorem beginMigrate_bytes (c : Ctx) (s : State) :
    (beginMigrate c s).mem = s.mem ∧ (beginMigrate c s).codes = s.codes := by
  simp [beginMigrate]

@[simp] theorem leaveBars_bytes (s : State) (g : Group) :
    (leaveBars s g).mem = s.mem ∧ (leaveBars s g).codes = s.codes := by
  unfold leaveBars
  (repeat' split) <;> first | (simp; done) | exact foldl_bytes (fun x a => by (repeat' split) <;> simp) _ _

@[simp] theorem leaveWrites_bytes (s : State) (u : Nat) (g : Group) :
    (leaveWrites s u g).mem = s.mem ∧ (leaveWrites s u g).codes = s.codes := by
  simp [leaveWrites]

@[simp] theorem moveGroup_bytes (s : State) (u : Nat) (g : Group) (f : Flight) (k : Nat) :
    (moveGroup s u g f k).mem = s.mem ∧ (moveGroup s u g f k).codes = s.codes := by
  simp [moveGroup]

@[simp] theorem addFd_bytes (s : State) (core o : Nat) (up : Bool) :
    (addFd s core o up).mem = s.mem ∧ (addFd s core o up).codes = s.codes := by
  simp [addFd]

@[simp] theorem addRd_bytes (s : State) (core o : Nat) (up : Bool) :
    (addRd s core o up).mem = s.mem ∧ (addRd s core o up).codes = s.codes := by
  simp [addRd]

@[simp] theorem readMarks_bytes (s : State) (rs : List Nat) (up : Bool) :
    (readMarks s rs up).mem = s.mem ∧ (readMarks s rs up).codes = s.codes := by
  simp [readMarks]

@[simp] theorem enqueueArray_bytes (s : State) (c : Ctx) (f : Flight) :
    (enqueueArray s c f).mem = s.mem ∧ (enqueueArray s c f).codes = s.codes := by
  simp [enqueueArray]

@[simp] theorem enterArray_bytes (reads : List Nat) (mems : List Byte) (vals : List DWord) (c : Ctx) (s : State) :
    (enterArray reads mems vals c s).mem = s.mem ∧ (enterArray reads mems vals c s).codes = s.codes := by
  simp [enterArray]

@[simp] theorem clearLatch_bytes (c : Ctx) (s : State) :
    (clearLatch c s).mem = s.mem ∧ (clearLatch c s).codes = s.codes := by
  simp [clearLatch]

@[simp] theorem startClaim_bytes (c : Ctx) (s : State) :
    (startClaim c s).mem = s.mem ∧ (startClaim c s).codes = s.codes := by
  simp [startClaim]

@[simp] theorem startRelease_bytes (c : Ctx) (s : State) :
    (startRelease c s).mem = s.mem ∧ (startRelease c s).codes = s.codes := by
  simp [startRelease]

@[simp] theorem takeClaim_bytes (s : State) (f : Flight) :
    (takeClaim s f).mem = s.mem ∧ (takeClaim s f).codes = s.codes := by
  unfold takeClaim; split <;> simp

@[simp] theorem startFeed_bytes (c : Ctx) (s : State) :
    (startFeed c s).mem = s.mem ∧ (startFeed c s).codes = s.codes := by
  simp [startFeed]

@[simp] theorem startFeeda_bytes (c : Ctx) (s : State) :
    (startFeeda c s).mem = s.mem ∧ (startFeeda c s).codes = s.codes := by
  simp [startFeeda]

@[simp] theorem enterIter_bytes (c : Ctx) (s : State) :
    (enterIter c s).mem = s.mem ∧ (enterIter c s).codes = s.codes := by
  simp [enterIter]

@[simp] theorem latchFault_bytes (s : State) (op : Op) (cs : List Nat) (code detail : Nat) :
    (latchFault s op cs code detail).mem = s.mem ∧ (latchFault s op cs code detail).codes = s.codes := by
  unfold latchFault
  dsimp only
  (repeat' split) <;> first | (simp; done) | exact foldl_bytes (fun x a => by (repeat' split) <;> simp) _ _

@[simp] theorem letGang_bytes (s : State) (cs : List Nat) :
    (letGang s cs).mem = s.mem ∧ (letGang s cs).codes = s.codes := by
  simp [letGang]

@[simp] theorem endGang_bytes (s : State) (g : Group) :
    (endGang s g).mem = s.mem ∧ (endGang s g).codes = s.codes := by
  simp [endGang]

@[simp] theorem startIter_bytes (s : State) (core : Nat) (f : Flight) :
    (startIter s core f).mem = s.mem ∧ (startIter s core f).codes = s.codes := by
  simp [startIter]

@[simp] theorem startArray_bytes (s : State) (core : Nat) (f : Flight) :
    (startArray s core f).mem = s.mem ∧ (startArray s core f).codes = s.codes := by
  simp [startArray]

@[simp] theorem doXfer_bytes (s : State) (core : Nat) (f : Flight) :
    (doXfer s core f).mem = s.mem ∧ (doXfer s core f).codes = s.codes := by
  unfold doXfer; split <;> simp

@[simp] theorem arrayEffect_bytes (s : State) (core : Nat) (f : Flight) :
    (arrayEffect s core f).mem = s.mem ∧ (arrayEffect s core f).codes = s.codes := by
  unfold arrayEffect; split <;> simp

@[simp] theorem leaveArray_bytes (s : State) (core : Nat) (f : Flight) :
    (leaveArray s core f).mem = s.mem ∧ (leaveArray s core f).codes = s.codes := by
  simp [leaveArray]

@[simp] theorem blockPut_bytes (s : State) (k p n : Nat) (f : Nat → Nat → Word) :
    (blockPut s k p n f).mem = s.mem ∧ (blockPut s k p n f).codes = s.codes := by
  simp [blockPut]

@[simp] theorem memberPhase_bytes (before : State) (ctx : Nat) (s : State) (k : Nat) :
    (memberPhase before ctx s k).mem = s.mem ∧ (memberPhase before ctx s k).codes = s.codes := by
  unfold memberPhase; exact foldl_bytes (fun x a => by simp) _ _

@[simp] theorem settleIter_bytes (core : Nat) (l : LoopSt) (e : IterEnd) (s : State) :
    (settleIter core l e s).mem = s.mem ∧ (settleIter core l e s).codes = s.codes := by
  simp [settleIter]

@[simp] theorem suspendIter_bytes (s : State) (core : Nat) :
    (suspendIter s core).mem = s.mem ∧ (suspendIter s core).codes = s.codes := by
  unfold suspendIter; split <;> simp

@[simp] theorem divergeCore_bytes (d : Nat) (st : State) (k : Nat) :
    (divergeCore d st k).mem = st.mem ∧ (divergeCore d st k).codes = st.codes := by
  unfold divergeCore; split <;> simp

@[simp] theorem endPhase_bytes (s : State) (core : Nat) (f : Flight) :
    (endPhase s core f).mem = s.mem ∧ (endPhase s core f).codes = s.codes := by
  unfold endPhase; dsimp only
  split
  · split <;> simp
  · simp
  · simp

theorem pendFor_bytes (s : State) (c : Ctx) (cmd : CopyCmd) {t : State} (h : pendFor s c cmd = some t) :
    t.mem = s.mem ∧ t.codes = s.codes := by
  unfold pendFor at h
  split at h
  · simp only [Option.some.injEq] at h; simp [← h]
  · exact addPend_bytes _ _ _ _ h

@[simp] theorem enterCmd_bytes (c : Ctx) (cmd : CopyCmd) (gs : List Guard) (slots : List Nat) (s1 : State) :
    (enterCmd c cmd gs slots s1).mem = s1.mem ∧ (enterCmd c cmd gs slots s1).codes = s1.codes := by
  simp [enterCmd]

@[simp] theorem subPend_bytes (s : State) (c : CopyCmd) (n : Nat) :
    (subPend s c n).mem = s.mem ∧ (subPend s c n).codes = s.codes := by
  unfold subPend; split <;> simp

@[simp] theorem countDown_bytes (s : State) (c : CopyCmd) (n : Nat) :
    (countDown s c n).mem = s.mem ∧ (countDown s c n).codes = s.codes := by
  simp [countDown]

@[simp] theorem freeCmd_bytes (s : State) (c : CopyCmd) :
    (freeCmd s c).mem = s.mem ∧ (freeCmd s c).codes = s.codes := by
  simp [freeCmd]

@[simp] theorem endCmds_bytes (s : State) (uid eng : Nat) (cs : List CopyCmd) :
    (endCmds s uid eng cs).mem = s.mem ∧ (endCmds s uid eng cs).codes = s.codes := by
  simp [endCmds]

@[simp] theorem cancelCmds_bytes (c : Ctx) (s : State) :
    (cancelCmds c s).mem = s.mem ∧ (cancelCmds c s).codes = s.codes := by
  simp [cancelCmds]

@[simp] theorem abortCmd_bytes (s : State) (c : CopyCmd) (detail addr : Nat) :
    (abortCmd s c detail addr).mem = s.mem ∧ (abortCmd s c detail addr).codes = s.codes := by
  simp [abortCmd]

@[simp] theorem noteStale_bytes (s : State) (c : CopyCmd) (id va : Nat) :
    (noteStale s c id va).mem = s.mem ∧ (noteStale s c id va).codes = s.codes := by
  simp [noteStale]

@[simp] theorem sendWrites_bytes (s : State) (id : Nat) (bs : List (Nat × Byte)) (addr : Nat → Nat) :
    (sendWrites s id bs addr).mem = s.mem ∧ (sendWrites s id bs addr).codes = s.codes := by
  unfold sendWrites
  dsimp only
  (repeat' split) <;> first | (simp; done) | exact foldl_bytes (fun x a => by (repeat' split) <;> simp) _ _

@[simp] theorem queueLandings_bytes (s : State) (c : CopyCmd) (bs : List (Nat × Byte)) (addr : Nat → Nat) :
    (queueLandings s c bs addr).mem = s.mem ∧ (queueLandings s c bs addr).codes = s.codes := by
  simp [queueLandings]

@[simp] theorem placeBytes_bytes (s : State) (c : CopyCmd) (bs : List (Nat × Byte)) :
    (placeBytes s c bs).mem = s.mem ∧ (placeBytes s c bs).codes = s.codes := by
  simp [placeBytes]

@[simp] theorem parkCmd_bytes (s : State) (c : CopyCmd) (cause va : Nat) :
    (parkCmd s c cause va).mem = s.mem ∧ (parkCmd s c cause va).codes = s.codes := by
  simp [parkCmd]

@[simp] theorem takeBlock_bytes (s0 : State) (c0 : CopyCmd) :
    (takeBlock s0 c0).mem = s0.mem ∧ (takeBlock s0 c0).codes = s0.codes := by
  unfold takeBlock
  dsimp only
  (repeat' split) <;> first | (simp; done) | exact foldl_bytes (fun x a => by (repeat' split) <;> simp) _ _

@[simp] theorem markEngine_bytes (s : State) (eng : Nat) (c : CopyCmd) :
    (markEngine s eng c).mem = s.mem ∧ (markEngine s eng c).codes = s.codes := by
  simp [markEngine]

@[simp] theorem sendMark_bytes (c : CopyCmd) (s : State) (va : Nat) :
    (sendMark c s va).mem = s.mem ∧ (sendMark c s va).codes = s.codes := by
  simp [sendMark]

@[simp] theorem collTake_bytes (s : State) (c : CopyCmd) (bs : List (Nat × Byte)) :
    (collTake s c bs).mem = s.mem ∧ (collTake s c bs).codes = s.codes := by
  simp [collTake]

@[simp] theorem takeBytes_bytes (s : State) (c : CopyCmd) (bs : List (Nat × Byte)) :
    (takeBytes s c bs).mem = s.mem ∧ (takeBytes s c bs).codes = s.codes := by
  simp [takeBytes]

@[simp] theorem copyReply_bytes (s : State) (r : Req) :
    (copyReply s r).mem = s.mem ∧ (copyReply s r).codes = s.codes := by
  unfold copyReply; dsimp only; (repeat' split) <;> simp

@[simp] theorem sendSignal_bytes (s : State) (c : CopyCmd) (ask : Ask) (va : Nat) :
    (sendSignal s c ask va).mem = s.mem ∧ (sendSignal s c ask va).codes = s.codes := by
  simp [sendSignal]

@[simp] theorem copyAck_bytes (s : State) (r : Req) :
    (copyAck s r).mem = s.mem ∧ (copyAck s r).codes = s.codes := by
  unfold copyAck; dsimp only; (repeat' split) <;> simp

@[simp] theorem landBlock_bytes (s : State) (core : Nat) (l : Landing) :
    (landBlock s core l).mem = s.mem ∧ (landBlock s core l).codes = s.codes := by
  unfold landBlock; dsimp only; (repeat' split) <;> simp

@[simp] theorem tellMembers_bytes (s : State) (part comm : Nat) (b : FrameBody) :
    (tellMembers s part comm b).mem = s.mem ∧ (tellMembers s part comm b).codes = s.codes := by
  unfold tellMembers
  (repeat' split) <;> first | (simp; done) | exact foldl_bytes (fun x a => by (repeat' split) <;> simp) _ _

@[simp] theorem collWritten_bytes (s : State) (op : Nat) :
    (collWritten s op).mem = s.mem ∧ (collWritten s op).codes = s.codes := by
  unfold collWritten; (repeat' split) <;> simp

@[simp] theorem collRead_bytes (s : State) (op : Nat) :
    (collRead s op).mem = s.mem ∧ (collRead s op).codes = s.codes := by
  simp [collRead]

@[simp] theorem freeWaiter_bytes (s : State) (arm part ref : Nat) :
    (freeWaiter s arm part ref).mem = s.mem ∧ (freeWaiter s arm part ref).codes = s.codes := by
  simp [freeWaiter]

theorem allocWaiter_bytes (s : State) (arm part : Nat) {x : Nat} {t : State} (h : allocWaiter s arm part = some (x, t)) :
    t.mem = s.mem ∧ t.codes = s.codes := by
  unfold allocWaiter at h
  split at h
  · simp only [Option.some.injEq, Prod.mk.injEq] at h; simp [← h.2]
  · split at h
    · cases h
    · simp only [Option.some.injEq, Prod.mk.injEq] at h; simp [← h.2]

@[simp] theorem wakeList_bytes (s : State) (arm part pa : Nat) (refs : List Nat) (value : DWord) (ct : Nat) :
    (wakeList s arm part pa refs value ct).mem = s.mem ∧ (wakeList s arm part pa refs value ct).codes = s.codes := by
  unfold wakeList; dsimp only
  simp

@[simp] theorem sendWake_bytes (s : State) (w : Wake) :
    (sendWake s w).mem = s.mem ∧ (sendWake s w).codes = s.codes := by
  simp [sendWake]

@[simp] theorem promReq_bytes (s : State) (f : Flight) (ask : Ask) (va pa from_ : Nat) :
    (promReq s f ask va pa from_).mem = s.mem ∧ (promReq s f ask va pa from_).codes = s.codes := by
  simp [promReq]

@[simp] theorem endUnflagged_bytes (s : State) (f : Flight) :
    (endUnflagged s f).mem = s.mem ∧ (endUnflagged s f).codes = s.codes := by
  simp [endUnflagged]

@[simp] theorem sendLock_bytes (s : State) (f : Flight) (va from_ : Nat) :
    (sendLock s f va from_).mem = s.mem ∧ (sendLock s f va from_).codes = s.codes := by
  unfold sendLock; split <;> simp

@[simp] theorem sendResult_bytes (s : State) (f : Flight) (r : Req) (xs : List DWord) :
    (sendResult s f r xs).mem = s.mem ∧ (sendResult s f r xs).codes = s.codes := by
  simp [sendResult]

@[simp] theorem standWaiting_bytes (s : State) (f : Flight) :
    (standWaiting s f).mem = s.mem ∧ (standWaiting s f).codes = s.codes := by
  simp [standWaiting]

@[simp] theorem promReply_bytes (s : State) (r : Req) :
    (promReply s r).mem = s.mem ∧ (promReply s r).codes = s.codes := by
  unfold promReply; dsimp only; (repeat' split) <;> simp

@[simp] theorem freeXfer_bytes (s : State) (core : Nat) :
    (freeXfer s core).mem = s.mem ∧ (freeXfer s core).codes = s.codes := by
  simp [freeXfer]

theorem linkFaults_bytes (s : State) (f : Flight) {t : State} (h : linkFaults s f = some t) :
    t.mem = s.mem ∧ t.codes = s.codes := by
  unfold linkFaults at h; dsimp only at h
  split at h
  · cases h
  · simp only [Option.some.injEq] at h; subst h; (repeat' split) <;> simp

@[simp] theorem updColl_bytes (s : State) (part comm k time : Nat) (u : Coll → Coll) :
    (updColl s part comm k time u).mem = s.mem ∧ (updColl s part comm k time u).codes = s.codes := by
  unfold updColl; split <;> simp

@[simp] theorem noteBrought_bytes (s : State) (part comm k : Nat) (b : Brought) :
    (noteBrought s part comm k b).mem = s.mem ∧ (noteBrought s part comm k b).codes = s.codes := by
  unfold noteBrought; (repeat' split) <;> simp

@[simp] theorem noteData_bytes (s : State) (part comm k rank phase off : Nat) (bytes : List Byte) :
    (noteData s part comm k rank phase off bytes).mem = s.mem ∧ (noteData s part comm k rank phase off bytes).codes = s.codes := by
  simp [noteData]

@[simp] theorem acceptColl_bytes (s : State) (f : Flight) (shape : DWord) :
    (acceptColl s f shape).mem = s.mem ∧ (acceptColl s f shape).codes = s.codes := by
  unfold acceptColl; dsimp only; (repeat' split) <;> simp

@[simp] theorem numberColls_bytes (s : State) :
    (numberColls s).mem = s.mem ∧ (numberColls s).codes = s.codes := by
  simp [numberColls]

@[simp] theorem finishLink_bytes (s : State) (f : Flight) :
    (finishLink s f).mem = s.mem ∧ (finishLink s f).codes = s.codes := by
  unfold finishLink; dsimp only
  split
  · rename_i h; rw [(linkFaults_bytes _ _ h).1, (linkFaults_bytes _ _ h).2]; simp
  · split
    · simp
    · split
      · simp
      · split
        · simp
        · rename_i s1 h
          have hb : s1.mem = s.mem ∧ s1.codes = s.codes := by
            split at h
            · rw [(addPend_bytes _ _ _ _ h).1, (addPend_bytes _ _ _ _ h).2]; simp
            · simp only [Option.some.injEq] at h; simp [← h]
          simp only [ite_mem, ite_codes, setDie_rest, flightFault_bytes, loseFlight_bytes, takeOwn_bytes, updGroup_rest,
            updFlight_rest, settleNr_bytes, delFlight_rest, hb, ite_self, and_self]

@[simp] theorem advance_finishLink_bytes (s : State) (op : Nat) :
    (advanceWith finishLink s op).mem = s.mem ∧ (advanceWith finishLink s op).codes = s.codes :=
  advanceWith_bytes finishLink_bytes s op

@[simp] theorem start_finishLink_bytes (s : State) (f : Flight) :
    (advanceOn finishLink s f).mem = s.mem ∧ (advanceOn finishLink s f).codes = s.codes :=
  advanceOn_bytes finishLink_bytes s f

@[simp] theorem startLink_bytes (c : Ctx) (s : State) :
    (startLink c s).mem = s.mem ∧ (startLink c s).codes = s.codes := by
  unfold startLink; dsimp only; simp

@[simp] theorem sendChunk_bytes (s : State) (x : Coll) (me q phase : Nat) (bytes : List Byte) :
    (sendChunk s x me q phase bytes).mem = s.mem ∧ (sendChunk s x me q phase bytes).codes = s.codes := by
  simp [sendChunk]

@[simp] theorem beginExchange_bytes (s : State) (x : Coll) (b : Brought) (n me : Nat) :
    (beginExchange s x b n me).mem = s.mem ∧ (beginExchange s x b n me).codes = s.codes := by
  simp [beginExchange]

@[simp] theorem collFault_bytes (s : State) (x : Coll) (code detail : Nat) :
    (collFault s x code detail).mem = s.mem ∧ (collFault s x code detail).codes = s.codes := by
  unfold collFault; dsimp only; (repeat' split) <;> simp

@[simp] theorem faultColl_bytes (s : State) (x : Coll) (code detail : Nat) :
    (faultColl s x code detail).mem = s.mem ∧ (faultColl s x code detail).codes = s.codes := by
  simp [faultColl]

@[simp] theorem beginReads_bytes (s : State) (x : Coll) :
    (beginReads s x).mem = s.mem ∧ (beginReads s x).codes = s.codes := by
  unfold beginReads; split <;> simp

@[simp] theorem beginWrites_bytes (s : State) (x : Coll) (b : Brought) :
    (beginWrites s x b).mem = s.mem ∧ (beginWrites s x b).codes = s.codes := by
  unfold beginWrites; dsimp only; (repeat' split) <;> simp

@[simp] theorem goOnColl_bytes (s : State) (x : Coll) (b : Brought) :
    (goOnColl s x b).mem = s.mem ∧ (goOnColl s x b).codes = s.codes := by
  simp [goOnColl]

@[simp] theorem loseOne_bytes (d : Nat) (s : State) (r : Req) :
    (loseOne d s r).mem = s.mem ∧ (loseOne d s r).codes = s.codes := by
  unfold loseOne; dsimp only; (repeat' split) <;> simp

@[simp] theorem lostReq_bytes (s : State) (r : Req) :
    (lostReq s r).mem = s.mem ∧ (lostReq s r).codes = s.codes := by
  unfold lostReq; dsimp only; (repeat' split) <;> simp

@[simp] theorem peerReq_bytes (s : State) (module token part ctx pol block : Nat) (a : MemAct) :
    (peerReq s module token part ctx pol block a).mem = s.mem ∧ (peerReq s module token part ctx pol block a).codes = s.codes := by
  unfold peerReq; dsimp only; (repeat' split) <;> simp

@[simp] theorem peerReply_bytes (s : State) (r : Req) :
    (peerReply s r).mem = s.mem ∧ (peerReply s r).codes = s.codes := by
  unfold peerReply; (repeat' split) <;> simp

@[simp] theorem takeSample_bytes (s : State) (module time : Nat) :
    (takeSample s module time).mem = s.mem ∧ (takeSample s module time).codes = s.codes := by
  simp [takeSample]

@[simp] theorem moveFrame_bytes (s : State) (dest block : Nat) (b : FrameBody) :
    (moveFrame s dest block b).mem = s.mem ∧ (moveFrame s dest block b).codes = s.codes := by
  unfold moveFrame; (repeat' split) <;> simp

@[simp] theorem takeReply_bytes (s : State) (id : Nat) (u : Req → Req) :
    (takeReply s id u).mem = s.mem ∧ (takeReply s id u).codes = s.codes := by
  unfold takeReply; split <;> simp

@[simp] theorem takeFrame_bytes (s : State) (f : LinkFrame) :
    (takeFrame s f).mem = s.mem ∧ (takeFrame s f).codes = s.codes := by
  unfold takeFrame; dsimp only; (repeat' split) <;> simp

@[simp] theorem askAgain_bytes (s : State) (link : Nat) :
    (askAgain s link).mem = s.mem ∧ (askAgain s link).codes = s.codes := by
  simp [askAgain]

@[simp] theorem linkDown_bytes (s : State) (link : Nat) :
    (linkDown s link).mem = s.mem ∧ (linkDown s link).codes = s.codes := by
  simp [linkDown]

@[simp] theorem sampleTick_bytes (before : Nat) (s : State) :
    (sampleTick before s).mem = s.mem ∧ (sampleTick before s).codes = s.codes := by
  simp [sampleTick]

@[simp] theorem hostReq_bytes (s : State) (src : Src) (part pol line : Nat) (ask : Ask) :
    (hostReq s src part pol line ask).mem = s.mem ∧ (hostReq s src part pol line ask).codes = s.codes := by
  unfold hostReq; dsimp only; (repeat' split) <;> simp

@[simp] theorem queuePcie_bytes (s : State) (requester addr : Nat) (bytes : List Byte) (msi : Bool) :
    (queuePcie s requester addr bytes msi).mem = s.mem ∧ (queuePcie s requester addr bytes msi).codes = s.codes := by
  simp [queuePcie]

@[simp] theorem pcieTick_bytes (s : State) :
    (pcieTick s).mem = s.mem ∧ (pcieTick s).codes = s.codes := by
  unfold pcieTick
  dsimp only
  (repeat' split) <;> first | (simp; done) | exact foldl_bytes (fun x a => by (repeat' split) <;> simp) _ _

@[simp] theorem hostReply_bytes (s : State) (r : Req) :
    (hostReply s r).mem = s.mem ∧ (hostReply s r).codes = s.codes := by
  unfold hostReply; split <;> simp

@[simp] theorem finishReplies_bytes (s : State) (f : Flight) :
    (finishReplies s f).mem = s.mem ∧ (finishReplies s f).codes = s.codes := by
  unfold finishReplies; split <;> simp

@[simp] theorem noteHorizon_bytes (s : State) (u ct : Nat) :
    (noteHorizon s u ct).mem = s.mem ∧ (noteHorizon s u ct).codes = s.codes := by
  simp [noteHorizon]

@[simp] theorem coreReply_bytes (s : State) (r : Req) :
    (coreReply s r).mem = s.mem ∧ (coreReply s r).codes = s.codes := by
  unfold coreReply; split <;> simp

@[simp] theorem takeAck_bytes (s : State) (r : Req) :
    (takeAck s r).mem = s.mem ∧ (takeAck s r).codes = s.codes := by
  unfold takeAck; dsimp only; (repeat' split) <;> simp

@[simp] theorem sweepReqs_bytes (s : State) :
    (sweepReqs s).mem = s.mem ∧ (sweepReqs s).codes = s.codes := by
  simp [sweepReqs]

@[simp] theorem freePageReq_bytes (s : State) (token : Nat) (engine : Bool) :
    (freePageReq s token engine).mem = s.mem ∧ (freePageReq s token engine).codes = s.codes := by
  simp [freePageReq]

theorem withStop_bytes {s : State} {u : Nat} {f : Group → TrapRec → State}
    (h : ∀ g r, (f g r).mem = s.mem ∧ (f g r).codes = s.codes) :
    (withStop s u f).mem = s.mem ∧ (withStop s u f).codes = s.codes := by
  unfold withStop; (repeat' split) <;> simp [h]

@[simp] theorem endLanes_bytes (s : State) (u : Nat) :
    (endLanes s u).mem = s.mem ∧ (endLanes s u).codes = s.codes := by
  unfold endLanes; split <;> simp

@[simp] theorem killGroup_bytes (s : State) (u : Nat) :
    (killGroup s u).mem = s.mem ∧ (killGroup s u).codes = s.codes := by
  unfold killGroup; split <;> simp

@[simp] theorem killLaunch_bytes (s : State) (l status : Nat) :
    (killLaunch s l status).mem = s.mem ∧ (killLaunch s l status).codes = s.codes := by
  simp [killLaunch]

@[simp] theorem leaveErrors_bytes (s : State) (t : Tile) :
    (leaveErrors s t).mem = s.mem ∧ (leaveErrors s t).codes = s.codes := by
  unfold leaveErrors
  (repeat' split) <;> first | (simp; done) | exact foldl_bytes (fun x a => by (repeat' split) <;> simp) _ _

@[simp] theorem inherit_bytes (s : State) (arm : Nat) (t : Tile) (heir target owner : Nat) (copy : Bool) :
    (inherit s arm t heir target owner copy).mem = s.mem ∧ (inherit s arm t heir target owner copy).codes = s.codes := by
  simp [inherit]

@[simp] theorem goneTile_bytes (s : State) (arm : Nat) (t : Tile) :
    (goneTile s arm t).mem = s.mem ∧ (goneTile s arm t).codes = s.codes := by
  simp [goneTile]

@[simp] theorem moveLocks_bytes (s : State) (old toArm block : Nat) :
    (moveLocks s old toArm block).mem = s.mem ∧ (moveLocks s old toArm block).codes = s.codes := by
  simp [moveLocks]

@[simp] theorem freeForward_bytes (s1 : State) (arm block : Nat) (f : Forward) :
    (freeForward s1 arm block f).mem = s1.mem ∧ (freeForward s1 arm block f).codes = s1.codes := by
  simp [freeForward]

@[simp] theorem advanceHead_bytes (s : State) (fe : Nat) :
    (advanceHead s fe).mem = s.mem ∧ (advanceHead s fe).codes = s.codes := by
  simp [advanceHead]

@[simp] theorem acceptCommand_bytes (s : State) (fe v kind : Nat) (r : LaunchRec) (done : Nat) (preds : List Nat) (list : List Range) :
    (acceptCommand s fe v kind r done preds list).2.mem = s.mem ∧ (acceptCommand s fe v kind r done preds list).2.codes = s.codes := by
  simp [acceptCommand]

@[simp] theorem restartWalk_bytes (part : Nat) (st : State) (w : Walk) :
    (restartWalk part st w).mem = st.mem ∧ (restartWalk part st w).codes = st.codes := by
  simp [restartWalk]

@[simp] theorem dropTranslations_bytes (s : State) (part : Nat) (rs : List Range) :
    (dropTranslations s part rs).mem = s.mem ∧ (dropTranslations s part rs).codes = s.codes := by
  simp [dropTranslations]

@[simp] theorem acceptDevice_bytes (s1 : State) (fe : Nat) (d : DevLaunch) (f : Flight) :
    (acceptDevice s1 fe d f).mem = s1.mem ∧ (acceptDevice s1 fe d f).codes = s1.codes := by
  simp [acceptDevice]

@[simp] theorem launchTick_bytes (s : State) :
    (launchTick s).mem = s.mem ∧ (launchTick s).codes = s.codes := by
  simp [launchTick]

@[simp] theorem endGroup_bytes (s : State) (u : Nat) (g : Group) :
    (endGroup s u g).mem = s.mem ∧ (endGroup s u g).codes = s.codes := by
  simp [endGroup]

@[simp] theorem clearPins_bytes (s : State) (ctx : Nat) :
    (clearPins s ctx).mem = s.mem ∧ (clearPins s ctx).codes = s.codes := by
  simp [clearPins]

@[simp] theorem endTeam_bytes (s : State) (id : Nat) (t : Team) :
    (endTeam s id t).mem = s.mem ∧ (endTeam s id t).codes = s.codes := by
  simp [endTeam]

@[simp] theorem sendDrop_bytes (s : State) (home line arm : Nat) :
    (sendDrop s home line arm).mem = s.mem ∧ (sendDrop s home line arm).codes = s.codes := by
  simp [sendDrop]

@[simp] theorem dropCopies_bytes (s : State) (part line : Nat) :
    (dropCopies s part line).mem = s.mem ∧ (dropCopies s part line).codes = s.codes := by
  simp [dropCopies]

@[simp] theorem startListing_bytes (s : State) (id : Nat) (l : Launch) :
    (startListing s id l).mem = s.mem ∧ (startListing s id l).codes = s.codes := by
  simp [startListing]

@[simp] theorem addGroup_bytes (r : LaunchRec) (team core : Nat) (num : Nat) (x : Role × Nat × Bool) (s : State) :
    (addGroup r team core num x s).mem = s.mem ∧ (addGroup r team core num x s).codes = s.codes := by
  simp [addGroup]

@[simp] theorem startTeam_bytes (l : Launch) (p : Spot) (s : State) :
    (startTeam l p s).mem = s.mem ∧ (startTeam l p s).codes = s.codes := by
  simp [startTeam]

@[simp] theorem placeTeams_bytes (s : State) (id : Nat) (l : Launch) (plan : List Spot) :
    (placeTeams s id l plan).mem = s.mem ∧ (placeTeams s id l plan).codes = s.codes := by
  simp [placeTeams]

@[simp] theorem haltTeams_bytes (s : State) (ctx : Nat) (whole : Bool) (ids : List Nat) :
    (haltTeams s ctx whole ids).mem = s.mem ∧ (haltTeams s ctx whole ids).codes = s.codes := by
  unfold haltTeams; split <;> simp

@[simp] theorem evictTeams_bytes (s : State) (ids : List Nat) :
    (evictTeams s ids).mem = s.mem ∧ (evictTeams s ids).codes = s.codes := by
  simp [evictTeams]

@[simp] theorem eligibleTick_bytes (s : State) :
    (eligibleTick s).mem = s.mem ∧ (eligibleTick s).codes = s.codes := by
  simp [eligibleTick]

@[simp] theorem choosePlacing_bytes (s : State) (part : Nat) :
    (choosePlacing s part).mem = s.mem ∧ (choosePlacing s part).codes = s.codes := by
  unfold choosePlacing; dsimp only; (repeat' split) <;> simp

@[simp] theorem dropSaved_bytes (s : State) (v : SaveSt) :
    (dropSaved s v).mem = s.mem ∧ (dropSaved s v).codes = s.codes := by
  simp [dropSaved]

@[simp] theorem liveGroup_bytes (v : SaveSt) (s : State) (g : Group) :
    (liveGroup v s g).mem = s.mem ∧ (liveGroup v s g).codes = s.codes := by
  unfold liveGroup; dsimp only; (repeat' split) <;> simp

@[simp] theorem liveMat_bytes (v : SaveSt) (s : State) (p : Nat × MatrixSt) :
    (liveMat v s p).mem = s.mem ∧ (liveMat v s p).codes = s.codes := by
  simp [liveMat]

@[simp] theorem liveQueues_bytes (v : SaveSt) (s : State) (p : Nat × List CalleeQueue) :
    (liveQueues v s p).mem = s.mem ∧ (liveQueues v s p).codes = s.codes := by
  simp [liveQueues]

@[simp] theorem collCatchUp_bytes (v : SaveSt) (s : State) (f : Flight) :
    (collCatchUp v s f).mem = s.mem ∧ (collCatchUp v s f).codes = s.codes := by
  unfold collCatchUp; (repeat' split) <;> simp

@[simp] theorem liveCopy_bytes (v : SaveSt) (s : State) (c : CopyCmd) :
    (liveCopy v s c).mem = s.mem ∧ (liveCopy v s c).codes = s.codes := by
  unfold liveCopy; split <;> simp

@[simp] theorem liveHeld_bytes (s : State) (t : Team) :
    (liveHeld s t).mem = s.mem ∧ (liveHeld s t).codes = s.codes := by
  unfold liveHeld
  (repeat' split) <;> first | (simp; done) | exact foldl_bytes (fun x a => by (repeat' split) <;> simp) _ _

@[simp] theorem suspendVd_bytes (s : State) (vd : Nat) :
    (suspendVd s vd).mem = s.mem ∧ (suspendVd s vd).codes = s.codes := by
  simp [suspendVd]

@[simp] theorem unsuspendVd_bytes (s : State) (vd : Nat) :
    (unsuspendVd s vd).mem = s.mem ∧ (unsuspendVd s vd).codes = s.codes := by
  simp [unsuspendVd]

@[simp] theorem writeVd_bytes (s : State) (v x : Nat) :
    (writeVd s v x).mem = s.mem ∧ (writeVd s v x).codes = s.codes := by
  simp [writeVd]

@[simp] theorem writeService_bytes (s : State) (v x : Nat) :
    (writeService s v x).mem = s.mem ∧ (writeService s v x).codes = s.codes := by
  simp [writeService]

@[simp] theorem recolour_bytes (s : State) (p : Nat) (c : List Nat) :
    (recolour s p c).mem = s.mem ∧ (recolour s p c).codes = s.codes := by
  simp [recolour]

@[simp] theorem writePart_bytes (s : State) (p x : Nat) :
    (writePart s p x).mem = s.mem ∧ (writePart s p x).codes = s.codes := by
  simp [writePart]

@[simp] theorem endGroups_bytes (s : State) (p : Nat) :
    (endGroups s p).mem = s.mem ∧ (endGroups s p).codes = s.codes := by
  simp [endGroups]

@[simp] theorem flushTile_bytes (s : State) (t : Tile) :
    (flushTile s t).mem = s.mem ∧ (flushTile s t).codes = s.codes := by
  simp [flushTile]

@[simp] theorem clearArm_bytes (s : State) (arm : Nat) :
    (clearArm s arm).mem = s.mem ∧ (clearArm s arm).codes = s.codes := by
  simp [clearArm]

@[simp] theorem refusePeers_bytes (s : State) (p : Nat) :
    (refusePeers s p).mem = s.mem ∧ (refusePeers s p).codes = s.codes := by
  unfold refusePeers
  (repeat' split) <;> first | (simp; done) | exact foldl_bytes (fun x a => by (repeat' split) <;> simp) _ _

@[simp] theorem planScrub_bytes (s : State) :
    (planScrub s).mem = s.mem ∧ (planScrub s).codes = s.codes := by
  simp [planScrub]

@[simp] theorem changePoint_bytes (s : State) (die p : Nat) :
    (changePoint s die p).mem = s.mem ∧ (changePoint s die p).codes = s.codes := by
  simp [changePoint]

@[simp] theorem vecPut_bytes (c : Ctx) (lat t : Nat) (f : Nat → Nat) (s : State) :
    (vecPut c lat t f s).mem = s.mem ∧ (vecPut c lat t f s).codes = s.codes := by
  simp [vecPut]

@[simp] theorem elemPut_bytes (c : Ctx) (lat w : Nat) (f : Nat → List (Nat × Nat)) (s : State) :
    (elemPut c lat w f s).mem = s.mem ∧ (elemPut c lat w f s).codes = s.codes := by
  simp [elemPut]

@[simp] theorem convertLanes_bytes (c : Ctx) (s : State) :
    (convertLanes c s).mem = s.mem ∧ (convertLanes c s).codes = s.codes := by
  simp [convertLanes]

@[simp] theorem insertLane_bytes (c : Ctx) (s : State) :
    (insertLane c s).mem = s.mem ∧ (insertLane c s).codes = s.codes := by
  simp [insertLane]

@[simp] theorem raiseHurt_bytes (t : State) (c : Ctx) (lanes : Word) :
    (raiseHurt t c lanes).mem = t.mem ∧ (raiseHurt t c lanes).codes = t.codes := by
  simp [raiseHurt]

@[simp] theorem countCorrected_bytes (s : State) (die unit : Nat) :
    (countCorrected s die unit).mem = s.mem ∧ (countCorrected s die unit).codes = s.codes := by
  simp [countCorrected]

@[simp] theorem takeUpset_bytes (s : State) (u : Upset) :
    (takeUpset s u).mem = s.mem ∧ (takeUpset s u).codes = s.codes := by
  cases u <;> simp [takeUpset]

@[simp] theorem upsetTick_bytes (s : State) : (upsetTick s).mem = s.mem ∧ (upsetTick s).codes = s.codes := by
  unfold upsetTick
  exact foldl_bytes takeUpset_bytes _ _

theorem takeDue_bytes (s : State) (k : Nat) {x : Event} {t : State} (h : takeDue s k = some (x, t)) :
    t.mem = s.mem ∧ t.codes = s.codes := by
  unfold takeDue at h
  simp only [Option.map_eq_some_iff, Prod.mk.injEq] at h
  obtain ⟨_, _, _, h⟩ := h; simp [← h]

@[simp] theorem xferTick_bytes (s : State) (d : Nat) :
    (xferTick s d).mem = s.mem ∧ (xferTick s d).codes = s.codes := by
  unfold xferTick
  (repeat' split) <;> first | (simp; done) | exact foldl_bytes (fun x a => by (repeat' split) <;> simp) _ _

@[simp] theorem endClk_bytes (s : State) (d : Nat) :
    (endClk s d).mem = s.mem ∧ (endClk s d).codes = s.codes := by
  simp [endClk]

@[simp] theorem timeTick_bytes (s : State) :
    (timeTick s).mem = s.mem ∧ (timeTick s).codes = s.codes := by
  simp [timeTick]

@[simp] theorem noteHurt_bytes (s t : State) :
    (noteHurt s t).mem = t.mem ∧ (noteHurt s t).codes = t.codes := by
  unfold noteHurt; (repeat' split) <;> simp

end Sys2Proof.Machine
end

