-- ==== Sys2Proof/Laws/Memory.lean ====
section
/-!
SUPPORT. Sparse tables and byte memory: read after write, and the canonical form that every write keeps.
-/
namespace Sys2Proof.Machine

variable {α : Type}

theorem keysRise_cons {lo : Option Nat} {j : Nat} {y : α} {r : SMap α} :
    keysRise lo ((j, y) :: r) = true ↔ (∀ l, lo = some l → l < j) ∧ keysRise (some j) r = true := by
  cases lo <;> simp [keysRise]

/-- Keys that rise from a bound rise from every lower one and from none. -/
theorem keysRise_mono {lo : Option Nat} {b : Nat} {m : SMap α} (h : keysRise (some b) m = true)
    (hl : ∀ l, lo = some l → l ≤ b) : keysRise lo m = true := by
  cases m with
  | nil => rfl
  | cons p r =>
    simp only [keysRise, Bool.and_eq_true, decide_eq_true_eq] at h ⊢
    refine ⟨?_, h.2⟩
    cases lo with
    | none => rfl
    | some l => exact decide_eq_true (Nat.lt_of_le_of_lt (hl l rfl) h.1)

theorem mget_mclr (d : α) (j k : Nat) (m : SMap α) : mget d j (mclr k m) = if j = k then d else mget d j m := by
  induction m with
  | nil => simp [mclr, mget]
  | cons p r ih =>
    simp only [mclr] at ih ⊢
    by_cases h : p.1 = k
    · rw [List.filter_cons_of_neg (by simp [h]), ih]
      split
      · rfl
      · rw [mget, if_neg (by omega)]
    · rw [List.filter_cons_of_pos (by simp [h]), mget, mget, ih]
      split <;> split <;> first | rfl | omega

/-- A key that stands at no place of a rising list is cleared by nothing. -/
theorem mclr_low {k b : Nat} {m : SMap α} (h : keysRise (some b) m = true) (hk : k ≤ b) : mclr k m = m := by
  induction m generalizing b with
  | nil => rfl
  | cons p r ih =>
    simp only [keysRise, Bool.and_eq_true, decide_eq_true_eq] at h
    have hr := ih h.2 (by omega)
    simp only [mclr] at hr ⊢
    rw [List.filter_cons_of_pos (by simp only [bne_iff_ne, ne_eq]; omega), hr]

variable [DecidableEq α] (d : α)

/-- A write of one key leaves the others as they were. -/
theorem mget_mset_ne {j k : Nat} (x : α) (m : SMap α) (h : j ≠ k) : mget d j (mset d k x m) = mget d j m := by
  induction m with
  | nil => simp only [mset]; split <;> simp [mget, Ne.symm h]
  | cons p r ih =>
    simp only [mset]
    split
    · split
      · rw [mget_mclr, if_neg h]
      · simp [mget, Ne.symm h]
    · split
      · rename_i hk
        subst hk
        split
        · rw [mget_mclr, if_neg h, mget, if_neg (Ne.symm h)]
        · simp [mget, Ne.symm h]
      · simp [mget, ih]

/-- A write of a key is what a read of it gives. -/
theorem mget_mset {k : Nat} (x : α) (m : SMap α) : mget d k (mset d k x m) = x := by
  induction m with
  | nil => simp only [mset]; split <;> simp_all [mget]
  | cons p r ih =>
    simp only [mset]
    split
    · split
      · rename_i hx; rw [mget_mclr, if_pos rfl, hx]
      · simp [mget]
    · split
      · split
        · rename_i hx; rw [mget_mclr, if_pos rfl, hx]
        · simp [mget]
      · rw [mget, if_neg (by omega)]; exact ih

/-- Reading a key after a write. -/
theorem mget_mset_ite (m : SMap α) (j k : Nat) (x : α) :
    mget d j (mset d k x m) = if j = k then x else mget d j m := by
  split
  · rename_i e; rw [e]; exact mget_mset d x m
  · rename_i e; exact mget_mset_ne d x m e

/-- A write keeps the keys rising. -/
theorem keysRise_mset (k : Nat) (x : α) {lo : Option Nat} {m : SMap α} (h : keysRise lo m = true) (hk : ∀ l, lo = some l → l < k) :
    keysRise lo (mset d k x m) = true := by
  induction m generalizing lo with
  | nil =>
    simp only [mset]
    split
    · rfl
    · exact keysRise_cons.2 ⟨hk, rfl⟩
  | cons p r ih =>
    have h' := keysRise_cons.1 h
    simp only [mset]
    split
    · rename_i hlt
      split
      · rw [mclr, List.filter_cons_of_pos (by simp only [bne_iff_ne, ne_eq]; omega)]
        have hm := mclr_low (k := k) h'.2 (by omega)
        rw [mclr] at hm
        rw [hm]
        exact h
      · exact keysRise_cons.2 ⟨hk, keysRise_cons.2 ⟨fun l hl => by simp only [Option.some.injEq] at hl; omega, h'.2⟩⟩
    · split
      · rename_i he
        split
        · rw [mclr_low h'.2 (by omega)]; exact keysRise_mono h'.2 (fun l hl => by have := hk l hl; omega)
        · rw [← he] at h'; exact keysRise_cons.2 ⟨hk, h'.2⟩
      · exact keysRise_cons.2 ⟨h'.1, ih h'.2 (fun l hl => by simp only [Option.some.injEq] at hl; omega)⟩

/-- A write leaves no entry equal to the default. -/
theorem all_mset (k : Nat) (x : α) (m : SMap α) (h : m.all (fun p => p.2 != d) = true) :
    (mset d k x m).all (fun p => p.2 != d) = true := by
  induction m with
  | nil => simp only [mset]; split <;> simp_all
  | cons p r ih =>
    have h' := h
    simp only [List.all_cons, Bool.and_eq_true] at h
    simp only [mset]
    split
    · split
      · exact List.all_eq_true.2 (fun q hq => List.all_eq_true.1 h' q (List.mem_of_mem_filter hq))
      · rename_i hx; simp only [List.all_cons, h.1, h.2, bne_iff_ne.2 hx, Bool.and_self]
    · split
      · split
        · exact List.all_eq_true.2 (fun q hq => List.all_eq_true.1 h.2 q (List.mem_of_mem_filter hq))
        · rename_i hx; simp only [List.all_cons, h.2, bne_iff_ne.2 hx, Bool.and_self]
      · simp only [List.all_cons, h.1, ih h.2, Bool.and_self]

variable {m : SMap Byte}

@[simp] theorem wf_nil : Memory.wf [] = true := rfl

theorem wf_writeByte (a : Nat) (x : Byte) (h : Memory.wf m = true) : Memory.wf (writeByte m a x) = true := by
  simp only [Memory.wf, Bool.and_eq_true] at h ⊢
  exact ⟨keysRise_mset 0 a x h.1 (by simp), all_mset 0 a x m h.2⟩

theorem wf_writeBytes (bs : List (Nat × Byte)) (h : Memory.wf m = true) : Memory.wf (writeBytes m bs) = true := by
  unfold writeBytes
  induction bs generalizing m with
  | nil => exact h
  | cons p bs ih => exact ih (wf_writeByte p.1 p.2 h)

theorem wf_msetAll (bs : List (Nat × Byte)) (h : Memory.wf m = true) : Memory.wf (msetAll 0 bs m) = true :=
  wf_writeBytes bs h

/-- Reading a byte after a write of one. -/
theorem readByte_writeByte (m : SMap Byte) (a b : Nat) (x : Byte) :
    readByte (writeByte m a x) b = if b = a then x else readByte m b := mget_mset_ite 0 m b a x

/-- A write of bytes leaves every other address as it was. -/
theorem readByte_writeBytes_ne (bs : List (Nat × Byte)) (b : Nat) (hb : ∀ p ∈ bs, p.1 ≠ b) :
    readByte (writeBytes m bs) b = readByte m b := by
  unfold writeBytes
  induction bs generalizing m with
  | nil => rfl
  | cons p bs ih =>
    have h1 : readByte (writeByte m p.1 p.2) b = readByte m b := mget_mset_ne 0 p.2 m (hb p List.mem_cons_self).symm
    rw [List.foldl_cons, ih (fun q hq => hb q (List.mem_cons_of_mem _ hq)), h1]

/-- Of several writes of one byte the last stands. -/
theorem readByte_writeBytes_last (m : SMap Byte) (pre : List (Nat × Byte)) (b : Nat × Byte) (suf : List (Nat × Byte))
    (h : ∀ q ∈ suf, q.1 ≠ b.1) : readByte (writeBytes m (pre ++ b :: suf)) b.1 = b.2 := by
  have e : writeBytes m (pre ++ b :: suf) = writeBytes (writeByte (writeBytes m pre) b.1 b.2) suf := by
    simp [writeBytes]
  rw [e, readByte_writeBytes_ne suf b.1 h, readByte_writeByte, if_pos rfl]

end Sys2Proof.Machine
end

