-- ==== Sys2Proof/Laws/Canonical.lean ====
section
/-!
SUPPORT. The operations that write the byte memories keep their canonical form; device memory is written by requests as
they are performed, by the control processors and by promise operations, the code stores only by image loads.
-/
namespace Sys2Proof.Machine

@[simp] theorem foldl_codes {α : Type} {g : State → α → State} (h : ∀ x a, (g x a).codes = x.codes) (l : List α) (s : State) :
    (l.foldl g s).codes = s.codes := by
  induction l generalizing s with
  | nil => rfl
  | cons a l ih => rw [List.foldl_cons, ih, h]

@[simp] theorem foldl_wf {α : Type} {g : State → α → State} (h : ∀ x a, Memory.wf x.mem = true → Memory.wf (g x a).mem = true)
    (l : List α) {s : State} (hs : Memory.wf s.mem = true) : Memory.wf (l.foldl g s).mem = true := by
  induction l generalizing s with
  | nil => exact hs
  | cons a l ih => exact ih (h s a hs)

@[simp] theorem foldl_snd_codes {α β : Type} {g : β × State → α → β × State} (h : ∀ x a, (g x a).2.codes = x.2.codes) (l : List α)
    (s : β × State) : (l.foldl g s).2.codes = s.2.codes := by
  induction l generalizing s with
  | nil => rfl
  | cons a l ih => rw [List.foldl_cons, ih, h]

theorem foldl_snd_wf {α β : Type} {g : β × State → α → β × State}
    (h : ∀ x a, Memory.wf x.2.mem = true → Memory.wf (g x a).2.mem = true) (l : List α) {s : β × State}
    (hs : Memory.wf s.2.mem = true) : Memory.wf (l.foldl g s).2.mem = true := by
  induction l generalizing s with
  | nil => exact hs
  | cons a l ih => exact ih (h s a hs)

theorem advanceOn_codes {fin : State → Flight → State} (h : ∀ s f, (fin s f).codes = s.codes) (s : State) (f : Flight) :
    (advanceOn fin s f).codes = s.codes := by
  unfold advanceOn
  split
  · rfl
  · dsimp only
    split
    · split
      · rfl
      · exact h _ _
    · exact foldl_codes (fun x a => by split <;> simp) _ _

theorem advanceOn_wf {fin : State → Flight → State} (h : ∀ s f, Memory.wf s.mem = true → Memory.wf (fin s f).mem = true)
    {s : State} {f : Flight} (hs : Memory.wf s.mem = true) : Memory.wf (advanceOn fin s f).mem = true := by
  unfold advanceOn
  split
  · exact hs
  · dsimp only
    split
    · split
      · exact hs
      · exact h _ _ hs
    · exact foldl_wf (fun x a hx => by split <;> simp [hx]) _ hs

theorem advanceWith_codes {fin : State → Flight → State} (h : ∀ s f, (fin s f).codes = s.codes) (s : State) (op : Nat) :
    (advanceWith fin s op).codes = s.codes := by
  unfold advanceWith
  split
  · rfl
  · exact advanceOn_codes h _ _

theorem advanceWith_wf {fin : State → Flight → State} (h : ∀ s f, Memory.wf s.mem = true → Memory.wf (fin s f).mem = true)
    {s : State} {op : Nat} (hs : Memory.wf s.mem = true) : Memory.wf (advanceWith fin s op).mem = true := by
  unfold advanceWith
  split
  · exact hs
  · exact advanceOn_wf h hs

@[simp] theorem performWrite_codes (s : State) (arm : Nat) (r : Req) (bs : List (Nat × Byte)) (deep : Bool) :
    (performWrite s arm r bs deep).codes = s.codes := by
  simp [performWrite]

@[simp] theorem performWrite_wf {s : State} {arm : Nat} {r : Req} {bs : List (Nat × Byte)} {deep : Bool} (h : Memory.wf s.mem = true) :
    Memory.wf (performWrite s arm r bs deep).mem = true := by
  simp [performWrite, writeLine, wf_writeBytes _ h]

@[simp] theorem performReq_codes (s : State) (arm : Nat) (r : Req) (deep : Bool) :
    (performReq s arm r deep).codes = s.codes := by
  unfold performReq; (repeat' split) <;> simp

@[simp] theorem performReq_wf {s : State} {arm : Nat} {r : Req} {deep : Bool} (h : Memory.wf s.mem = true) :
    Memory.wf (performReq s arm r deep).mem = true := by
  unfold performReq; dsimp only; (repeat' split) <;> simp [h]

@[simp] theorem directWrite_codes (s : State) (part pa : Nat) (bs : List Byte) :
    (directWrite s part pa bs).codes = s.codes := by
  simp [directWrite]

@[simp] theorem directWrite_wf {s : State} {part pa : Nat} {bs : List Byte} (h : Memory.wf s.mem = true) :
    Memory.wf (directWrite s part pa bs).mem = true := by
  unfold directWrite
  exact foldl_wf (fun x a hx => by dsimp only; split <;> simp [hx]) _ h

@[simp] theorem performServed_codes (s : State) (arm id : Nat) :
    (performServed s arm id).codes = s.codes := by
  unfold performServed; dsimp only; (repeat' split) <;> simp

@[simp] theorem performServed_wf {s : State} {arm id : Nat} (h : Memory.wf s.mem = true) :
    Memory.wf (performServed s arm id).mem = true := by
  unfold performServed; dsimp only; (repeat' split) <;> simp [h]

@[simp] theorem serveOne_codes (s : State) (arm id : Nat) :
    (serveOne s arm id).codes = s.codes := by
  unfold serveOne
  split <;> simp

@[simp] theorem serveOne_wf {s : State} {arm id : Nat} (h : Memory.wf s.mem = true) :
    Memory.wf (serveOne s arm id).mem = true := by
  unfold serveOne
  split <;> simp [h]

@[simp] theorem serveNext_codes (s : State) (arm : Nat) :
    (serveNext s arm).codes = s.codes := by
  unfold serveNext; (repeat' split) <;> simp

@[simp] theorem serveNext_wf {s : State} {arm : Nat} (h : Memory.wf s.mem = true) :
    Memory.wf (serveNext s arm).mem = true := by
  unfold serveNext; (repeat' split) <;> simp [h]

@[simp] theorem traceMark_codes (c : Ctx) (s : State) :
    (traceMark c s).codes = s.codes := by
  unfold traceMark; (repeat' split) <;> simp

@[simp] theorem traceMark_wf {c : Ctx} {s : State} (h : Memory.wf s.mem = true) :
    Memory.wf (traceMark c s).mem = true := by
  unfold traceMark; dsimp only; (repeat' split) <;> simp [h]

@[simp] theorem putWaiter_codes (s : State) (arm part ref : Nat) (w : Waiter) :
    (putWaiter s arm part ref w).codes = s.codes := by
  unfold putWaiter; (repeat' split) <;> simp

@[simp] theorem putWaiter_wf {s : State} {arm part ref : Nat} {w : Waiter} (h : Memory.wf s.mem = true) :
    Memory.wf (putWaiter s arm part ref w).mem = true := by
  unfold putWaiter; (repeat' split) <;> simp [h]

theorem registerWaiter_codes {s : State} {arm part head : Nat} {w : Waiter} {k : Nat} {t : State} (h : registerWaiter s arm part head w = some (k, t)) :
    t.codes = s.codes := by
  unfold registerWaiter at h
  simp only [Option.map_eq_some_iff, Prod.mk.injEq] at h
  obtain ⟨⟨k', s'⟩, h1, rfl, rfl⟩ := h
  simp [(allocWaiter_bytes _ _ _ h1).2]

theorem registerWaiter_wf {s : State} {arm part head : Nat} {w : Waiter} {k : Nat} {t : State} (h : registerWaiter s arm part head w = some (k, t)) (hm : Memory.wf s.mem = true) :
    Memory.wf t.mem = true := by
  unfold registerWaiter at h
  simp only [Option.map_eq_some_iff, Prod.mk.injEq] at h
  obtain ⟨⟨k', s'⟩, h1, rfl, rfl⟩ := h
  exact putWaiter_wf (by rw [(allocWaiter_bytes _ _ _ h1).1]; exact hm)

@[simp] theorem relocate_codes (s : State) (from_ to_ part : Nat) (refs : List Nat) (last : Nat) :
    (relocate s from_ to_ part refs last).2.codes = s.codes := by
  unfold relocate; dsimp only
  rw [foldl_codes (fun x a => by simp)]
  refine foldl_snd_codes (fun x a => ?_) _ _
  split
  · split
    · rename_i h; simp [(allocWaiter_bytes _ _ _ h).2]
    · rfl
  · rfl

@[simp] theorem relocate_wf {s : State} {from_ to_ part : Nat} {refs : List Nat} {last : Nat} (h : Memory.wf s.mem = true) :
    Memory.wf (relocate s from_ to_ part refs last).2.mem = true := by
  unfold relocate; dsimp only
  refine foldl_wf (fun x a hx => putWaiter_wf hx) _ (foldl_snd_wf (fun x a hx => ?_) _ h)
  split
  · split
    · rename_i h1; exact putWaiter_wf (by rw [(allocWaiter_bytes _ _ _ h1).1]; simp [hx])
    · exact hx
  · exact hx

@[simp] theorem cellWrite_codes (s : State) (r : Req) (k : Nat) :
    (cellWrite s r k).codes = s.codes := by
  unfold cellWrite; (repeat' split) <;> simp

@[simp] theorem cellWrite_wf {s : State} {r : Req} {k : Nat} (h : Memory.wf s.mem = true) :
    Memory.wf (cellWrite s r k).mem = true := by
  unfold cellWrite; dsimp only; (repeat' split) <;> simp [h]

@[simp] theorem promWrite_codes (s : State) (f : Flight) (va pa off : Nat) (bs : List Byte) (wait : Bool) (k : Nat) :
    (promWrite s f va pa off bs wait k).codes = s.codes := by
  simp [promWrite]

@[simp] theorem promWrite_wf {s : State} {f : Flight} {va pa off : Nat} {bs : List Byte} {wait : Bool} {k : Nat} (h : Memory.wf s.mem = true) :
    Memory.wf (promWrite s f va pa off bs wait k).mem = true := by
  simp [promWrite, h]

@[simp] theorem promUnlock_codes (s : State) (f : Flight) (va pa : Nat) (wait : Bool) :
    (promUnlock s f va pa wait).codes = s.codes := by
  simp [promUnlock]

@[simp] theorem promUnlock_wf {s : State} {f : Flight} {va pa : Nat} {wait : Bool} (h : Memory.wf s.mem = true) :
    Memory.wf (promUnlock s f va pa wait).mem = true := by
  simp [promUnlock, h]

@[simp] theorem releaseLocks_codes (s : State) (f : Flight) (wait : Bool) :
    (releaseLocks s f wait).codes = s.codes := by
  unfold releaseLocks
  exact foldl_codes (fun x a => by split <;> simp) _ _

@[simp] theorem releaseLocks_wf {s : State} {f : Flight} {wait : Bool} (h : Memory.wf s.mem = true) :
    Memory.wf (releaseLocks s f wait).mem = true := by
  unfold releaseLocks
  exact foldl_wf (fun x a hx => by split <;> simp [hx]) _ h

@[simp] theorem promFault_codes (s : State) (f : Flight) (code detail addr : Nat) :
    (promFault s f code detail addr).codes = s.codes := by
  simp [promFault]

@[simp] theorem promFault_wf {s : State} {f : Flight} {code detail addr : Nat} (h : Memory.wf s.mem = true) :
    Memory.wf (promFault s f code detail addr).mem = true := by
  simp [promFault, h]

@[simp] theorem visitAt_codes (s : State) (f : Flight) (va from_ : Nat) (step : PromStep) :
    (visitAt s f va from_ step).codes = s.codes := by
  unfold visitAt; (repeat' split) <;> simp

@[simp] theorem visitAt_wf {s : State} {f : Flight} {va from_ : Nat} {step : PromStep} (h : Memory.wf s.mem = true) :
    Memory.wf (visitAt s f va from_ step).mem = true := by
  unfold visitAt; (repeat' split) <;> simp [h]

@[simp] theorem sendVisit_codes (s : State) (f : Flight) (va n from_ : Nat) (step : PromStep) :
    (sendVisit s f va n from_ step).codes = s.codes := by
  simp [sendVisit]

@[simp] theorem sendVisit_wf {s : State} {f : Flight} {va n from_ : Nat} {step : PromStep} (h : Memory.wf s.mem = true) :
    Memory.wf (sendVisit s f va n from_ step).mem = true := by
  unfold sendVisit; (repeat' split) <;> simp [h]

@[simp] theorem resumeVisit_codes (s : State) (f : Flight) :
    (resumeVisit s f).codes = s.codes := by
  unfold resumeVisit; (repeat' split) <;> simp

@[simp] theorem resumeVisit_wf {s : State} {f : Flight} (h : Memory.wf s.mem = true) :
    Memory.wf (resumeVisit s f).mem = true := by
  unfold resumeVisit; (repeat' split) <;> simp [h]

@[simp] theorem startFind_codes (s : State) (f : Flight) (from_ : Nat) :
    (startFind s f from_).codes = s.codes := by
  simp [startFind]

@[simp] theorem startFind_wf {s : State} {f : Flight} {from_ : Nat} (h : Memory.wf s.mem = true) :
    Memory.wf (startFind s f from_).mem = true := by
  simp [startFind, h]

@[simp] theorem doFill_codes (s : State) (f : Flight) (va pa : Nat) :
    (doFill s f va pa).codes = s.codes := by
  simp [doFill]

@[simp] theorem doFill_wf {s : State} {f : Flight} {va pa : Nat} (h : Memory.wf s.mem = true) :
    Memory.wf (doFill s f va pa).mem = true := by
  unfold doFill; dsimp only; (repeat' split) <;> simp [h]

@[simp] theorem joinWaiters_codes (s : State) (armC armR part : Nat) (refs : List Nat) (old : Nat) :
    (joinWaiters s armC armR part refs old).2.codes = s.codes := by
  unfold joinWaiters; (repeat' split) <;> simp

@[simp] theorem joinWaiters_wf {s : State} {armC armR part : Nat} {refs : List Nat} {old : Nat} (h : Memory.wf s.mem = true) :
    Memory.wf (joinWaiters s armC armR part refs old).2.mem = true := by
  unfold joinWaiters
  split
  · exact h
  · exact relocate_wf h

@[simp] theorem equateInto_codes (s : State) (f : Flight) (r c : Nat × Nat) :
    (equateInto s f r c).codes = s.codes := by
  simp [equateInto]

@[simp] theorem equateInto_wf {s : State} {f : Flight} {r c : Nat × Nat} (h : Memory.wf s.mem = true) :
    Memory.wf (equateInto s f r c).mem = true := by
  have h1 : Memory.wf (settleNr s f).mem = true := by simp [h]
  unfold equateInto; dsimp only
  simp only [ite_mem, apply_ite Memory.wf, wakeList_bytes, updArm_rest, promFault_wf h, promWrite_wf (promWrite_wf h1),
    promWrite_wf (joinWaiters_wf (promWrite_wf h1)), ite_self]

@[simp] theorem doEquate_codes (s : State) (f : Flight) (lo hi : Nat × Nat) :
    (doEquate s f lo hi).codes = s.codes := by
  simp [doEquate]

@[simp] theorem doEquate_wf {s : State} {f : Flight} {lo hi : Nat × Nat} (h : Memory.wf s.mem = true) :
    Memory.wf (doEquate s f lo hi).mem = true := by
  unfold doEquate; dsimp only; (repeat' split) <;> simp [h]

@[simp] theorem doWait_codes (s : State) (f : Flight) (r : Req) (va pa : Nat) :
    (doWait s f r va pa).codes = s.codes := by
  unfold doWait; dsimp only
  split
  · simp
  · split
    · simp
    · rename_i h; simp [registerWaiter_codes h]

@[simp] theorem doWait_wf {s : State} {f : Flight} {r : Req} {va pa : Nat} (h : Memory.wf s.mem = true) :
    Memory.wf (doWait s f r va pa).mem = true := by
  unfold doWait; dsimp only
  split
  · simp [h]
  · split
    · simp [h]
    · rename_i hr; simp [registerWaiter_wf hr h]

@[simp] theorem underLock_codes (s : State) (f : Flight) (r : Req) :
    (underLock s f r).codes = s.codes := by
  unfold underLock; (repeat' split) <;> simp

@[simp] theorem underLock_wf {s : State} {f : Flight} {r : Req} (h : Memory.wf s.mem = true) :
    Memory.wf (underLock s f r).mem = true := by
  unfold underLock; (repeat' split) <;> simp [h]

@[simp] theorem rootFound_codes (s : State) (f0 : Flight) (r : Req) (va pa value w : Nat) :
    (rootFound s f0 r va pa value w).codes = s.codes := by
  unfold rootFound; dsimp only; (repeat' split) <;> simp

@[simp] theorem rootFound_wf {s : State} {f0 : Flight} {r : Req} {va pa value w : Nat} (h : Memory.wf s.mem = true) :
    Memory.wf (rootFound s f0 r va pa value w).mem = true := by
  unfold rootFound; dsimp only; (repeat' split) <;> simp [h]

@[simp] theorem visited_codes (s : State) (f : Flight) (r : Req) (pa : Nat) :
    (visited s f r pa).codes = s.codes := by
  unfold visited; dsimp only; (repeat' split) <;> simp

@[simp] theorem visited_wf {s : State} {f : Flight} {r : Req} {pa : Nat} (h : Memory.wf s.mem = true) :
    Memory.wf (visited s f r pa).mem = true := by
  unfold visited; dsimp only; (repeat' split) <;> simp [h]

@[simp] theorem promStep_codes (s : State) (f : Flight) (r : Req) :
    (promStep s f r).codes = s.codes := by
  unfold promStep; (repeat' split) <;> simp

@[simp] theorem promStep_wf {s : State} {f : Flight} {r : Req} (h : Memory.wf s.mem = true) :
    Memory.wf (promStep s f r).mem = true := by
  unfold promStep; (repeat' split) <;> simp [h]

@[simp] theorem orphanVisit_codes (s : State) (r : Req) :
    (orphanVisit s r).codes = s.codes := by
  unfold orphanVisit; dsimp only; (repeat' split) <;> simp

@[simp] theorem orphanVisit_wf {s : State} {r : Req} (h : Memory.wf s.mem = true) :
    Memory.wf (orphanVisit s r).mem = true := by
  unfold orphanVisit; dsimp only; (repeat' split) <;> simp [h]

@[simp] theorem finishPromise_codes (s : State) (f : Flight) :
    (finishPromise s f).codes = s.codes := by
  unfold finishPromise; dsimp only
  split
  · rename_i h; exact (onceFaults_bytes _ _ h).2
  · split
    · simp
    · split <;> simp

@[simp] theorem finishPromise_wf {s : State} {f : Flight} (h : Memory.wf s.mem = true) :
    Memory.wf (finishPromise s f).mem = true := by
  unfold finishPromise; dsimp only
  split
  · rename_i h1; rw [(onceFaults_bytes _ _ h1).1]; exact h
  · split
    · simp [h]
    · split <;> simp [h]

@[simp] theorem startPromise_codes (c : Ctx) (s : State) :
    (startPromise c s).codes = s.codes := by
  unfold startPromise; dsimp only
  rw [advanceOn_codes finishPromise_codes]
  split <;> simp

@[simp] theorem startPromise_wf {c : Ctx} {s : State} (h : Memory.wf s.mem = true) :
    Memory.wf (startPromise c s).mem = true := by
  unfold startPromise; dsimp only
  refine advanceOn_wf (fun _ _ => finishPromise_wf) ?_
  split <;> simp [h]

@[simp] theorem moveRecords_codes (s : State) (from_ to_ part block : Nat) :
    (moveRecords s from_ to_ part block).codes = s.codes := by
  simp [moveRecords]

@[simp] theorem moveRecords_wf {s : State} {from_ to_ part block : Nat} (h : Memory.wf s.mem = true) :
    Memory.wf (moveRecords s from_ to_ part block).mem = true := by
  unfold moveRecords; dsimp only
  exact foldl_wf (fun x a hx => by simp [hx]) _ h

@[simp] theorem advanceFlight_codes (s : State) (op : Nat) :
    (advanceFlight s op).codes = s.codes := by
  unfold advanceFlight
  split
  · rfl
  · split
    · simp
    · simp
    · split
      · simp
      · exact advanceWith_codes finishPromise_codes _ _
    · simp
    · exact advanceWith_codes (fun _ _ => by simp) _ _
    · simp

@[simp] theorem advanceFlight_wf {s : State} {op : Nat} (h : Memory.wf s.mem = true) :
    Memory.wf (advanceFlight s op).mem = true := by
  unfold advanceFlight
  split
  · exact h
  · split
    · simp [h]
    · simp [h]
    · split
      · simp [h]
      · exact advanceWith_wf (fun _ _ => finishPromise_wf) h
    · simp [h]
    · exact advanceWith_wf (fun _ _ hx => by simp [hx]) h
    · simp [h]

@[simp] theorem endWalk_codes (s : State) (w : Walk) (cause : Option Nat) :
    (endWalk s w cause).codes = s.codes := by
  unfold endWalk; (repeat' split) <;> simp

@[simp] theorem endWalk_wf {s : State} {w : Walk} {cause : Option Nat} (h : Memory.wf s.mem = true) :
    Memory.wf (endWalk s w cause).mem = true := by
  unfold endWalk; dsimp only
  refine foldl_wf (fun x a hx => advanceFlight_wf hx) _ ?_
  split <;> simp [h]

@[simp] theorem appendRecord_codes (s : State) (v : Nat) (bs : List Byte) :
    (appendRecord s v bs).codes = s.codes := by
  simp [appendRecord]

@[simp] theorem appendRecord_wf {s : State} {v : Nat} {bs : List Byte} (h : Memory.wf s.mem = true) :
    Memory.wf (appendRecord s v bs).mem = true := by
  simp [appendRecord, h]

@[simp] theorem queueRecord_codes (s : State) (u : Nat) (g : Group) (r : TrapRec) :
    (queueRecord s u g r).codes = s.codes := by
  unfold queueRecord; (repeat' split) <;> simp

@[simp] theorem queueRecord_wf {s : State} {u : Nat} {g : Group} {r : TrapRec} (h : Memory.wf s.mem = true) :
    Memory.wf (queueRecord s u g r).mem = true := by
  unfold queueRecord; (repeat' split) <;> simp [h]

@[simp] theorem moveHome_codes (s : State) (block toArm old part : Nat) :
    (moveHome s block toArm old part).codes = s.codes := by
  simp [moveHome]

@[simp] theorem moveHome_wf {s : State} {block toArm old part : Nat} (h : Memory.wf s.mem = true) :
    Memory.wf (moveHome s block toArm old part).mem = true := by
  unfold moveHome; dsimp only
  simp [h]

@[simp] theorem writeDone_codes (s : State) (part addr id status : Nat) :
    (writeDone s part addr id status).codes = s.codes := by
  unfold writeDone; (repeat' split) <;> simp

@[simp] theorem writeDone_wf {s : State} {part addr id status : Nat} (h : Memory.wf s.mem = true) :
    Memory.wf (writeDone s part addr id status).mem = true := by
  unfold writeDone; (repeat' split) <;> simp [h]

theorem takeCommand_codes {s : State} {fe : Nat} {c : BitVec 512} {accept : State → Nat → State}
    (h : ∀ st v, (accept st v).codes = st.codes) : (takeCommand s fe c accept).codes = s.codes := by
  unfold takeCommand; dsimp only
  (repeat' split) <;> simp [h]

theorem takeCommand_wf {s : State} {fe : Nat} {c : BitVec 512} {accept : State → Nat → State}
    (h : ∀ st v, Memory.wf st.mem = true → Memory.wf (accept st v).mem = true) (hs : Memory.wf s.mem = true) :
    Memory.wf (takeCommand s fe c accept).mem = true := by
  have ha (st : State) (v : Nat) (hm : Memory.wf st.mem = true) := h st v hm
  unfold takeCommand; dsimp only
  split
  · exact hs
  · simp only [apply_ite Memory.wf, ite_mem]
    rw [ha _ _ (by simp [hs]), writeDone_wf (by simp [hs])]
    simp

@[simp] theorem endListing_codes (s : State) (id : Nat) (l : Launch) :
    (endListing s id l).codes = s.codes := by
  simp [endListing]

@[simp] theorem endListing_wf {s : State} {id : Nat} {l : Launch} (h : Memory.wf s.mem = true) :
    Memory.wf (endListing s id l).mem = true := by
  unfold endListing
  exact writeDone_wf (by simp [h])

@[simp] theorem writeSave_codes (s : State) (id : Nat) (v0 : SaveSt) :
    (writeSave s id v0).codes = s.codes := by
  unfold writeSave; dsimp only; (repeat' split) <;> simp

@[simp] theorem writeSave_wf {s : State} {id : Nat} {v0 : SaveSt} (h : Memory.wf s.mem = true) :
    Memory.wf (writeSave s id v0).mem = true := by
  unfold writeSave; dsimp only; (repeat' split) <;> simp [h]

@[simp] theorem writeAreaState_codes (s : State) (part a st : Nat) :
    (writeAreaState s part a st).codes = s.codes := by
  simp [writeAreaState]

@[simp] theorem writeAreaState_wf {s : State} {part a st : Nat} (h : Memory.wf s.mem = true) :
    Memory.wf (writeAreaState s part a st).mem = true := by
  simp [writeAreaState, h]

@[simp] theorem liveFlight_codes (v : SaveSt) (s : State) (f : Flight) :
    (liveFlight v s f).codes = s.codes := by
  unfold liveFlight; (repeat' split) <;> simp

@[simp] theorem liveFlight_wf {v : SaveSt} {s : State} {f : Flight} (h : Memory.wf s.mem = true) :
    Memory.wf (liveFlight v s f).mem = true := by
  unfold liveFlight; (repeat' split) <;> simp [h]

@[simp] theorem makeLive_codes (s : State) (v : SaveSt) :
    (makeLive s v).codes = s.codes := by
  simp [makeLive]

@[simp] theorem makeLive_wf {s : State} {v : SaveSt} (h : Memory.wf s.mem = true) :
    Memory.wf (makeLive s v).mem = true := by
  unfold makeLive; dsimp only
  simp only [foldl_bytes (liveCopy_bytes v)]
  refine foldl_wf (fun x a hx => liveFlight_wf hx) _ ?_
  simp [h]

@[simp] theorem endLaunches_codes (s : State) (p : Nat) :
    (endLaunches s p).codes = s.codes := by
  simp [endLaunches]

@[simp] theorem endLaunches_wf {s : State} {p : Nat} (h : Memory.wf s.mem = true) :
    Memory.wf (endLaunches s p).mem = true := by
  unfold endLaunches; dsimp only
  refine foldl_wf (fun x a hx => ?_) _ (foldl_wf (fun x a hx => writeDone_wf hx) _ h)
  simp only [updFe_rest]
  exact foldl_wf (fun x a hx => writeDone_wf hx) _ hx

@[simp] theorem resetPart_codes (s : State) (p : Nat) :
    (resetPart s p).codes = s.codes := by
  simp [resetPart]

@[simp] theorem resetPart_wf {s : State} {p : Nat} (h : Memory.wf s.mem = true) :
    Memory.wf (resetPart s p).mem = true := by
  simp [resetPart, h]

@[simp] theorem startClk_codes (s : State) (d : Nat) :
    (startClk s d).codes = s.codes := by
  simp [startClk]

@[simp] theorem startClk_wf {s : State} {d : Nat} (h : Memory.wf s.mem = true) :
    Memory.wf (startClk s d).mem = true := by
  unfold startClk; dsimp only
  exact foldl_wf (fun x a hx => advanceFlight_wf hx) _ (by simp [h])

/-- What leaves the byte memories as they were keeps their form. -/
theorem canonical_of_bytes {s t : State} (h : canonical s = true) (hb : t.mem = s.mem ∧ t.codes = s.codes) : canonical t = true := by
  rw [canonical, hb.1, hb.2]; exact h

/-- What keeps the form of device memory and leaves the code stores as they were keeps the form of both. -/
theorem canonical_of_wf {s t : State} (h : canonical s = true) (hm : Memory.wf s.mem = true → Memory.wf t.mem = true)
    (hc : t.codes = s.codes) : canonical t = true := by
  simp only [canonical, Bool.and_eq_true] at h ⊢
  exact ⟨hm h.1, by rw [hc]; exact h.2⟩

/-- A code store that is put keeps the form of all if it has it. -/
theorem codes_mput {k : Nat} {c : CodeStore} {m : SMap CodeStore} (hc : Memory.wf c.bytes = true)
    (h : m.all (fun c => Memory.wf c.2.bytes) = true) : (mput k c m).all (fun c => Memory.wf c.2.bytes) = true := by
  induction m with
  | nil => simp [mput, hc]
  | cons p r ih =>
    rw [List.all_cons, Bool.and_eq_true] at h
    simp only [mput]
    split
    · simp only [List.all_cons, hc, h.1, h.2, Bool.and_self]
    · split
      · simp only [List.all_cons, hc, h.2, Bool.and_self]
      · simp only [List.all_cons, h.1, ih h.2, Bool.and_self]

/-- A cluster's code store has the form, also where none is listed. -/
theorem codes_mfind (k : Nat) {m : SMap CodeStore} (h : m.all (fun c => Memory.wf c.2.bytes) = true) :
    Memory.wf ((mfind k m).getD CodeStore.empty).bytes = true := by
  induction m with
  | nil => rfl
  | cons p r ih =>
    rw [List.all_cons, Bool.and_eq_true] at h
    simp only [mfind]
    split
    · exact h.1
    · exact ih h.2

/-- An image load keeps the form of the code store it writes. -/
theorem writeImage_canonical {s : State} (k : Nat) (i : Image) (h : canonical s = true) : canonical (writeImage s k i) = true := by
  simp only [canonical, Bool.and_eq_true] at h ⊢
  exact ⟨h.1, codes_mput (wf_msetAll _ (codes_mfind k h.2)) h.2⟩

/-- The start of an image load changes no byte of a code store. -/
theorem startLoad_canonical {s : State} (k l : Nat) (i : Image) (h : canonical s = true) : canonical (startLoad s k l i) = true := by
  simp only [canonical, Bool.and_eq_true] at h ⊢
  exact ⟨h.1, codes_mput (codes_mfind (m := s.codes) k h.2) h.2⟩

/-- Reset memory lists nothing. -/
theorem beforeBoot_canonical (s : State) (cold : Bool) : canonical (beforeBoot s cold) = true := by
  rw [canonical, beforeBoot, (planScrub_bytes _).1, (planScrub_bytes _).2]; rfl

end Sys2Proof.Machine
end

