-- ==== Sys2Proof/Laws/Crypto.lean ====
section
/-!
SUPPORT. Lengths of hashes, keys, blocks and tags.
-/
namespace Sys2Proof.Machine

theorem length_leBytes (n x : Nat) : (leBytes n x).length = n := by
  induction n generalizing x with
  | zero => rfl
  | succ n ih => simp [leBytes, ih]

theorem length_beBytes (n x : Nat) : (beBytes n x).length = n := by simp [beBytes, length_leBytes]

theorem length_xorBytes (a b : List Byte) : (xorBytes a b).length = min a.length b.length := by simp [xorBytes]

/-! ### SHA-384 and HKDF -/

theorem length_hashTurn (wv : List (BitVec 64) × List (BitVec 64)) (k : BitVec 64) (h : wv.2.length = 8) :
    (hashTurn wv k).2.length = 8 := by simp [hashTurn, h]

theorem length_hashTurns (ks : List (BitVec 64)) (wv : List (BitVec 64) × List (BitVec 64)) (h : wv.2.length = 8) :
    (ks.foldl hashTurn wv).2.length = 8 := by
  induction ks generalizing wv with
  | nil => exact h
  | cons k ks ih => exact ih _ (length_hashTurn _ _ h)

theorem length_startWords : startWords.length = 8 := by decide +kernel

theorem length_sha384 (bs : List Byte) : (sha384 bs).length = 48 := by
  have step : ∀ (ps : List (List Byte)) (h : List (BitVec 64)), h.length = 8 →
      (ps.foldl (fun h block =>
        h.zipWith (· + ·) (roundWords.foldl hashTurn ((pieces 8 block).map (fun b => BitVec.ofNat 64 (beNat b)), h)).2) h).length = 8 := by
    intro ps
    induction ps with
    | nil => exact fun _ h => h
    | cons p ps ih => exact fun h hh => ih _ (by simp [hh, length_hashTurns])
  simp only [sha384, List.length_flatMap, length_beBytes, List.map_const', List.sum_replicate_nat, List.length_take]
  rw [step _ _ length_startWords]
  rfl

theorem length_hkdf384 (ikm salt info : List Byte) (n : Nat) (h : n ≤ 48) : (hkdf384 ikm salt info n).length = n := by
  simp [hkdf384, hmac384, length_sha384, h]

/-! ### AES-256 and GMAC -/

theorem aesNextWord_words (a : List (List Byte) × Byte) (j : Nat) (h8 : 8 ≤ a.1.length) (h4 : ∀ w ∈ a.1, w.length = 4) :
    (aesNextWord a j).1.length = a.1.length + 1 ∧ ∀ w ∈ (aesNextWord a j).1, w.length = 4 := by
  have ht : (a.1.headD []).length = 4 := by
    match ha : a.1 with
    | [] => simp [ha] at h8
    | w :: ws => exact h4 w (by simp [ha])
  have h7 : (a.1.getD 7 []).length = 4 := by
    have hlt : 7 < a.1.length := by omega
    rw [List.getD_eq_getElem _ _ hlt]
    exact h4 _ (List.getElem_mem hlt)
  refine ⟨by simp [aesNextWord], fun w hw => ?_⟩
  rcases List.mem_cons.1 hw with rfl | hw
  · rw [length_xorBytes, h7]
    split
    · simp only [length_xorBytes, List.length_map, List.length_append, List.length_drop, List.length_take, ht, List.length_cons, List.length_nil]; decide
    · split <;> simp only [List.length_map, ht] <;> decide
  · exact h4 w hw

/-- The key schedule: sixty words of four bytes each, for a key of 32 bytes. -/
theorem aesWords_words (key : List Byte) (h : key.length = 32) :
    (aesWords key).length = 60 ∧ ∀ w ∈ aesWords key, w.length = 4 := by
  have step : ∀ (js : List Nat) (a : List (List Byte) × Byte), 8 ≤ a.1.length → (∀ w ∈ a.1, w.length = 4) →
      (js.foldl aesNextWord a).1.length = a.1.length + js.length ∧ ∀ w ∈ (js.foldl aesNextWord a).1, w.length = 4 := by
    intro js
    induction js with
    | nil => exact fun a _ h => ⟨by simp, h⟩
    | cons j js ih =>
      intro a h8 h4
      have h1 := aesNextWord_words a j h8 h4
      have h2 := ih (aesNextWord a j) (by omega) h1.2
      exact ⟨by rw [List.foldl_cons, h2.1, h1.1, List.length_cons]; omega, h2.2⟩
  have h0 : ∀ w ∈ ((List.range 8).map (fun i => (key.drop (4 * i)).take 4)).reverse, w.length = 4 := by
    intro w hw
    simp only [List.mem_reverse, List.mem_map, List.mem_range] at hw
    obtain ⟨i, hi, rfl⟩ := hw
    simp only [List.length_take, List.length_drop, h]; omega
  have := step (List.range 52) (((List.range 8).map (fun i => (key.drop (4 * i)).take 4)).reverse, 1) (by simp) h0
  exact ⟨by rw [aesWords]; simpa using this.1, this.2⟩

theorem length_roundKey (ws : List (List Byte)) (r : Nat) (hl : 4 * r + 3 < ws.length) (h : ∀ w ∈ ws, w.length = 4) :
    (roundKey ws r).length = 16 := by
  have hw : ∀ i, i < 4 → (ws.getD (4 * r + i) []).length = 4 := by
    intro i hi
    have hlt : 4 * r + i < ws.length := by omega
    rw [List.getD_eq_getElem _ _ hlt]
    exact h _ (List.getElem_mem hlt)
  have h0 := hw 0 (by omega)
  have h1 := hw 1 (by omega)
  have h2 := hw 2 (by omega)
  have h3 := hw 3 (by omega)
  simp only [roundKey, show List.range 4 = [0, 1, 2, 3] from rfl, List.map_cons, List.map_nil, List.flatten_cons, List.flatten_nil,
    List.length_append, List.length_nil, h0, h1, h2, h3]

theorem length_aes256 (key block : List Byte) (h : key.length = 32) : (aes256 key block).length = 16 := by
  have hw := aesWords_words key h
  have := length_roundKey (aesWords key).reverse 14 (by simp [hw.1]) (by simpa using hw.2)
  simp [aes256, length_xorBytes, this, aesShift]

theorem length_gmac (key iv aad : List Byte) (h : key.length = 32) : (gmac key iv aad).length = 16 := by
  simp [gmac, length_xorBytes, length_beBytes, length_aes256 _ _ h]

/-- The tag of an area has 16 bytes (R206). -/
theorem length_areaTag (s : State) (ctx count : Nat) (low body : List Byte) : (areaTag s ctx count low body).length = 16 :=
  length_gmac _ _ _ (length_hkdf384 _ _ _ _ (by decide))

end Sys2Proof.Machine
end

