-- ==== Sys2Proof/Laws/Decode.lean ====
section
/-!
SUPPORT. Decoding and encoding: the fields of each word that the encoder writes are those that the decoder reads.
-/
namespace Sys2Proof

theorem bitsBase (x y z : BitVec 6) (o : BitVec 7) (wsel : BitVec 3) (dist len : BitVec 2) :
   let v := x ++ y ++ z ++ o ++ wsel ++ dist ++ len
   v.extractLsb' 26 6 = x ∧ v.extractLsb' 20 6 = y ∧ v.extractLsb' 14 6 = z ∧ v.extractLsb' 7 7 = o ∧ v.extractLsb' 4 3 = wsel ∧ v.extractLsb' 2 2 = dist ∧ v.extractLsb' 0 2 = len := by
  refine ⟨?_, ?_, ?_, ?_, ?_, ?_, ?_⟩ <;> (apply BitVec.eq_of_getLsbD_eq; intro i hi; interval_cases i <;> (rw [BitVec.getLsbD_extractLsb']; simp only [BitVec.getLsbD_append]; simp))

theorem bits1 (wt : BitVec 7) (setf : BitVec 4) (pe pn : BitVec 1) (pk : BitVec 3) (op : BitVec 9) (dist : BitVec 5) (len : BitVec 2) :
   let v := wt ++ setf ++ pe ++ pn ++ pk ++ op ++ dist ++ len
   v.extractLsb' 25 7 = wt ∧ v.extractLsb' 21 4 = setf ∧ v.getLsbD 20 = pe.getLsbD 0 ∧ v.getLsbD 19 = pn.getLsbD 0 ∧ v.extractLsb' 16 3 = pk ∧ v.extractLsb' 7 9 = op ∧ v.extractLsb' 2 5 = dist ∧ v.extractLsb' 0 2 = len := by
  refine ⟨?_, ?_, ?_, ?_, ?_, ?_, ?_, ?_⟩ <;> first | (simp only [BitVec.getLsbD_append]; simp) | (apply BitVec.eq_of_getLsbD_eq; intro i hi; interval_cases i <;> (rw [BitVec.getLsbD_extractLsb']; simp only [BitVec.getLsbD_append]; simp))

theorem bits2 (sb sa d : BitVec 8) (c b a : BitVec 1) (wt : BitVec 5) :
   let v := sb ++ sa ++ d ++ c ++ b ++ a ++ wt
   v.extractLsb' 24 8 = sb ∧ v.extractLsb' 16 8 = sa ∧ v.extractLsb' 8 8 = d ∧ v.getLsbD 7 = c.getLsbD 0 ∧ v.getLsbD 6 = b.getLsbD 0 ∧ v.getLsbD 5 = a.getLsbD 0 ∧ v.extractLsb' 0 5 = wt := by
  refine ⟨?_, ?_, ?_, ?_, ?_, ?_, ?_⟩ <;> first | (simp only [BitVec.getLsbD_append]; simp) | (apply BitVec.eq_of_getLsbD_eq; intro i hi; interval_cases i <;> (rw [BitVec.getLsbD_extractLsb']; simp only [BitVec.getLsbD_append]; simp))

theorem bits3 (rm : BitVec 3) (ty : BitVec 5) (sat : BitVec 1) (kc kb ka : BitVec 2) (opx : BitVec 9) (sc : BitVec 8) :
   let v := rm ++ ty ++ sat ++ kc ++ kb ++ ka ++ opx ++ sc
   v.extractLsb' 29 3 = rm ∧ v.extractLsb' 24 5 = ty ∧ v.getLsbD 23 = sat.getLsbD 0 ∧ v.extractLsb' 21 2 = kc ∧ v.extractLsb' 19 2 = kb ∧ v.extractLsb' 17 2 = ka ∧ v.extractLsb' 8 9 = opx ∧ v.extractLsb' 0 8 = sc := by
  refine ⟨?_, ?_, ?_, ?_, ?_, ?_, ?_, ?_⟩ <;> first | (simp only [BitVec.getLsbD_append]; simp) | (apply BitVec.eq_of_getLsbD_eq; intro i hi; interval_cases i <;> (rw [BitVec.getLsbD_extractLsb']; simp only [BitVec.getLsbD_append]; simp))

theorem split12 (w : BitVec 12) : w.extractLsb' 7 5 ++ w.extractLsb' 0 7 = w := by
  apply BitVec.eq_of_getLsbD_eq; intro i hi; interval_cases i <;> (simp only [BitVec.getLsbD_extractLsb', BitVec.getLsbD_append]; simp)
theorem split64 (w : BitVec 64) : w.extractLsb' 32 32 ++ w.extractLsb' 0 32 = w := by
  apply BitVec.eq_of_getLsbD_eq; intro i hi; interval_cases i <;> (simp only [BitVec.getLsbD_extractLsb', BitVec.getLsbD_append]; simp)


theorem ofBool_bit (b : Bool) : (BitVec.ofBool b).getLsbD 0 = b := by cases b <;> rfl

theorem encBase_len (o : Op) (len : BitVec 2) (f : BaseWord) : (encBase o len f).extractLsb' 0 2 = len := (bitsBase ..).2.2.2.2.2.2
theorem encBase_op (o : Op) (len : BitVec 2) (f : BaseWord) : (encBase o len f).extractLsb' 7 7 = BitVec.ofNat 7 (opCode o) := (bitsBase ..).2.2.2.1
theorem decBase_enc (o : Op) (len : BitVec 2) (f : BaseWord) : decBase (encBase o len f) = f := by
  obtain ⟨h1, h2, h3, h4, h5, h6, h7⟩ := bitsBase f.x f.y f.z (BitVec.ofNat 7 (opCode o)) f.wsel f.dist len
  simp only [decBase, encBase]
  rw [h1, h2, h3, h5, h6]

theorem encExt0_len (o : Op) (e : ExtWord) : (encExt0 o e).extractLsb' 0 2 = (if e.lit.isSome then 3#2 else 2#2) := (bits1 ..).2.2.2.2.2.2.2
theorem encExt0_op (o : Op) (e : ExtWord) : (encExt0 o e).extractLsb' 7 9 = BitVec.ofNat 9 (opCode o) := (bits1 ..).2.2.2.2.2.1
theorem decExt_enc (o : Op) (e : ExtWord) : decExt (encExt0 o e) (encExt1 e) (encExt2 e) e.lit = e := by
  obtain ⟨a1, a2, a3, a4, a5, a6, a7, a8⟩ := bits1 (e.wait.extractLsb' 0 7) e.setf (BitVec.ofBool e.pe) (BitVec.ofBool e.pn) e.pk (BitVec.ofNat 9 (opCode o)) e.dist (if e.lit.isSome then 3#2 else 2#2)
  obtain ⟨b1, b2, b3, b4, b5, b6, b7⟩ := bits2 e.sb e.sa e.d (BitVec.ofBool e.trc) (BitVec.ofBool e.trb) (BitVec.ofBool e.tra) (e.wait.extractLsb' 7 5)
  obtain ⟨c1, c2, c3, c4, c5, c6, c7, c8⟩ := bits3 e.rm e.ty (BitVec.ofBool e.sat) e.kc e.kb e.ka e.opx e.sc
  simp only [decExt, encExt0, encExt1, encExt2]
  rw [a1, a2, a3, a4, a5, a7, b1, b2, b3, b4, b5, b6, b7, c1, c2, c3, c4, c5, c6, c7, c8, split12]
  simp only [ofBool_bit]
theorem decLit_enc (l : BitVec 64) : decLit (l.extractLsb' 0 32) (l.extractLsb' 32 32) = l := split64 l


theorem opOfCode_opCode : ∀ o : Op, opOfCode (opCode o) = some o := by intro o; cases o <;> decide
theorem opCode_lt : ∀ o : Op, opCode o < 512 := by intro o; cases o <;> decide
theorem baseOp (i : Instr) (o : Op) (w : Word3) (h : instrWord i = some (o, w)) (hw : ∀ e, w ≠ .ext e) : opCode o < 128 := by
  cases i <;> simp only [instrWord, Option.some.injEq, Prod.mk.injEq, reduceCtorEq] at h <;> (try (obtain ⟨rfl, rfl⟩ := h)) <;> first | decide | (exfalso; exact hw _ rfl)
theorem instrOfWord_of (i : Instr) (o : Op) (w : Word3) (h : instrWord i = some (o, w)) : instrOfWord o w = some i := by
  cases i <;> simp only [instrWord, Option.some.injEq, Prod.mk.injEq, reduceCtorEq] at h <;> (try (obtain ⟨rfl, rfl⟩ := h)) <;> first | rfl | (rename_i f; cases f <;> rfl)

theorem parse_encode (i : Instr) (o : Op) (w : Word3) (h : instrWord i = some (o, w)) (rest : List (BitVec 32)) :
    parseWords (encodeWord o w ++ rest) = some (opCode o, w) := by
  have hlt := opCode_lt o
  cases w with
  | base f =>
    have := baseOp i o _ h (by simp)
    simp [encodeWord, parseWords, encBase_len, encBase_op, decBase_enc, Nat.mod_eq_of_lt this]
  | lit f l =>
    have := baseOp i o _ h (by simp)
    simp [encodeWord, parseWords, encBase_len, encBase_op, decBase_enc, Nat.mod_eq_of_lt this, encLit, decLit_enc]
  | ext e =>
    have hd := decExt_enc o e
    cases hl : e.lit with
    | none => rw [hl] at hd; simp [encodeWord, parseWords, encExt0_len, encExt0_op, hl, hd, Nat.mod_eq_of_lt hlt]
    | some l => rw [hl] at hd; simp [encodeWord, parseWords, encExt0_len, encExt0_op, hl, hd, encLit, decLit_enc, Nat.mod_eq_of_lt hlt]

theorem instrWord_of (o : Op) (w : Word3) (i : Instr) (h : instrOfWord o w = some i) : instrWord i = some (o, w) := by
  cases w with
  | base f => cases o <;> simp only [instrOfWord, instrOfBase, Option.some.injEq, reduceCtorEq] at h <;> (subst h; rfl)
  | lit f l => cases o <;> simp only [instrOfWord, instrOfLit, Option.some.injEq, reduceCtorEq] at h <;> (subst h; rfl)
  | ext e => cases o <;> simp only [instrOfWord, instrOfExt, Option.some.injEq, reduceCtorEq] at h <;> (subst h; rfl)

theorem opCode_of (n : Nat) (o : Op) (h : opOfCode n = some o) : opCode o = n := by
  have := List.find?_some h
  simpa using this

theorem joinBase (w : BitVec 32) : w.extractLsb' 26 6 ++ w.extractLsb' 20 6 ++ w.extractLsb' 14 6 ++ w.extractLsb' 7 7 ++ w.extractLsb' 4 3 ++ w.extractLsb' 2 2 ++ w.extractLsb' 0 2 = w := by
  apply BitVec.eq_of_getLsbD_eq; intro i hi; interval_cases i <;> (simp only [BitVec.getLsbD_extractLsb', BitVec.getLsbD_append]; simp)
theorem ofBool_get (w : BitVec 32) (k : Nat) : BitVec.ofBool (w.getLsbD k) = w.extractLsb' k 1 := by
  apply BitVec.eq_of_getLsbD_eq; intro i hi; interval_cases i; simp [BitVec.getLsbD_extractLsb']
theorem join1 (w : BitVec 32) : w.extractLsb' 25 7 ++ w.extractLsb' 21 4 ++ w.extractLsb' 20 1 ++ w.extractLsb' 19 1 ++ w.extractLsb' 16 3 ++ w.extractLsb' 7 9 ++ w.extractLsb' 2 5 ++ w.extractLsb' 0 2 = w := by
  apply BitVec.eq_of_getLsbD_eq; intro i hi; interval_cases i <;> (simp only [BitVec.getLsbD_extractLsb', BitVec.getLsbD_append]; simp)
theorem join2 (w : BitVec 32) : w.extractLsb' 24 8 ++ w.extractLsb' 16 8 ++ w.extractLsb' 8 8 ++ w.extractLsb' 7 1 ++ w.extractLsb' 6 1 ++ w.extractLsb' 5 1 ++ w.extractLsb' 0 5 = w := by
  apply BitVec.eq_of_getLsbD_eq; intro i hi; interval_cases i <;> (simp only [BitVec.getLsbD_extractLsb', BitVec.getLsbD_append]; simp)
theorem join3 (w : BitVec 32) : w.extractLsb' 29 3 ++ w.extractLsb' 24 5 ++ w.extractLsb' 23 1 ++ w.extractLsb' 21 2 ++ w.extractLsb' 19 2 ++ w.extractLsb' 17 2 ++ w.extractLsb' 8 9 ++ w.extractLsb' 0 8 = w := by
  apply BitVec.eq_of_getLsbD_eq; intro i hi; interval_cases i <;> (simp only [BitVec.getLsbD_extractLsb', BitVec.getLsbD_append]; simp)
theorem joinLit (a b : BitVec 32) : (b ++ a).extractLsb' 0 32 = a ∧ (b ++ a).extractLsb' 32 32 = b := by
  constructor <;> (apply BitVec.eq_of_getLsbD_eq; intro i hi; rw [BitVec.getLsbD_extractLsb', BitVec.getLsbD_append]; simp [hi])
theorem joinWait (a : BitVec 5) (b : BitVec 7) : (a ++ b).extractLsb' 0 7 = b ∧ (a ++ b).extractLsb' 7 5 = a := by
  constructor <;> (apply BitVec.eq_of_getLsbD_eq; intro i hi; rw [BitVec.getLsbD_extractLsb', BitVec.getLsbD_append]; simp [hi])

theorem encBase_dec (o : Op) (w : BitVec 32) (h : opCode o = (w.extractLsb' 7 7).toNat) : encBase o (w.extractLsb' 0 2) (decBase w) = w := by
  have e : BitVec.ofNat 7 (opCode o) = w.extractLsb' 7 7 := by rw [h]; exact BitVec.eq_of_toNat_eq (by rw [BitVec.toNat_ofNat, Nat.mod_eq_of_lt (BitVec.isLt _)])
  simp only [encBase, decBase]
  rw [e]
  exact joinBase w
theorem lenOf (w : BitVec 32) (n : Nat) (h : (w.extractLsb' 0 2).toNat = n) : w.extractLsb' 0 2 = BitVec.ofNat 2 n := by rw [← h]; exact BitVec.eq_of_toNat_eq (by rw [BitVec.toNat_ofNat, Nat.mod_eq_of_lt (BitVec.isLt _)])
theorem encExt_dec (o : Op) (a b c : BitVec 32) (l : Option (BitVec 64)) (h : opCode o = (a.extractLsb' 7 9).toNat)
    (hl : a.extractLsb' 0 2 = if l.isSome then 3#2 else 2#2) :
    encExt0 o (decExt a b c l) = a ∧ encExt1 (decExt a b c l) = b ∧ encExt2 (decExt a b c l) = c := by
  have e : BitVec.ofNat 9 (opCode o) = a.extractLsb' 7 9 := by rw [h]; exact BitVec.eq_of_toNat_eq (by rw [BitVec.toNat_ofNat, Nat.mod_eq_of_lt (BitVec.isLt _)])
  obtain ⟨w1, w2⟩ := joinWait (b.extractLsb' 0 5) (a.extractLsb' 25 7)
  refine ⟨?_, ?_, ?_⟩
  · have e' : encExt0 o (decExt a b c l) = (b.extractLsb' 0 5 ++ a.extractLsb' 25 7).extractLsb' 0 7 ++ a.extractLsb' 21 4 ++ BitVec.ofBool (a.getLsbD 20) ++ BitVec.ofBool (a.getLsbD 19) ++ a.extractLsb' 16 3 ++ BitVec.ofNat 9 (opCode o) ++ a.extractLsb' 2 5 ++ (if l.isSome then 3#2 else 2#2) := rfl
    rw [e', e, w1, ← hl, ofBool_get, ofBool_get]; exact join1 a
  · simp only [encExt1, decExt]; rw [w2, ofBool_get, ofBool_get, ofBool_get]; exact join2 b
  · simp only [encExt2, decExt]; rw [ofBool_get]; exact join3 c

theorem encode_parse (ws : List (BitVec 32)) (n : Nat) (w : Word3) (o : Op) (h : parseWords ws = some (n, w)) (ho : opCode o = n) :
    ∃ k, word3Bytes w = 4 * k ∧ k ≤ ws.length ∧ encodeWord o w = ws.take k := by
  unfold parseWords at h
  split at h
  · cases h
  · rename_i w0 rest
    split at h
    · rename_i hl
      simp only [Option.some.injEq, Prod.mk.injEq] at h
      obtain ⟨rfl, rfl⟩ := h
      have := encBase_dec o w0 ho
      rw [lenOf w0 0 hl] at this
      exact ⟨1, rfl, by simp, by simp [encodeWord, this]⟩
    · rename_i l0 l1 t hl
      simp only [Option.some.injEq, Prod.mk.injEq] at h
      obtain ⟨rfl, rfl⟩ := h
      have := encBase_dec o w0 ho
      rw [lenOf w0 1 hl] at this
      exact ⟨3, rfl, by simp, by simp [encodeWord, this, encLit, decLit, joinLit]⟩
    · rename_i w1 w2 t hl
      simp only [Option.some.injEq, Prod.mk.injEq] at h
      obtain ⟨rfl, rfl⟩ := h
      obtain ⟨e0, e1, e2⟩ := encExt_dec o w0 w1 w2 none ho (lenOf w0 2 hl)
      exact ⟨3, rfl, by simp, by simp only [encodeWord, e0, e1, e2]; rfl⟩
    · rename_i w1 w2 l0 l1 t hl
      simp only [Option.some.injEq, Prod.mk.injEq] at h
      obtain ⟨rfl, rfl⟩ := h
      obtain ⟨e0, e1, e2⟩ := encExt_dec o w0 w1 w2 (some (decLit l0 l1)) ho (lenOf w0 3 hl)
      refine ⟨5, rfl, by simp, ?_⟩
      simp only [encodeWord, e0, e1, e2]
      simp [decExt, encLit, decLit, joinLit]
    · cases h

end Sys2Proof
end

