-- ==== Sys2Proof/Laws/Issue.lean ====
section
/-!
SUPPORT. What one attempt to issue does (Issue.lean): one lemma for each way in which it can end.
-/
namespace Sys2Proof.Machine

variable {o : Op} {w : Word3} {own : Ctx → State → Verdict} {s : State} {g : Group} {sp : Split}

theorem issue_cur (h : curSplit s = some (g, sp)) : issue o w own s = .next (attempt o w own s g sp) := by
  simp only [curSplit] at h
  unfold issue
  rcases hc : s.cur with _ | ⟨u, pl⟩
  · simp [hc] at h
  · simp only [hc, Option.bind_eq_some_iff, Option.map_eq_some_iff] at h
    obtain ⟨g', hg, sp', hs, he⟩ := h
    simp only [Prod.mk.injEq] at he
    obtain ⟨rfl, rfl⟩ := he
    simp [hg, hs]

/-- With no group and split to issue for, a meaning stops. -/
theorem issue_none (h : curSplit s = none) : issue o w own s = .fault .noIssuingGroup := by
  simp only [curSplit] at h
  unfold issue
  rcases hc : s.cur with _ | ⟨u, pl⟩
  · rfl
  · simp only [hc] at h
    rcases hg : groupAt? s u with _ | g
    · simp [hg]
    · rcases hp : splitAt? g pl with _ | sp
      · simp [hg, hp]
      · simp [hg, hp] at h

/-- A word that has not been delivered changes nothing. -/
theorem issue_undelivered (hc : curSplit s = some (g, sp)) (hd : delivered (ctxOf o w s g sp) = false) :
    issue o w own s = .next { s with turn := .held } := by
  rw [issue_cur hc]
  unfold ctxOf at hd
  simp [attempt, hd]

/-- A decode check that fails raises the illegal-instruction fault with its cause (R79). -/
theorem issue_illegal {k : Nat} (hc : curSplit s = some (g, sp)) (hd : delivered (ctxOf o w s g sp) = true)
    (hk : illegalCause o w = some k) :
    issue o w own s = .next (raiseAt s (ctxOf o w s g sp) 0x01 k (ctxOf o w s g sp).sel 0) := by
  rw [issue_cur hc]
  unfold ctxOf at hd
  simp [attempt, hd, hk, ctxOf]

/-- Cause 6 (R79). -/
theorem issue_cause6 (hc : curSplit s = some (g, sp)) (hd : delivered (ctxOf o w s g sp) = true)
    (hk : illegalCause o w = none) (h6 : cause6 s g o (fieldsOf o w).e = true) :
    issue o w own s = .next (raiseAt s (ctxOf o w s g sp) 0x01 6 (ctxOf o w s g sp).sel 0) := by
  rw [issue_cur hc]
  unfold ctxOf at hd
  simp [attempt, hd, hk, h6, ctxOf]

/-- An instruction whose distance, flags or predicate register do not let it go on changes nothing (R72). -/
theorem issue_notReady (h : Offers o w s g sp) (hn : notReady s (ctxOf o w s g sp) (fieldsOf o w) = true) :
    issue o w own s = .next { s with turn := .held } := by
  rw [issue_cur h.cur]
  have hd := h.delivered
  unfold ctxOf at hd hn
  simp [attempt, hd, h.legal, h.launchLegal, hn]

/-- An empty selected set: the instruction is issued and does nothing (R63, R64). -/
theorem issue_empty (h : Ready o w s g sp) (hs : (ctxOf o w s g sp).sel = 0) :
    issue o w own s =
      .next (afterIssue (finishAt (beginIssue s (ctxOf o w s g sp)) (ctxOf o w s g sp) 1) (ctxOf o w s g sp)) := by
  rw [issue_cur h.cur]
  have hd := h.delivered
  have hr := h.ready
  unfold ctxOf at hd hr hs
  simp [attempt, hd, h.legal, h.launchLegal, hr, hs, ctxOf]

/-- A role or ring-role check that fails raises fault 0x02 (R23, R26). -/
theorem issue_role (h : Ready o w s g sp) (hs : (ctxOf o w s g sp).sel ≠ 0)
    (hr : (roleAllows g.role o && ringRoleOk s g o (fieldsOf o w).e) = false) :
    issue o w own s = .next (raiseAt s (ctxOf o w s g sp) 0x02 0 (ctxOf o w s g sp).sel 0) := by
  rw [issue_cur h.cur]
  have hd := h.delivered
  have hy := h.ready
  unfold ctxOf at hd hy hs
  simp only [attempt, hd, h.legal, h.launchLegal, hy, hs, hr, ctxOf]
  simp

/-- A trap-on-empty source that is empty raises fault 0x03 (R75). -/
theorem issue_trapEmpty (h : Ready o w s g sp) (hs : (ctxOf o w s g sp).sel ≠ 0)
    (hr : (roleAllows g.role o && ringRoleOk s g o (fieldsOf o w).e) = true)
    (ht : (trapRegs o (fieldsOf o w).e).any (isEmptyReg g) = true) :
    issue o w own s = .next (raiseAt s (ctxOf o w s g sp) 0x03 0 (ctxOf o w s g sp).sel 0) := by
  rw [issue_cur h.cur]
  have hd := h.delivered
  have hy := h.ready
  unfold ctxOf at hd hy hs
  simp only [attempt, hd, h.legal, h.launchLegal, hy, hs, hr, ht, ctxOf]
  simp

/-- Past the shared checks, the instruction's own effect decides. -/
theorem issue_passes (h : Passes o w s g sp) :
    issue o w own s = .next (
      match own (ctxOf o w s g sp) (beginIssue s (ctxOf o w s g sp)) with
      | .hold => { s with turn := .held }
      | .block team q push => { blockRing s team q push with turn := .held }
      | .raise code detail lanes addr => raiseAt s (ctxOf o w s g sp) code detail lanes addr
      | .arrive a => { updMat s g.core (fun m => { m with arrival := some a }) with turn := .arrived }
      | .act s1 => afterIssue s1 (ctxOf o w s g sp)) := by
  rw [issue_cur h.cur]
  have hd := h.delivered
  have hy := h.ready
  have hs := h.lanes
  have hu := h.unit
  unfold ctxOf at hd hy hs hu
  simp only [attempt, hd, h.legal, h.launchLegal, hy, hs, h.role, h.trapFull, h.blockFull, Nat.not_lt.mpr hu, h.acquire,
    ctxOf, Bool.not_true, Bool.false_eq_true, if_false]
  all_goals congr 1

theorem issue_act {t : State} (h : Passes o w s g sp)
    (ha : own (ctxOf o w s g sp) (beginIssue s (ctxOf o w s g sp)) = .act t) :
    issue o w own s = .next (afterIssue t (ctxOf o w s g sp)) := by
  rw [issue_passes h, ha]

theorem issue_raise {code detail addr : Nat} {lanes : Word} (h : Passes o w s g sp)
    (ha : own (ctxOf o w s g sp) (beginIssue s (ctxOf o w s g sp)) = .raise code detail lanes addr) :
    issue o w own s = .next (raiseAt s (ctxOf o w s g sp) code detail lanes addr) := by
  rw [issue_passes h, ha]

theorem issue_hold (h : Passes o w s g sp)
    (ha : own (ctxOf o w s g sp) (beginIssue s (ctxOf o w s g sp)) = .hold) :
    issue o w own s = .next { s with turn := .held } := by
  rw [issue_passes h, ha]

/-- A meaning always answers with a next state where `cur` names a group and split. -/
theorem issue_next (h : curSplit s = some (g, sp)) : ∃ t, issue o w own s = .next t := ⟨_, issue_cur h⟩

/-- The illegal-instruction trap of a word with no instruction's fields. -/
theorem illegalTrap_at {k : Nat} (h : curSplit s = some (g, sp)) (hd : delivered (bareCtx s g sp) = true) :
    illegalTrap k s = .next (raiseAt s (bareCtx s g sp) 0x01 k sp.mask 0) := by
  simp only [curSplit] at h
  unfold illegalTrap
  rcases hc : s.cur with _ | ⟨u, pl⟩
  · simp [hc] at h
  · simp only [hc, Option.bind_eq_some_iff, Option.map_eq_some_iff] at h
    obtain ⟨g', hg, sp', hs, he⟩ := h
    simp only [Prod.mk.injEq] at he
    obtain ⟨rfl, rfl⟩ := he
    unfold bareCtx at hd ⊢
    simp only [hg, hs, hd, Bool.not_true, Bool.false_eq_true, if_false]

/-- What holds of every way in which an attempt to issue can end holds of the attempt. -/
theorem attempt_ends (P : State → Prop) (o : Op) (w : Word3) (own : Ctx → State → Verdict) (s : State) (g : Group) (sp : Split)
    (hheld : ∀ x, P { s with turn := x })
    (hraise : ∀ code detail lanes addr, P (raiseAt s (ctxOf o w s g sp) code detail lanes addr))
    (hempty : P (afterIssue (finishAt (beginIssue s (ctxOf o w s g sp)) (ctxOf o w s g sp) 1) (ctxOf o w s g sp)))
    (hblock : ∀ team q push, P { blockRing s team q push with turn := .held })
    (harrive : ∀ a, P { updMat s g.core (fun m => { m with arrival := some a }) with turn := .arrived })
    (hact : ∀ t, own (ctxOf o w s g sp) (beginIssue s (ctxOf o w s g sp)) = .act t → P (afterIssue t (ctxOf o w s g sp))) :
    P (attempt o w own s g sp) := by
  unfold attempt
  refine iteInduction (fun _ => hheld _) (fun _ => ?_)
  cases illegalCause o w with
  | some k => exact hraise _ _ _ _
  | none =>
    refine iteInduction (fun _ => hraise _ _ _ _) (fun _ => ?_)
    refine iteInduction (fun _ => hheld _) (fun _ => ?_)
    refine iteInduction (fun _ => hempty) (fun _ => ?_)
    refine iteInduction (fun _ => hraise _ _ _ _) (fun _ => ?_)
    refine iteInduction (fun _ => hraise _ _ _ _) (fun _ => ?_)
    refine iteInduction (fun _ => hheld _) (fun _ => ?_)
    refine iteInduction (fun _ => hheld _) (fun _ => ?_)
    refine iteInduction (fun _ => hheld _) (fun _ => ?_)
    cases hv : own (ctxOf o w s g sp) (beginIssue s (ctxOf o w s g sp)) with
    | hold => unfold ctxOf at hv; simp only [hv]; exact hheld _
    | block a b c => unfold ctxOf at hv; simp only [hv]; exact hblock _ _ _
    | raise a b c d => unfold ctxOf at hv; simp only [hv]; exact hraise _ _ _ _
    | arrive a => unfold ctxOf at hv; simp only [hv]; exact harrive _
    | act t => have h := hact t hv; unfold ctxOf at hv; simp only [hv]; exact h

/-- Something of the state that booking an issue, finishing it, stopping for a fault and waiting all leave alone, and that
an instruction's own effect leaves alone, stays as it is whatever an attempt to issue does. -/
theorem issue_keeps {α : Type} (V : State → α) (hturn : ∀ (s : State) x, V { s with turn := x } = V s)
    (hbegin : ∀ s c, V (beginIssue s c) = V s) (hafter : ∀ s c, V (afterIssue s c) = V s)
    (hfinish : ∀ s c n, V (finishAt s c n) = V s)
    (hraise : ∀ s c a b l x, V (raiseAt s c a b l x) = V s) (hblock : ∀ s a b c, V (blockRing s a b c) = V s)
    (hmat : ∀ s k a, V (updMat s k (fun m => { m with arrival := a })) = V s)
    (hown : ∀ c s t, own c s = .act t → V t = V s) {t : State} (h : issue o w own s = .next t) : V t = V s := by
  rcases hc : curSplit s with _ | ⟨g, sp⟩
  · rw [issue_none hc] at h; cases h
  · rw [issue_cur hc] at h
    injection h with h
    subst h
    exact attempt_ends (fun t => V t = V s) o w own s g sp (hturn _) (fun _ _ _ _ => hraise _ _ _ _ _ _)
      (by rw [hafter, hfinish, hbegin]) (fun _ _ _ => by rw [hturn, hblock]) (fun _ => by rw [hturn, hmat])
      (fun t ht => by rw [hafter, hown _ _ _ ht, hbegin])

end Sys2Proof.Machine
end

