-- ==== Sys2Proof/Laws/Lookup.lean ====
section
/-!
SUPPORT. Looking up a group, team or flight after an update of one: the update is found under its own number, and no other
is changed.
-/
namespace Sys2Proof.Machine

variable {α : Type}

theorem find_listUpd {p : α → Bool} {f : α → α} (hp : ∀ x, p x = true → p (f x) = true) (l : List α) :
    (listUpd p f l).find? p = (l.find? p).map f := by
  induction l with
  | nil => rfl
  | cons a l ih =>
    simp only [listUpd]
    by_cases h : p a
    · simp [h, hp a h]
    · simp [h, ih]

theorem find_listUpd_ne {p q : α → Bool} {f : α → α} (hp : ∀ x, q x = true → p x = false ∧ p (f x) = false) (l : List α) :
    (listUpd q f l).find? p = l.find? p := by
  induction l with
  | nil => rfl
  | cons a l ih =>
    simp only [listUpd]
    by_cases h : q a
    · simp [h, (hp a h).1, (hp a h).2]
    · simp [h, List.find?_cons, ih]

variable {s : State} {u v : Nat}

theorem groupAt_updGroup {f : Group → Group} (h : ∀ x, (f x).uid = x.uid) : groupAt? (updGroup s u f) u = (groupAt? s u).map f :=
  find_listUpd (fun x hx => by rw [h]; exact hx) s.groups

theorem groupAt_updGroup_some {f : Group → Group} {g : Group} (hg : groupAt? s u = some g) (h : ∀ x, (f x).uid = x.uid) :
    groupAt? (updGroup s u f) u = some (f g) := by rw [groupAt_updGroup h, hg]; rfl

theorem groupAt_updGroup_ne {f : Group → Group} (h : ∀ x, (f x).uid = x.uid) (hv : v ≠ u) :
    groupAt? (updGroup s u f) v = groupAt? s v :=
  find_listUpd_ne (fun x hx => by simp only [beq_iff_eq] at hx; simp [h, hx, Ne.symm hv]) s.groups

theorem uid_of_groupAt {g : Group} (h : groupAt? s u = some g) : g.uid = u := by
  have := List.find?_some h; simpa using this

/-- The group and split that `cur` names stand under their own numbers. -/
theorem curSplit_stands {g : Group} {sp : Split} (h : curSplit s = some (g, sp)) :
    groupAt? s g.uid = some g ∧ splitAt? g sp.place = some sp := by
  simp only [curSplit] at h
  rcases hc : s.cur with _ | ⟨u, pl⟩
  · simp [hc] at h
  · simp only [hc, Option.bind_eq_some_iff, Option.map_eq_some_iff] at h
    obtain ⟨g', hg, sp', hs, he⟩ := h
    simp only [Prod.mk.injEq] at he
    obtain ⟨rfl, rfl⟩ := he
    refine ⟨by rw [uid_of_groupAt hg]; exact hg, ?_⟩
    have e : sp'.place = pl := by have := List.find?_some hs; simpa using this
    rw [e]; exact hs

/-- The teams that stand on cores, after an update of one. -/
theorem find_updTeam {f : Team → Team} (h : ∀ x, (f x).id = x.id) :
    (updTeam s u f).teams.find? (fun x => x.id == u) = (s.teams.find? (fun x => x.id == u)).map f :=
  find_listUpd (fun x hx => by rw [h]; exact hx) s.teams

theorem find_updTeam_ne {f : Team → Team} (h : ∀ x, (f x).id = x.id) (hv : v ≠ u) :
    (updTeam s u f).teams.find? (fun x => x.id == v) = s.teams.find? (fun x => x.id == v) :=
  find_listUpd_ne (fun x hx => by simp only [beq_iff_eq] at hx; simp [h, hx, Ne.symm hv]) s.teams

theorem find_mput {k : Nat} {x : α} (m : SMap α) : mfind k (mput k x m) = some x := by
  induction m with
  | nil => simp [mput, mfind]
  | cons p r ih =>
    simp only [mput]
    split
    · simp [mfind]
    · split
      · simp [mfind]
      · simp only [mfind]; rw [if_neg (by omega)]; exact ih

end Sys2Proof.Machine
end

