-- ==== Sys2Proof/Laws/Regs.lean ====
section
/-!
SUPPORT. What the issue of an instruction leaves as it was: the registers of every group. Results land later, as pending
writes (R73) or with replies (R74).
-/
namespace Sys2Proof.Machine

theorem listUpd_map {α β : Type} {p : α → Bool} {f : α → α} {v : α → β} (h : ∀ x, v (f x) = v x) (l : List α) :
    (listUpd p f l).map v = l.map v := by
  induction l with
  | nil => rfl
  | cons a l ih => unfold listUpd; split <;> simp [h, ih]

/-- A change of a group that leaves its number and registers leaves the registers of all. -/
@[simp] theorem updGroup_regs {f : Group → Group} (h : ∀ g, let x := f g
      x.uid = g.uid ∧ x.v = g.v ∧ x.s = g.s ∧ x.k = g.k ∧ x.rgn = g.rgn ∧ x.mcap = g.mcap ∧ x.mres = g.mres ∧ x.seed = g.seed)
    (s : State) (u : Nat) : (updGroup s u f).groups.map numRegs = s.groups.map numRegs :=
  listUpd_map (fun g => by simp only [numRegs, regsOf, h]) s.groups

@[simp] theorem ite_groups {c : Prop} [Decidable c] (a b : State) :
    (if c then a else b).groups = if c then a.groups else b.groups := by split <;> rfl

@[simp] theorem ite_map {α β : Type} {c : Prop} [Decidable c] (f : α → β) (a b : List α) :
    (if c then a else b).map f = if c then a.map f else b.map f := by split <;> rfl

@[simp] theorem foldl_regs {α : Type} {g : State → α → State} (h : ∀ x a, (g x a).groups.map numRegs = x.groups.map numRegs)
    (l : List α) (s : State) : (l.foldl g s).groups.map numRegs = s.groups.map numRegs := by
  induction l generalizing s with
  | nil => rfl
  | cons a l ih => rw [List.foldl_cons, ih, h]

@[simp] theorem foldl_fst_regs {α β : Type} {g : State × β → α → State × β}
    (h : ∀ x a, (g x a).1.groups.map numRegs = x.1.groups.map numRegs) (l : List α) (s : State × β) :
    (l.foldl g s).1.groups.map numRegs = s.1.groups.map numRegs := by
  induction l generalizing s with
  | nil => rfl
  | cons a l ih => rw [List.foldl_cons, ih, h]

/-- Equal number and registers, field by field. -/
theorem fields_of_numRegs {a b : Group} (h : numRegs a = numRegs b) :
    a.uid = b.uid ∧ a.v = b.v ∧ a.s = b.s ∧ a.k = b.k ∧ a.rgn = b.rgn ∧ a.mcap = b.mcap ∧ a.mres = b.mres ∧ a.seed = b.seed := by
  simpa only [numRegs, regsOf, Prod.mk.injEq] using h

theorem foldl_numRegs {α : Type} {g : Group → α → Group} (h : ∀ x a, numRegs (g x a) = numRegs x) (l : List α) (x : Group) :
    numRegs (l.foldl g x) = numRegs x := by
  induction l generalizing x with
  | nil => rfl
  | cons a l ih => rw [List.foldl_cons, ih, h]

@[simp] theorem takeReg_regs (op : Nat) (g : Group) (r : Reg) : numRegs (takeReg op g r) = numRegs g := rfl

@[simp] theorem fillReg_regs (op : Nat) (g : Group) (r : Reg) : numRegs (fillReg op g r) = numRegs g := by
  unfold fillReg; (repeat' split) <;> rfl

@[simp] theorem fillAll_regs (op : Nat) (g : Group) : numRegs (fillAll op g) = numRegs g := rfl

@[simp] theorem takeFlag_regs (n op : Nat) (g : Group) : numRegs (takeFlag n op g) = numRegs g := rfl

@[simp] theorem doneFlag_regs (n op : Nat) (g : Group) : numRegs (doneFlag n op g) = numRegs g := by
  unfold doneFlag; split <;> rfl

@[simp] theorem doneSetf_regs (setf op : Nat) (g : Group) : numRegs (doneSetf setf op g) = numRegs g := by
  unfold doneSetf; split <;> simp

@[simp] theorem updSplit_regs (g : Group) (p : Nat) (f : Split → Split) : numRegs (updSplit g p f) = numRegs g := rfl

@[simp] theorem setBarBits_regs (g : Group) (key : Nat) (b : BarBits) : numRegs (setBarBits g key b) = numRegs g := rfl

@[simp] theorem dropLanes_regs (t : Word) (g : Group) : numRegs (dropLanes t g) = numRegs g := by
  simp only [dropLanes, numRegs, regsOf]

@[simp] theorem sendLanes_regs (c : Ctx) (t : Word) (x rest : Nat) (g : Group) : numRegs (sendLanes c t x rest g) = numRegs g := by
  unfold sendLanes; (repeat' split) <;> rfl

@[simp] theorem bumpGen_regs (g : Group) : numRegs (bumpGen g) = numRegs g := rfl

@[simp] theorem takeReg_fields (op : Nat) (g : Group) (r : Reg) : let x := takeReg op g r
    x.uid = g.uid ∧ x.v = g.v ∧ x.s = g.s ∧ x.k = g.k ∧ x.rgn = g.rgn ∧ x.mcap = g.mcap ∧ x.mres = g.mres ∧ x.seed = g.seed :=
  fields_of_numRegs (by simp)

@[simp] theorem fillReg_fields (op : Nat) (g : Group) (r : Reg) : let x := fillReg op g r
    x.uid = g.uid ∧ x.v = g.v ∧ x.s = g.s ∧ x.k = g.k ∧ x.rgn = g.rgn ∧ x.mcap = g.mcap ∧ x.mres = g.mres ∧ x.seed = g.seed :=
  fields_of_numRegs (by simp)

@[simp] theorem fillAll_fields (op : Nat) (g : Group) : let x := fillAll op g
    x.uid = g.uid ∧ x.v = g.v ∧ x.s = g.s ∧ x.k = g.k ∧ x.rgn = g.rgn ∧ x.mcap = g.mcap ∧ x.mres = g.mres ∧ x.seed = g.seed :=
  fields_of_numRegs (by simp)

@[simp] theorem takeFlag_fields (n op : Nat) (g : Group) : let x := takeFlag n op g
    x.uid = g.uid ∧ x.v = g.v ∧ x.s = g.s ∧ x.k = g.k ∧ x.rgn = g.rgn ∧ x.mcap = g.mcap ∧ x.mres = g.mres ∧ x.seed = g.seed :=
  fields_of_numRegs (by simp)

@[simp] theorem doneFlag_fields (n op : Nat) (g : Group) : let x := doneFlag n op g
    x.uid = g.uid ∧ x.v = g.v ∧ x.s = g.s ∧ x.k = g.k ∧ x.rgn = g.rgn ∧ x.mcap = g.mcap ∧ x.mres = g.mres ∧ x.seed = g.seed :=
  fields_of_numRegs (by simp)

@[simp] theorem doneSetf_fields (setf op : Nat) (g : Group) : let x := doneSetf setf op g
    x.uid = g.uid ∧ x.v = g.v ∧ x.s = g.s ∧ x.k = g.k ∧ x.rgn = g.rgn ∧ x.mcap = g.mcap ∧ x.mres = g.mres ∧ x.seed = g.seed :=
  fields_of_numRegs (by simp)

@[simp] theorem updSplit_fields (g : Group) (p : Nat) (f : Split → Split) : let x := updSplit g p f
    x.uid = g.uid ∧ x.v = g.v ∧ x.s = g.s ∧ x.k = g.k ∧ x.rgn = g.rgn ∧ x.mcap = g.mcap ∧ x.mres = g.mres ∧ x.seed = g.seed :=
  fields_of_numRegs (by simp)

@[simp] theorem setBarBits_fields (g : Group) (key : Nat) (b : BarBits) : let x := setBarBits g key b
    x.uid = g.uid ∧ x.v = g.v ∧ x.s = g.s ∧ x.k = g.k ∧ x.rgn = g.rgn ∧ x.mcap = g.mcap ∧ x.mres = g.mres ∧ x.seed = g.seed :=
  fields_of_numRegs (by simp)

@[simp] theorem dropLanes_fields (t : Word) (g : Group) : let x := dropLanes t g
    x.uid = g.uid ∧ x.v = g.v ∧ x.s = g.s ∧ x.k = g.k ∧ x.rgn = g.rgn ∧ x.mcap = g.mcap ∧ x.mres = g.mres ∧ x.seed = g.seed :=
  fields_of_numRegs (by simp)

@[simp] theorem sendLanes_fields (c : Ctx) (t : Word) (x rest : Nat) (g : Group) : let x := sendLanes c t x rest g
    x.uid = g.uid ∧ x.v = g.v ∧ x.s = g.s ∧ x.k = g.k ∧ x.rgn = g.rgn ∧ x.mcap = g.mcap ∧ x.mres = g.mres ∧ x.seed = g.seed :=
  fields_of_numRegs (by simp)

@[simp] theorem bumpGen_fields (g : Group) : let x := bumpGen g
    x.uid = g.uid ∧ x.v = g.v ∧ x.s = g.s ∧ x.k = g.k ∧ x.rgn = g.rgn ∧ x.mcap = g.mcap ∧ x.mres = g.mres ∧ x.seed = g.seed :=
  fields_of_numRegs (by simp)

@[simp] theorem foldl_takeReg_fields (op : Nat) (l : List Reg) (g : Group) : let x := l.foldl (takeReg op) g
    x.uid = g.uid ∧ x.v = g.v ∧ x.s = g.s ∧ x.k = g.k ∧ x.rgn = g.rgn ∧ x.mcap = g.mcap ∧ x.mres = g.mres ∧ x.seed = g.seed :=
  fields_of_numRegs (foldl_numRegs (fun _ _ => by simp) l g)

@[simp] theorem newId_regs (s : State) :
    (newId s).2.groups.map numRegs = s.groups.map numRegs := by
  simp [newId]

@[simp] theorem boxAppend_regs (s : State) (code src unit ctx data : Nat) :
    (boxAppend s code src unit ctx data).groups.map numRegs = s.groups.map numRegs := by
  simp [boxAppend]

@[simp] theorem completeFlight_regs (s : State) (f : Flight) :
    (completeFlight s f).groups.map numRegs = s.groups.map numRegs := by
  simp [completeFlight]

@[simp] theorem dropArrival_regs (s : State) (u core : Nat) :
    (dropArrival s u core).groups.map numRegs = s.groups.map numRegs := by
  unfold dropArrival; (repeat' split) <;> simp

@[simp] theorem raiseFault_regs (s : State) (u : Nat) (e : TrapEntry) :
    (raiseFault s u e).groups.map numRegs = s.groups.map numRegs := by
  unfold raiseFault; (repeat' split) <;> simp

@[simp] theorem flightFault_regs (s : State) (f : Flight) (code detail : Nat) (lanes : Word) (addr : Nat) :
    (flightFault s f code detail lanes addr).groups.map numRegs = s.groups.map numRegs := by
  simp [flightFault]

@[simp] theorem holdUnit_regs (s : State) (core : Nat) (u : ExecUnit) (n : Nat) :
    (holdUnit s core u n).groups.map numRegs = s.groups.map numRegs := by
  unfold holdUnit; split <;> simp

@[simp] theorem updRing_regs (s : State) (team q : Nat) (f : Ring → Ring) :
    (updRing s team q f).groups.map numRegs = s.groups.map numRegs := by
  simp [updRing]

@[simp] theorem blockRing_regs (s : State) (team q : Nat) (push : Bool) :
    (blockRing s team q push).groups.map numRegs = s.groups.map numRegs := by
  simp [blockRing]

@[simp] theorem beginIssue_regs (s : State) (c : Ctx) :
    (beginIssue s c).groups.map numRegs = s.groups.map numRegs := by
  unfold beginIssue; dsimp only
  refine updGroup_regs (fun g => ?_) s c.g.uid
  split <;> split <;> simp

@[simp] theorem finishAt_regs (s : State) (c : Ctx) (lat : Nat) :
    (finishAt s c lat).groups.map numRegs = s.groups.map numRegs := by
  simp [finishAt]

@[simp] theorem writeAt_regs (s : State) (c : Ctx) (lat : Nat) (w : WriteTo) :
    (writeAt s c lat w).groups.map numRegs = s.groups.map numRegs := by
  simp [writeAt]

@[simp] theorem afterIssue_regs (s : State) (c : Ctx) :
    (afterIssue s c).groups.map numRegs = s.groups.map numRegs := by
  simp [afterIssue]

@[simp] theorem raiseAt_regs (s : State) (c : Ctx) (code detail : Nat) (lanes : Word) (addr : Nat) :
    (raiseAt s c code detail lanes addr).groups.map numRegs = s.groups.map numRegs := by
  simp [raiseAt]

@[simp] theorem transfer_regs (s : State) (c : Ctx) (t : Word) (x : Nat) :
    (transfer s c t x).groups.map numRegs = s.groups.map numRegs := by
  simp [transfer]

@[simp] theorem peel_regs (s : State) (c : Ctx) (t : Word) (x : Nat) :
    (peel s c t x).groups.map numRegs = s.groups.map numRegs := by
  simp [peel]

@[simp] theorem branchIf_regs (cond : DWord → Bool) (c : Ctx) (s : State) :
    (branchIf cond c s).groups.map numRegs = s.groups.map numRegs := by
  simp [branchIf]

@[simp] theorem branchMask_regs (all : Bool) (c : Ctx) (s : State) :
    (branchMask all c s).groups.map numRegs = s.groups.map numRegs := by
  simp [branchMask]

@[simp] theorem branchIndirect_regs (c : Ctx) (s : State) :
    (branchIndirect c s).groups.map numRegs = s.groups.map numRegs := by
  simp [branchIndirect]

@[simp] theorem callDirect_regs (c : Ctx) (s : State) :
    (callDirect c s).groups.map numRegs = s.groups.map numRegs := by
  simp [callDirect]

@[simp] theorem callIndirect_regs (c : Ctx) (s : State) :
    (callIndirect c s).groups.map numRegs = s.groups.map numRegs := by
  simp [callIndirect]

@[simp] theorem exitLanes_regs (c : Ctx) (s : State) :
    (exitLanes c s).groups.map numRegs = s.groups.map numRegs := by
  simp [exitLanes]

@[simp] theorem yieldNow_regs (c : Ctx) (s : State) :
    (yieldNow c s).groups.map numRegs = s.groups.map numRegs := by
  simp [yieldNow]

@[simp] theorem splitNow_regs (c : Ctx) (s : State) :
    (splitNow c s).groups.map numRegs = s.groups.map numRegs := by
  simp [splitNow]

@[simp] theorem sleepNow_regs (c : Ctx) (s : State) :
    (sleepNow c s).groups.map numRegs = s.groups.map numRegs := by
  simp [sleepNow]

@[simp] theorem launchFlight_regs (s : State) (c : Ctx) (f : Flight) :
    (launchFlight s c f).groups.map numRegs = s.groups.map numRegs := by
  simp [launchFlight]

@[simp] theorem callLanes_regs (c : Ctx) (s : State) :
    (callLanes c s).groups.map numRegs = s.groups.map numRegs := by
  simp [callLanes]

@[simp] theorem callerBack_regs (clk : Nat) (st : State) (o : Nat) :
    (callerBack clk st o).groups.map numRegs = st.groups.map numRegs := by
  unfold callerBack; (repeat' split) <;> simp

@[simp] theorem returnLanes_regs (c : Ctx) (s : State) :
    (returnLanes c s).groups.map numRegs = s.groups.map numRegs := by
  simp [returnLanes]

@[simp] theorem noteBlock_regs (s : State) (module block link : Nat) :
    (noteBlock s module block link).groups.map numRegs = s.groups.map numRegs := by
  simp [noteBlock]

@[simp] theorem sendFrame_regs (s : State) (link dest block : Nat) (b : FrameBody) :
    (sendFrame s link dest block b).groups.map numRegs = s.groups.map numRegs := by
  simp [sendFrame]

@[simp] theorem sendAway_regs (s : State) (r : Req) :
    (sendAway s r).groups.map numRegs = s.groups.map numRegs := by
  unfold sendAway; dsimp only; split <;> simp

@[simp] theorem sendReq_regs (s : State) (r0 : Req) (k : Nat) :
    (sendReq s r0 k).groups.map numRegs = s.groups.map numRegs := by
  unfold sendReq; dsimp only; (repeat' split) <;> simp

@[simp] theorem startWalk_regs (s : State) (part va : Nat) (op cmd : Option Nat) :
    (startWalk s part va op cmd).groups.map numRegs = s.groups.map numRegs := by
  unfold startWalk; dsimp only; (repeat' split) <;> simp

theorem advanceOn_regs {fin : State → Flight → State} {f : Flight} (h : ∀ s, (fin s f).groups.map numRegs = s.groups.map numRegs)
    (s : State) : (advanceOn fin s f).groups.map numRegs = s.groups.map numRegs := by
  unfold advanceOn
  split
  · rfl
  · dsimp only
    split
    · split
      · rfl
      · exact h _
    · exact foldl_regs (fun x a => by split <;> simp) _ _

@[simp] theorem sendUpdate_regs (s : State) (sector arm line tag : Nat) (bs : List (Nat × Byte)) (req : Nat) (drop poison : Bool) (wait : Nat) :
    (sendUpdate s sector arm line tag bs req drop poison wait).groups.map numRegs = s.groups.map numRegs := by
  simp [sendUpdate]

@[simp] theorem fillDram_regs (s : State) (line : Nat) (data : List (Nat × Byte)) (tag : Nat) :
    (fillDram s line data tag).groups.map numRegs = s.groups.map numRegs := by
  simp [fillDram]

@[simp] theorem performWrite_regs (s : State) (arm : Nat) (r : Req) (bs : List (Nat × Byte)) (deep : Bool) :
    (performWrite s arm r bs deep).groups.map numRegs = s.groups.map numRegs := by
  simp [performWrite]

@[simp] theorem logWrite_regs (s : State) (r : Req) :
    (logWrite s r).groups.map numRegs = s.groups.map numRegs := by
  unfold logWrite; dsimp only; (repeat' split) <;> simp

@[simp] theorem foundError_regs (s : State) (line : Nat) :
    (foundError s line).groups.map numRegs = s.groups.map numRegs := by
  unfold foundError; split <;> simp

@[simp] theorem logCombined_regs (s : State) (r : Req) :
    (logCombined s r).groups.map numRegs = s.groups.map numRegs := by
  unfold logCombined; exact foldl_regs (fun x a => by simp) _ _

@[simp] theorem performRead_regs (s : State) (arm : Nat) (r : Req) (deep : Bool) :
    (performRead s arm r deep).groups.map numRegs = s.groups.map numRegs := by
  simp [performRead]

@[simp] theorem performReq_regs (s : State) (arm : Nat) (r : Req) (deep : Bool) :
    (performReq s arm r deep).groups.map numRegs = s.groups.map numRegs := by
  unfold performReq; (repeat' split) <;> simp

@[simp] theorem holdReq_regs (s : State) (arm block id : Nat) :
    (holdReq s arm block id).groups.map numRegs = s.groups.map numRegs := by
  simp [holdReq]

@[simp] theorem directWrite_regs (s : State) (part pa : Nat) (bs : List Byte) :
    (directWrite s part pa bs).groups.map numRegs = s.groups.map numRegs := by
  simp [directWrite]

@[simp] theorem setReply_regs (s : State) (r : Req) (k : Nat) :
    (setReply s r k).groups.map numRegs = s.groups.map numRegs := by
  unfold setReply; (repeat' split) <;> simp

@[simp] theorem spadFlight_regs (s : State) (c : Ctx) (f : Flight) (base p : Nat) :
    (spadFlight s c f base p).groups.map numRegs = s.groups.map numRegs := by
  simp [spadFlight]

@[simp] theorem loadSpad_regs (c : Ctx) (s : State) :
    (loadSpad c s).groups.map numRegs = s.groups.map numRegs := by
  simp [loadSpad]

@[simp] theorem putSpad_regs (s : State) (team : Nat) (bs : List (Nat × Byte)) :
    (putSpad s team bs).groups.map numRegs = s.groups.map numRegs := by
  simp [putSpad]

@[simp] theorem spadStore_regs (s : State) (c : Ctx) (bs : List (Nat × Byte)) (p : Nat) :
    (spadStore s c bs p).groups.map numRegs = s.groups.map numRegs := by
  unfold spadStore; split <;> simp

@[simp] theorem storeSpad_regs (c : Ctx) (s : State) :
    (storeSpad c s).groups.map numRegs = s.groups.map numRegs := by
  simp [storeSpad]

@[simp] theorem loadMask_regs (c : Ctx) (s : State) :
    (loadMask c s).groups.map numRegs = s.groups.map numRegs := by
  simp [loadMask]

@[simp] theorem storeMask_regs (c : Ctx) (s : State) :
    (storeMask c s).groups.map numRegs = s.groups.map numRegs := by
  simp [storeMask]

@[simp] theorem abandonFlight_regs (s : State) (f : Flight) :
    (abandonFlight s f).groups.map numRegs = s.groups.map numRegs := by
  simp [abandonFlight]

@[simp] theorem settleNr_regs (s : State) (f : Flight) :
    (settleNr s f).groups.map numRegs = s.groups.map numRegs := by
  unfold settleNr
  exact updGroup_regs (fun g => by split <;> simp) _ _

@[simp] theorem faultLanes_regs (s : State) (f : Flight) (code detail : Nat) (ls : List LaneAcc) :
    (faultLanes s f code detail ls).groups.map numRegs = s.groups.map numRegs := by
  unfold faultLanes; split <;> simp

@[simp] theorem postSlot_regs (s : State) (core : Nat) (alone : Bool) :
    (postSlot s core alone).2.groups.map numRegs = s.groups.map numRegs := by
  unfold postSlot; dsimp only; (repeat' split) <;> simp

@[simp] theorem sendFlightReq_regs (s : State) (f : Flight) (ask : Ask) (line pol va : Nat) (dl : Bool) :
    (sendFlightReq s f ask line pol va dl).groups.map numRegs = s.groups.map numRegs := by
  unfold sendFlightReq; dsimp only; (repeat' split) <;> simp

@[simp] theorem sendFlight_regs (s : State) (f : Flight) (ls : List LaneAcc) :
    (sendFlight s f ls).groups.map numRegs = s.groups.map numRegs := by
  unfold sendFlight; dsimp only
  split
  · rw [foldl_regs (fun x a => by simp)]; simp
  · rw [foldl_regs (fun x a => by split <;> simp)]; simp

@[simp] theorem loseFlight_regs (s : State) (f : Flight) :
    (loseFlight s f).groups.map numRegs = s.groups.map numRegs := by
  simp [loseFlight]

@[simp] theorem noteWrites_regs (s : State) (f : Flight) :
    (noteWrites s f).groups.map numRegs = s.groups.map numRegs := by
  unfold noteWrites; split <;> simp

theorem finishTranslate_regs {f : Flight} (h : f.work ≠ .load true) (s : State) :
    (finishTranslate s f).groups.map numRegs = s.groups.map numRegs := by
  unfold finishTranslate; dsimp only
  split
  · split <;> simp
  · rename_i hw; exact absurd hw h
  · (repeat' split) <;> simp

theorem startGlobal_regs {w : Work} (h : w ≠ .load true) (vec : Bool) (data : Nat → List (Nat × DWord)) (c : Ctx) (s : State) :
    (startGlobal w vec data c s).groups.map numRegs = s.groups.map numRegs := by
  unfold startGlobal; dsimp only
  rw [advanceOn_regs (fun _ => finishTranslate_regs h _)]
  split <;> simp

@[simp] theorem startFence_regs (c : Ctx) (s : State) :
    (startFence c s).groups.map numRegs = s.groups.map numRegs := by
  simp [startFence]

@[simp] theorem updBar_regs (s : State) (team b : Nat) (f : TeamBar → TeamBar) :
    (updBar s team b f).groups.map numRegs = s.groups.map numRegs := by
  simp [updBar]

@[simp] theorem withOuter_regs (s : State) (g : Group) (key : Nat) :
    (withOuter s g key).groups.map numRegs = s.groups.map numRegs := by
  simp [withOuter]

@[simp] theorem updOuter_regs (s : State) (g : Group) (key : Nat) (f : OuterBar → OuterBar) :
    (updOuter s g key f).groups.map numRegs = s.groups.map numRegs := by
  simp [updOuter]

@[simp] theorem arriveNow_regs (c : Ctx) (key : Nat) (s : State) :
    (arriveNow c key s).groups.map numRegs = s.groups.map numRegs := by
  simp [arriveNow]

@[simp] theorem setBits_regs (s : State) (c : Ctx) (key : Nat) (b : BarBits) :
    (setBits s c key b).groups.map numRegs = s.groups.map numRegs := by
  simp [setBits]

@[simp] theorem arriveAtBar_regs (sync : Bool) (c : Ctx) (s : State) :
    (arriveAtBar sync c s).groups.map numRegs = s.groups.map numRegs := by
  simp [arriveAtBar]

@[simp] theorem passBar_regs (c : Ctx) (s : State) :
    (passBar c s).groups.map numRegs = s.groups.map numRegs := by
  simp [passBar]

@[simp] theorem dropFromBar_regs (c : Ctx) (s : State) :
    (dropFromBar c s).groups.map numRegs = s.groups.map numRegs := by
  simp [dropFromBar]

theorem addPend_regs (s : State) (team b : Nat) (n : Int) {t : State} (h : addPend s team b n = some t) :
    t.groups.map numRegs = s.groups.map numRegs := by
  unfold addPend at h; dsimp only at h
  split at h
  · cases h
  · simp only [Option.some.injEq] at h; subst h; simp

@[simp] theorem pushInto_regs (c : Ctx) (s : State) (xs : List Word) :
    (pushInto c s xs).groups.map numRegs = s.groups.map numRegs := by
  simp [pushInto]

@[simp] theorem popInto_regs (c : Ctx) (s : State) (n : Nat) (r : Ring) :
    (popInto c s n r).groups.map numRegs = s.groups.map numRegs := by
  simp [popInto]

theorem onceFaults_regs (s : State) (f : Flight) {t : State} (h : onceFaults s f = some t) :
    t.groups.map numRegs = s.groups.map numRegs := by
  unfold onceFaults at h; dsimp only at h
  split at h
  · cases h
  · simp only [Option.some.injEq] at h; subst h; (repeat' split) <;> simp

@[simp] theorem undoSync_regs (g : Group) (k : Option Nat) : numRegs (undoSync g k) = numRegs g := by
  cases k <;> rfl

@[simp] theorem undoIssue_regs (g : Group) : numRegs (undoIssue g) = numRegs g := by
  unfold undoIssue; split
  · rfl
  · rename_i u _; cases h : u.sync <;> simp [undoSync, numRegs, regsOf, setBarBits]

@[simp] theorem keepUndo_regs (c : Ctx) (g : Group) : numRegs (keepUndo c g) = numRegs g := by
  unfold keepUndo; dsimp only; split <;> rfl

@[simp] theorem takeOwn_regs (s : State) (f : Flight) :
    (takeOwn s f).groups.map numRegs = s.groups.map numRegs := by
  unfold takeOwn
  refine updGroup_regs (fun g => ?_) s f.uid
  split
  · simp
  · dsimp only; split <;> simp

@[simp] theorem undoFault_regs (s : State) (f : Flight) (code detail : Nat) :
    (undoFault s f code detail).groups.map numRegs = s.groups.map numRegs := by
  unfold undoFault
  rw [flightFault_regs, updGroup_regs (fun g => fields_of_numRegs (by rw [undoIssue_regs]; split <;> rfl)), abandonFlight_regs]

@[simp] theorem finishSpiral_regs (s0 : State) (f : Flight) :
    (finishSpiral s0 f).groups.map numRegs = s0.groups.map numRegs := by
  unfold finishSpiral; dsimp only
  split
  · rename_i h; rw [onceFaults_regs _ _ h, takeOwn_regs]
  · split
    · simp
    · split
      · simp
      · rw [foldl_regs (fun x a => by simp)]
        simp only [settleNr_regs, updFlight_rest]
        rw [updGroup_regs (fun g => by split <;> simp), takeOwn_regs]

@[simp] theorem start_finishSpiral_regs (s : State) (f : Flight) :
    (advanceOn finishSpiral s f).groups.map numRegs = s.groups.map numRegs :=
  advanceOn_regs (fun s => finishSpiral_regs s f) s

@[simp] theorem keepUndo_fields (c : Ctx) (g : Group) : let x := keepUndo c g
    x.uid = g.uid ∧ x.v = g.v ∧ x.s = g.s ∧ x.k = g.k ∧ x.rgn = g.rgn ∧ x.mcap = g.mcap ∧ x.mres = g.mres ∧ x.seed = g.seed :=
  fields_of_numRegs (by simp)

@[simp] theorem answerNow_regs (s : State) (c : Ctx) (x : DWord) :
    (answerNow s c x).groups.map numRegs = s.groups.map numRegs := by
  unfold answerNow
  simp only [writeAt_regs]
  exact updGroup_regs (fun g => fields_of_numRegs (foldl_numRegs (fun x a => by simp) _ _)) _ _

@[simp] theorem startSpiral_regs (c : Ctx) (s : State) :
    (startSpiral c s).groups.map numRegs = s.groups.map numRegs := by
  unfold startSpiral; dsimp only
  split
  · split <;> simp
  · rw [start_finishSpiral_regs]
    split
    · simp
    · rw [updGroup_regs (fun g => by simp)]

@[simp] theorem takeTrap_regs (s : State) (c : Ctx) (code detail : Nat) :
    (takeTrap s c code detail).groups.map numRegs = s.groups.map numRegs := by
  simp [takeTrap]

@[simp] theorem breakpoint_regs (c : Ctx) (s : State) :
    (breakpoint c s).groups.map numRegs = s.groups.map numRegs := by
  simp [breakpoint]

@[simp] theorem enterRegion_regs (c : Ctx) (s : State) :
    (enterRegion c s).groups.map numRegs = s.groups.map numRegs := by
  simp [enterRegion]

@[simp] theorem traceMark_regs (c : Ctx) (s : State) :
    (traceMark c s).groups.map numRegs = s.groups.map numRegs := by
  unfold traceMark; split <;> simp

@[simp] theorem countEvent_regs (c : Ctx) (s : State) :
    (countEvent c s).groups.map numRegs = s.groups.map numRegs := by
  simp [countEvent]

@[simp] theorem requestPoint_regs (c : Ctx) (s : State) :
    (requestPoint c s).groups.map numRegs = s.groups.map numRegs := by
  unfold requestPoint; (repeat' split) <;> simp

@[simp] theorem setPrio_regs (c : Ctx) (s : State) :
    (setPrio c s).groups.map numRegs = s.groups.map numRegs := by
  simp [setPrio]

@[simp] theorem queueLaunch_regs (c : Ctx) (s : State) :
    (queueLaunch c s).groups.map numRegs = s.groups.map numRegs := by
  unfold queueLaunch; dsimp only
  rw [advanceOn_regs (fun _ => by simp)]; simp

@[simp] theorem askLaunch_regs (c : Ctx) (s : State) :
    (askLaunch c s).groups.map numRegs = s.groups.map numRegs := by
  simp [askLaunch]

@[simp] theorem awaitLaunch_regs (c : Ctx) (s : State) :
    (awaitLaunch c s).groups.map numRegs = s.groups.map numRegs := by
  unfold awaitLaunch; dsimp only; (repeat' split) <;> simp

@[simp] theorem finishMigrate_regs (s : State) (f : Flight) :
    (finishMigrate s f).groups.map numRegs = s.groups.map numRegs := by
  unfold finishMigrate; dsimp only; (repeat' split) <;> simp

@[simp] theorem start_finishMigrate_regs (s : State) (f : Flight) :
    (advanceOn finishMigrate s f).groups.map numRegs = s.groups.map numRegs :=
  advanceOn_regs (fun s => finishMigrate_regs s f) s

@[simp] theorem beginMigrate_regs (c : Ctx) (s : State) :
    (beginMigrate c s).groups.map numRegs = s.groups.map numRegs := by
  simp [beginMigrate]

@[simp] theorem addFd_regs (s : State) (core o : Nat) (up : Bool) :
    (addFd s core o up).groups.map numRegs = s.groups.map numRegs := by
  simp [addFd]

@[simp] theorem addRd_regs (s : State) (core o : Nat) (up : Bool) :
    (addRd s core o up).groups.map numRegs = s.groups.map numRegs := by
  simp [addRd]

@[simp] theorem readMarks_regs (s : State) (rs : List Nat) (up : Bool) :
    (readMarks s rs up).groups.map numRegs = s.groups.map numRegs := by
  simp [readMarks]

@[simp] theorem enqueueArray_regs (s : State) (c : Ctx) (f : Flight) :
    (enqueueArray s c f).groups.map numRegs = s.groups.map numRegs := by
  simp [enqueueArray]

@[simp] theorem enterArray_regs (reads : List Nat) (mems : List Byte) (vals : List DWord) (c : Ctx) (s : State) :
    (enterArray reads mems vals c s).groups.map numRegs = s.groups.map numRegs := by
  simp [enterArray]

@[simp] theorem clearLatch_regs (c : Ctx) (s : State) :
    (clearLatch c s).groups.map numRegs = s.groups.map numRegs := by
  simp [clearLatch]

@[simp] theorem startClaim_regs (c : Ctx) (s : State) :
    (startClaim c s).groups.map numRegs = s.groups.map numRegs := by
  simp [startClaim]

@[simp] theorem startRelease_regs (c : Ctx) (s : State) :
    (startRelease c s).groups.map numRegs = s.groups.map numRegs := by
  simp [startRelease]

@[simp] theorem startFeed_regs (c : Ctx) (s : State) :
    (startFeed c s).groups.map numRegs = s.groups.map numRegs := by
  simp [startFeed, addFd]

@[simp] theorem startFeeda_regs (c : Ctx) (s : State) :
    (startFeeda c s).groups.map numRegs = s.groups.map numRegs := by
  simp [startFeeda, addFd]

@[simp] theorem enterIter_regs (c : Ctx) (s : State) :
    (enterIter c s).groups.map numRegs = s.groups.map numRegs := by
  simp [enterIter]

theorem pendFor_regs (s : State) (c : Ctx) (cmd : CopyCmd) {t : State} (h : pendFor s c cmd = some t) :
    t.groups.map numRegs = s.groups.map numRegs := by
  unfold pendFor at h
  split at h
  · simp only [Option.some.injEq] at h; simp [← h]
  · exact addPend_regs _ _ _ _ h

@[simp] theorem enterCmd_regs (c : Ctx) (cmd : CopyCmd) (gs : List Guard) (slots : List Nat) (s1 : State) :
    (enterCmd c cmd gs slots s1).groups.map numRegs = s1.groups.map numRegs := by
  unfold enterCmd; simp [addFd]

@[simp] theorem subPend_regs (s : State) (c : CopyCmd) (n : Nat) :
    (subPend s c n).groups.map numRegs = s.groups.map numRegs := by
  unfold subPend; split <;> simp

@[simp] theorem freeCmd_regs (s : State) (c : CopyCmd) :
    (freeCmd s c).groups.map numRegs = s.groups.map numRegs := by
  unfold freeCmd; dsimp only
  split <;> simp [addFd]

@[simp] theorem endCmds_regs (s : State) (uid eng : Nat) (cs : List CopyCmd) :
    (endCmds s uid eng cs).groups.map numRegs = s.groups.map numRegs := by
  simp [endCmds]

@[simp] theorem cancelCmds_regs (c : Ctx) (s : State) :
    (cancelCmds c s).groups.map numRegs = s.groups.map numRegs := by
  simp [cancelCmds]

@[simp] theorem sendTo_regs (s : State) (m block : Nat) (b : FrameBody) :
    (sendTo s m block b).groups.map numRegs = s.groups.map numRegs := by
  unfold sendTo; split <;> simp

@[simp] theorem tellMembers_regs (s : State) (part comm : Nat) (b : FrameBody) :
    (tellMembers s part comm b).groups.map numRegs = s.groups.map numRegs := by
  unfold tellMembers; exact foldl_regs (fun x a => by simp) _ _

@[simp] theorem toMemory_regs (s : State) (r : Req) :
    (toMemory s r).groups.map numRegs = s.groups.map numRegs := by
  simp [toMemory]

@[simp] theorem promReq_regs (s : State) (f : Flight) (ask : Ask) (va pa from_ : Nat) :
    (promReq s f ask va pa from_).groups.map numRegs = s.groups.map numRegs := by
  simp [promReq]

@[simp] theorem cellWrite_regs (s : State) (r : Req) (k : Nat) :
    (cellWrite s r k).groups.map numRegs = s.groups.map numRegs := by
  unfold cellWrite; dsimp only; (repeat' split) <;> simp

@[simp] theorem promWrite_regs (s : State) (f : Flight) (va pa off : Nat) (bs : List Byte) (wait : Bool) (k : Nat) :
    (promWrite s f va pa off bs wait k).groups.map numRegs = s.groups.map numRegs := by
  unfold promWrite; dsimp only; (repeat' split) <;> simp

@[simp] theorem promUnlock_regs (s : State) (f : Flight) (va pa : Nat) (wait : Bool) :
    (promUnlock s f va pa wait).groups.map numRegs = s.groups.map numRegs := by
  simp [promUnlock]

@[simp] theorem releaseLocks_regs (s : State) (f : Flight) (wait : Bool) :
    (releaseLocks s f wait).groups.map numRegs = s.groups.map numRegs := by
  unfold releaseLocks
  exact foldl_regs (fun x a => by split <;> simp) _ _

@[simp] theorem endUnflagged_regs (s : State) (f : Flight) :
    (endUnflagged s f).groups.map numRegs = s.groups.map numRegs := by
  simp [endUnflagged]

@[simp] theorem promFault_regs (s : State) (f : Flight) (code detail addr : Nat) :
    (promFault s f code detail addr).groups.map numRegs = s.groups.map numRegs := by
  simp [promFault]

@[simp] theorem visitAt_regs (s : State) (f : Flight) (va from_ : Nat) (step : PromStep) :
    (visitAt s f va from_ step).groups.map numRegs = s.groups.map numRegs := by
  unfold visitAt; (repeat' split) <;> simp

@[simp] theorem sendVisit_regs (s : State) (f : Flight) (va n from_ : Nat) (step : PromStep) :
    (sendVisit s f va n from_ step).groups.map numRegs = s.groups.map numRegs := by
  unfold sendVisit; (repeat' split) <;> simp

@[simp] theorem startFind_regs (s : State) (f : Flight) (from_ : Nat) :
    (startFind s f from_).groups.map numRegs = s.groups.map numRegs := by
  simp [startFind]

@[simp] theorem finishPromise_regs (s : State) (f : Flight) :
    (finishPromise s f).groups.map numRegs = s.groups.map numRegs := by
  unfold finishPromise; dsimp only
  split
  · rename_i h; exact onceFaults_regs _ _ h
  · split
    · simp
    · split <;> simp

@[simp] theorem start_finishPromise_regs (s : State) (f : Flight) :
    (advanceOn finishPromise s f).groups.map numRegs = s.groups.map numRegs :=
  advanceOn_regs (fun s => finishPromise_regs s f) s

@[simp] theorem startPromise_regs (c : Ctx) (s : State) :
    (startPromise c s).groups.map numRegs = s.groups.map numRegs := by
  unfold startPromise; dsimp only
  split <;> simp

@[simp] theorem freeXfer_regs (s : State) (core : Nat) :
    (freeXfer s core).groups.map numRegs = s.groups.map numRegs := by
  simp [freeXfer]

theorem linkFaults_regs (s : State) (f : Flight) {t : State} (h : linkFaults s f = some t) :
    t.groups.map numRegs = s.groups.map numRegs := by
  unfold linkFaults at h; dsimp only at h
  split at h
  · cases h
  · simp only [Option.some.injEq] at h; subst h; (repeat' split) <;> simp

@[simp] theorem updColl_regs (s : State) (part comm k time : Nat) (u : Coll → Coll) :
    (updColl s part comm k time u).groups.map numRegs = s.groups.map numRegs := by
  unfold updColl; split <;> simp

@[simp] theorem noteBrought_regs (s : State) (part comm k : Nat) (b : Brought) :
    (noteBrought s part comm k b).groups.map numRegs = s.groups.map numRegs := by
  simp [noteBrought]

@[simp] theorem acceptColl_regs (s : State) (f : Flight) (shape : DWord) :
    (acceptColl s f shape).groups.map numRegs = s.groups.map numRegs := by
  unfold acceptColl; dsimp only
  split <;> simp [noteBrought_regs]

@[simp] theorem finishLink_regs (s : State) (f : Flight) :
    (finishLink s f).groups.map numRegs = s.groups.map numRegs := by
  unfold finishLink; dsimp only
  split
  · rename_i h; rw [linkFaults_regs _ _ h, takeOwn_regs]
  · split
    · simp
    · split
      · simp
      · split
        · simp
        · rename_i s1 h
          have hb : s1.groups.map numRegs = s.groups.map numRegs := by
            split at h
            · rw [addPend_regs _ _ _ _ h, takeOwn_regs]
            · simp only [Option.some.injEq] at h; rw [← h, takeOwn_regs]
          have hu : ∀ x : State, (updGroup x f.uid (fun g => { g with busy := if g.busy = some f.id then none else g.busy })).groups.map
              numRegs = x.groups.map numRegs := fun x => updGroup_regs (fun g => by split <;> simp) _ _
          simp only [ite_groups, ite_map, setDie_rest, flightFault_regs, loseFlight_regs, takeOwn_regs, hu,
            settleNr_regs, updFlight_rest, delFlight_rest, hb, ite_self]

@[simp] theorem start_finishLink_regs (s : State) (f : Flight) :
    (advanceOn finishLink s f).groups.map numRegs = s.groups.map numRegs :=
  advanceOn_regs (fun s => finishLink_regs s f) s

@[simp] theorem startLink_regs (c : Ctx) (s : State) :
    (startLink c s).groups.map numRegs = s.groups.map numRegs := by
  unfold startLink; dsimp only
  rw [start_finishLink_regs, updGroup_regs (fun g => by simp)]

@[simp] theorem restartWalk_regs (part : Nat) (st : State) (w : Walk) :
    (restartWalk part st w).groups.map numRegs = st.groups.map numRegs := by
  simp [restartWalk]

@[simp] theorem vecPut_regs (c : Ctx) (lat t : Nat) (f : Nat → Nat) (s : State) :
    (vecPut c lat t f s).groups.map numRegs = s.groups.map numRegs := by
  simp [vecPut]

@[simp] theorem elemPut_regs (c : Ctx) (lat w : Nat) (f : Nat → List (Nat × Nat)) (s : State) :
    (elemPut c lat w f s).groups.map numRegs = s.groups.map numRegs := by
  simp [elemPut]

@[simp] theorem convertLanes_regs (c : Ctx) (s : State) :
    (convertLanes c s).groups.map numRegs = s.groups.map numRegs := by
  simp [convertLanes]

@[simp] theorem insertLane_regs (c : Ctx) (s : State) :
    (insertLane c s).groups.map numRegs = s.groups.map numRegs := by
  simp [insertLane]


end Sys2Proof.Machine
end

