-- ==== Sys2Proof/Laws/Stores.lean ====
section
/-!
SUPPORT. What the issue of an instruction leaves as it was: the scratchpads, but for stores to them, and what the matrix
engines hold.
-/
namespace Sys2Proof.Machine

theorem listUpd_map_of {α β : Type} {p : α → Bool} {f : α → α} {v : α → β} (h : ∀ x, v (f x) = v x) (l : List α) :
    (listUpd p f l).map v = l.map v := by
  induction l with
  | nil => rfl
  | cons a l ih => unfold listUpd; split <;> simp [h, ih]

/-- A change of a team that leaves its number and scratchpad leaves all scratchpads. -/
@[simp] theorem updTeam_spads {f : Team → Team} (h : ∀ t, (f t).id = t.id ∧ (f t).spad = t.spad) (s : State) (u : Nat) :
    (updTeam s u f).teams.map numSpad = s.teams.map numSpad := listUpd_map_of (fun t => by simp only [numSpad, h]) s.teams

theorem mfind_mput {α : Type} (j k : Nat) (x : α) (m : SMap α) : mfind j (mput k x m) = if k = j then some x else mfind j m := by
  induction m with
  | nil => rfl
  | cons p r ih =>
    simp only [mput]
    split
    · rfl
    · split
      · rename_i h; simp only [mfind, h]; split <;> rfl
      · rename_i h1 h2
        simp only [mfind, ih]
        by_cases h : p.1 = j
        · rw [if_pos h, if_pos h, if_neg (by omega)]
        · rw [if_neg h, if_neg h]

/-- A change of a core that leaves what its engine holds leaves what all hold. -/
@[simp] theorem updCore_engines {f : CoreSt → CoreSt} (h : ∀ x, let m := (f x).mat
      m.slots = x.mat.slots ∧ m.acc = x.mat.acc ∧ m.cb = x.mat.cb ∧ m.mx = x.mat.mx ∧ m.lx = x.mat.lx ∧ m.coef = x.mat.coef)
    (s : State) (c k : Nat) : engineMem (updCore s c f).cores k = engineMem s.cores k := by
  unfold engineMem updCore setCore coreAt
  rw [mfind_mput]
  split
  · rename_i e; subst e; simp only [Option.getD_some, h]
  · rfl

@[simp] theorem updMat_engines {f : MatrixSt → MatrixSt} (h : ∀ x, let m := f x
      m.slots = x.slots ∧ m.acc = x.acc ∧ m.cb = x.cb ∧ m.mx = x.mx ∧ m.lx = x.lx ∧ m.coef = x.coef)
    (s : State) (c k : Nat) : engineMem (updMat s c f).cores k = engineMem s.cores k :=
  updCore_engines (fun x => by simp only [h]; simp) s c k

@[simp] theorem ite_teams {c : Prop} [Decidable c] (a b : State) :
    (if c then a else b).teams = if c then a.teams else b.teams := by split <;> rfl

@[simp] theorem ite_map_spad {c : Prop} [Decidable c] (a b : List Team) :
    (if c then a else b).map numSpad = if c then a.map numSpad else b.map numSpad := by split <;> rfl

@[simp] theorem ite_cores {c : Prop} [Decidable c] (a b : State) :
    (if c then a else b).cores = if c then a.cores else b.cores := by split <;> rfl

@[simp] theorem ite_engines {c : Prop} [Decidable c] (a b : SMap CoreSt) (k : Nat) :
    engineMem (if c then a else b) k = if c then engineMem a k else engineMem b k := by split <;> rfl

@[simp] theorem foldl_stores {α : Type} {g : State → α → State}
    (h : ∀ x a, (g x a).teams.map numSpad = x.teams.map numSpad ∧ ∀ k, engineMem (g x a).cores k = engineMem x.cores k) (l : List α) (s : State) :
    (l.foldl g s).teams.map numSpad = s.teams.map numSpad ∧ ∀ k, engineMem (l.foldl g s).cores k = engineMem s.cores k := by
  induction l generalizing s with
  | nil => exact ⟨rfl, fun _ => rfl⟩
  | cons a l ih => rw [List.foldl_cons]; exact ⟨(ih _).1.trans (h s a).1, fun k => ((ih _).2 k).trans ((h s a).2 k)⟩

@[simp] theorem foldl_fst_stores {α β : Type} {g : State × β → α → State × β}
    (h : ∀ x a, (g x a).1.teams.map numSpad = x.1.teams.map numSpad ∧ ∀ k, engineMem (g x a).1.cores k = engineMem x.1.cores k) (l : List α)
    (s : State × β) : (l.foldl g s).1.teams.map numSpad = s.1.teams.map numSpad ∧ ∀ k, engineMem (l.foldl g s).1.cores k = engineMem s.1.cores k := by
  induction l generalizing s with
  | nil => exact ⟨rfl, fun _ => rfl⟩
  | cons a l ih => rw [List.foldl_cons]; exact ⟨(ih _).1.trans (h s a).1, fun k => ((ih _).2 k).trans ((h s a).2 k)⟩

@[simp] theorem noteMark_rest (t k : Nat) (up : Bool) (m : MatrixSt) :
    (noteMark t k up m).slots = m.slots ∧ (noteMark t k up m).acc = m.acc ∧ (noteMark t k up m).cb = m.cb ∧
      (noteMark t k up m).mx = m.mx ∧ (noteMark t k up m).lx = m.lx ∧ (noteMark t k up m).coef = m.coef := by
  unfold noteMark; dsimp only
  split <;> split <;> simp

@[simp] theorem newId_stores (s : State) :
    (newId s).2.teams.map numSpad = s.teams.map numSpad ∧ ∀ ce, engineMem (newId s).2.cores ce = engineMem s.cores ce := by
  simp [newId]

@[simp] theorem boxAppend_stores (s : State) (code src unit ctx data : Nat) :
    (boxAppend s code src unit ctx data).teams.map numSpad = s.teams.map numSpad ∧ ∀ ce, engineMem (boxAppend s code src unit ctx data).cores ce = engineMem s.cores ce := by
  simp [boxAppend]

@[simp] theorem completeFlight_stores (s : State) (f : Flight) :
    (completeFlight s f).teams.map numSpad = s.teams.map numSpad ∧ ∀ ce, engineMem (completeFlight s f).cores ce = engineMem s.cores ce := by
  simp [completeFlight]

@[simp] theorem dropArrival_stores (s : State) (u core : Nat) :
    (dropArrival s u core).teams.map numSpad = s.teams.map numSpad ∧ ∀ ce, engineMem (dropArrival s u core).cores ce = engineMem s.cores ce := by
  unfold dropArrival; split <;> simp

@[simp] theorem raiseFault_stores (s : State) (u : Nat) (e : TrapEntry) :
    (raiseFault s u e).teams.map numSpad = s.teams.map numSpad ∧ ∀ ce, engineMem (raiseFault s u e).cores ce = engineMem s.cores ce := by
  unfold raiseFault; (repeat' split) <;> simp

@[simp] theorem flightFault_stores (s : State) (f : Flight) (code detail : Nat) (lanes : Word) (addr : Nat) :
    (flightFault s f code detail lanes addr).teams.map numSpad = s.teams.map numSpad ∧ ∀ ce, engineMem (flightFault s f code detail lanes addr).cores ce = engineMem s.cores ce := by
  simp [flightFault]

@[simp] theorem holdUnit_stores (s : State) (core : Nat) (u : ExecUnit) (n : Nat) :
    (holdUnit s core u n).teams.map numSpad = s.teams.map numSpad ∧ ∀ ce, engineMem (holdUnit s core u n).cores ce = engineMem s.cores ce := by
  unfold holdUnit; split <;> simp

@[simp] theorem updRing_stores (s : State) (team q : Nat) (f : Ring → Ring) :
    (updRing s team q f).teams.map numSpad = s.teams.map numSpad ∧ ∀ ce, engineMem (updRing s team q f).cores ce = engineMem s.cores ce := by
  simp [updRing]

@[simp] theorem blockRing_stores (s : State) (team q : Nat) (push : Bool) :
    (blockRing s team q push).teams.map numSpad = s.teams.map numSpad ∧ ∀ ce, engineMem (blockRing s team q push).cores ce = engineMem s.cores ce := by
  simp [blockRing]

@[simp] theorem beginIssue_stores (s : State) (c : Ctx) :
    (beginIssue s c).teams.map numSpad = s.teams.map numSpad ∧ ∀ ce, engineMem (beginIssue s c).cores ce = engineMem s.cores ce := by
  simp [beginIssue]

@[simp] theorem finishAt_stores (s : State) (c : Ctx) (lat : Nat) :
    (finishAt s c lat).teams.map numSpad = s.teams.map numSpad ∧ ∀ ce, engineMem (finishAt s c lat).cores ce = engineMem s.cores ce := by
  simp [finishAt]

@[simp] theorem writeAt_stores (s : State) (c : Ctx) (lat : Nat) (w : WriteTo) :
    (writeAt s c lat w).teams.map numSpad = s.teams.map numSpad ∧ ∀ ce, engineMem (writeAt s c lat w).cores ce = engineMem s.cores ce := by
  simp [writeAt]

@[simp] theorem afterIssue_stores (s : State) (c : Ctx) :
    (afterIssue s c).teams.map numSpad = s.teams.map numSpad ∧ ∀ ce, engineMem (afterIssue s c).cores ce = engineMem s.cores ce := by
  simp [afterIssue]

@[simp] theorem raiseAt_stores (s : State) (c : Ctx) (code detail : Nat) (lanes : Word) (addr : Nat) :
    (raiseAt s c code detail lanes addr).teams.map numSpad = s.teams.map numSpad ∧ ∀ ce, engineMem (raiseAt s c code detail lanes addr).cores ce = engineMem s.cores ce := by
  simp [raiseAt]

@[simp] theorem transfer_stores (s : State) (c : Ctx) (t : Word) (x : Nat) :
    (transfer s c t x).teams.map numSpad = s.teams.map numSpad ∧ ∀ ce, engineMem (transfer s c t x).cores ce = engineMem s.cores ce := by
  simp [transfer]

@[simp] theorem peel_stores (s : State) (c : Ctx) (t : Word) (x : Nat) :
    (peel s c t x).teams.map numSpad = s.teams.map numSpad ∧ ∀ ce, engineMem (peel s c t x).cores ce = engineMem s.cores ce := by
  simp [peel]

@[simp] theorem branchIf_stores (cond : DWord → Bool) (c : Ctx) (s : State) :
    (branchIf cond c s).teams.map numSpad = s.teams.map numSpad ∧ ∀ ce, engineMem (branchIf cond c s).cores ce = engineMem s.cores ce := by
  simp [branchIf]

@[simp] theorem branchMask_stores (all : Bool) (c : Ctx) (s : State) :
    (branchMask all c s).teams.map numSpad = s.teams.map numSpad ∧ ∀ ce, engineMem (branchMask all c s).cores ce = engineMem s.cores ce := by
  simp [branchMask]

@[simp] theorem branchIndirect_stores (c : Ctx) (s : State) :
    (branchIndirect c s).teams.map numSpad = s.teams.map numSpad ∧ ∀ ce, engineMem (branchIndirect c s).cores ce = engineMem s.cores ce := by
  simp [branchIndirect]

@[simp] theorem callDirect_stores (c : Ctx) (s : State) :
    (callDirect c s).teams.map numSpad = s.teams.map numSpad ∧ ∀ ce, engineMem (callDirect c s).cores ce = engineMem s.cores ce := by
  simp [callDirect]

@[simp] theorem callIndirect_stores (c : Ctx) (s : State) :
    (callIndirect c s).teams.map numSpad = s.teams.map numSpad ∧ ∀ ce, engineMem (callIndirect c s).cores ce = engineMem s.cores ce := by
  simp [callIndirect]

@[simp] theorem exitLanes_stores (c : Ctx) (s : State) :
    (exitLanes c s).teams.map numSpad = s.teams.map numSpad ∧ ∀ ce, engineMem (exitLanes c s).cores ce = engineMem s.cores ce := by
  simp [exitLanes]

@[simp] theorem yieldNow_stores (c : Ctx) (s : State) :
    (yieldNow c s).teams.map numSpad = s.teams.map numSpad ∧ ∀ ce, engineMem (yieldNow c s).cores ce = engineMem s.cores ce := by
  simp [yieldNow]

@[simp] theorem splitNow_stores (c : Ctx) (s : State) :
    (splitNow c s).teams.map numSpad = s.teams.map numSpad ∧ ∀ ce, engineMem (splitNow c s).cores ce = engineMem s.cores ce := by
  simp [splitNow]

@[simp] theorem sleepNow_stores (c : Ctx) (s : State) :
    (sleepNow c s).teams.map numSpad = s.teams.map numSpad ∧ ∀ ce, engineMem (sleepNow c s).cores ce = engineMem s.cores ce := by
  simp [sleepNow]

@[simp] theorem launchFlight_stores (s : State) (c : Ctx) (f : Flight) :
    (launchFlight s c f).teams.map numSpad = s.teams.map numSpad ∧ ∀ ce, engineMem (launchFlight s c f).cores ce = engineMem s.cores ce := by
  simp [launchFlight]

@[simp] theorem callLanes_stores (c : Ctx) (s : State) :
    (callLanes c s).teams.map numSpad = s.teams.map numSpad ∧ ∀ ce, engineMem (callLanes c s).cores ce = engineMem s.cores ce := by
  simp [callLanes]

@[simp] theorem callerBack_stores (clk : Nat) (st : State) (o : Nat) :
    (callerBack clk st o).teams.map numSpad = st.teams.map numSpad ∧ ∀ ce, engineMem (callerBack clk st o).cores ce = engineMem st.cores ce := by
  unfold callerBack; (repeat' split) <;> simp

@[simp] theorem returnLanes_stores (c : Ctx) (s : State) :
    (returnLanes c s).teams.map numSpad = s.teams.map numSpad ∧ ∀ ce, engineMem (returnLanes c s).cores ce = engineMem s.cores ce := by
  simp [returnLanes]

@[simp] theorem noteBlock_stores (s : State) (module block link : Nat) :
    (noteBlock s module block link).teams.map numSpad = s.teams.map numSpad ∧ ∀ ce, engineMem (noteBlock s module block link).cores ce = engineMem s.cores ce := by
  simp [noteBlock]

@[simp] theorem sendFrame_stores (s : State) (link dest block : Nat) (b : FrameBody) :
    (sendFrame s link dest block b).teams.map numSpad = s.teams.map numSpad ∧ ∀ ce, engineMem (sendFrame s link dest block b).cores ce = engineMem s.cores ce := by
  simp [sendFrame]

@[simp] theorem sendTo_stores (s : State) (dest block : Nat) (b : FrameBody) :
    (sendTo s dest block b).teams.map numSpad = s.teams.map numSpad ∧ ∀ ce, engineMem (sendTo s dest block b).cores ce = engineMem s.cores ce := by
  unfold sendTo; split <;> simp

@[simp] theorem sendReq_stores (s : State) (r0 : Req) (k : Nat) :
    (sendReq s r0 k).teams.map numSpad = s.teams.map numSpad ∧ ∀ ce, engineMem (sendReq s r0 k).cores ce = engineMem s.cores ce := by
  unfold sendReq; dsimp only; (repeat' split) <;> simp

@[simp] theorem startWalk_stores (s : State) (part va : Nat) (op cmd : Option Nat) :
    (startWalk s part va op cmd).teams.map numSpad = s.teams.map numSpad ∧ ∀ ce, engineMem (startWalk s part va op cmd).cores ce = engineMem s.cores ce := by
  unfold startWalk; dsimp only; (repeat' split) <;> simp

theorem advanceOn_stores {fin : State → Flight → State} {f : Flight}
    (h : ∀ s, (fin s f).teams.map numSpad = s.teams.map numSpad ∧ ∀ k, engineMem (fin s f).cores k = engineMem s.cores k) (s : State) :
    (advanceOn fin s f).teams.map numSpad = s.teams.map numSpad ∧ ∀ k, engineMem (advanceOn fin s f).cores k = engineMem s.cores k := by
  unfold advanceOn
  split
  · simp
  · dsimp only
    split
    · split
      · simp
      · exact h _
    · exact foldl_stores (fun x a => by split <;> simp) _ _

@[simp] theorem sendUpdate_stores (s : State) (sector arm line tag : Nat) (bs : List (Nat × Byte)) (req : Nat) (drop poison : Bool) (wait : Nat) :
    (sendUpdate s sector arm line tag bs req drop poison wait).teams.map numSpad = s.teams.map numSpad ∧ ∀ ce, engineMem (sendUpdate s sector arm line tag bs req drop poison wait).cores ce = engineMem s.cores ce := by
  simp [sendUpdate]

@[simp] theorem fillDram_stores (s : State) (line : Nat) (data : List (Nat × Byte)) (tag : Nat) :
    (fillDram s line data tag).teams.map numSpad = s.teams.map numSpad ∧ ∀ ce, engineMem (fillDram s line data tag).cores ce = engineMem s.cores ce := by
  simp [fillDram]

@[simp] theorem performWrite_stores (s : State) (arm : Nat) (r : Req) (bs : List (Nat × Byte)) (deep : Bool) :
    (performWrite s arm r bs deep).teams.map numSpad = s.teams.map numSpad ∧ ∀ ce, engineMem (performWrite s arm r bs deep).cores ce = engineMem s.cores ce := by
  simp [performWrite]

@[simp] theorem logWrite_stores (s : State) (r : Req) :
    (logWrite s r).teams.map numSpad = s.teams.map numSpad ∧ ∀ ce, engineMem (logWrite s r).cores ce = engineMem s.cores ce := by
  unfold logWrite; dsimp only; (repeat' split) <;> simp

@[simp] theorem holdReq_stores (s : State) (arm block id : Nat) :
    (holdReq s arm block id).teams.map numSpad = s.teams.map numSpad ∧ ∀ ce, engineMem (holdReq s arm block id).cores ce = engineMem s.cores ce := by
  simp [holdReq]

@[simp] theorem directWrite_stores (s : State) (part pa : Nat) (bs : List Byte) :
    (directWrite s part pa bs).teams.map numSpad = s.teams.map numSpad ∧ ∀ ce, engineMem (directWrite s part pa bs).cores ce = engineMem s.cores ce := by
  unfold directWrite; dsimp only; (repeat' split) <;> simp

@[simp] theorem setReply_stores (s : State) (r : Req) (k : Nat) :
    (setReply s r k).teams.map numSpad = s.teams.map numSpad ∧ ∀ ce, engineMem (setReply s r k).cores ce = engineMem s.cores ce := by
  unfold setReply; (repeat' split) <;> simp

@[simp] theorem toMemory_stores (s : State) (r : Req) :
    (toMemory s r).teams.map numSpad = s.teams.map numSpad ∧ ∀ ce, engineMem (toMemory s r).cores ce = engineMem s.cores ce := by
  simp [toMemory]

@[simp] theorem unpark_stores (s : State) (arm tile : Nat) :
    (unpark s arm tile).teams.map numSpad = s.teams.map numSpad ∧ ∀ ce, engineMem (unpark s arm tile).cores ce = engineMem s.cores ce := by
  simp [unpark]

@[simp] theorem setPin_stores (s : State) (arm : Nat) (r : Req) :
    (setPin s arm r).teams.map numSpad = s.teams.map numSpad ∧ ∀ ce, engineMem (setPin s arm r).cores ce = engineMem s.cores ce := by
  simp [setPin]

@[simp] theorem answerRiders_stores (s : State) (arm tile : Nat) :
    (answerRiders s arm tile).teams.map numSpad = s.teams.map numSpad ∧ ∀ ce, engineMem (answerRiders s arm tile).cores ce = engineMem s.cores ce := by
  simp [answerRiders]

@[simp] theorem dropOthers_stores (s : State) (arm line : Nat) :
    (dropOthers s arm line).teams.map numSpad = s.teams.map numSpad ∧ ∀ ce, engineMem (dropOthers s arm line).cores ce = engineMem s.cores ce := by
  simp [dropOthers]

@[simp] theorem placeWords_stores (s : State) (arm : Nat) (r : Req) :
    (placeWords s arm r).teams.map numSpad = s.teams.map numSpad ∧ ∀ ce, engineMem (placeWords s arm r).cores ce = engineMem s.cores ce := by
  unfold placeWords; (repeat' split) <;> simp

@[simp] theorem repin_stores (s : State) (arm tile : Nat) :
    (repin s arm tile).teams.map numSpad = s.teams.map numSpad ∧ ∀ ce, engineMem (repin s arm tile).cores ce = engineMem s.cores ce := by
  unfold repin; split <;> simp [engineMem]

@[simp] theorem pinLanded_stores (s : State) (arm tile : Nat) :
    (pinLanded s arm tile).teams.map numSpad = s.teams.map numSpad ∧ ∀ ce, engineMem (pinLanded s arm tile).cores ce = engineMem s.cores ce := by
  simp [pinLanded]

@[simp] theorem wordsLanded_stores (s : State) (arm tile : Nat) :
    (wordsLanded s arm tile).teams.map numSpad = s.teams.map numSpad ∧ ∀ ce, engineMem (wordsLanded s arm tile).cores ce = engineMem s.cores ce := by
  simp [wordsLanded]

@[simp] theorem deferLandings_stores (s : State) (arm : Nat) :
    (deferLandings s arm).teams.map numSpad = s.teams.map numSpad ∧ ∀ ce, engineMem (deferLandings s arm).cores ce = engineMem s.cores ce := by
  simp [deferLandings]

@[simp] theorem landed_stores (s : State) (arm tile : Nat) :
    (landed s arm tile).teams.map numSpad = s.teams.map numSpad ∧ ∀ ce, engineMem (landed s arm tile).cores ce = engineMem s.cores ce := by
  simp [landed]

@[simp] theorem spadFlight_stores (s : State) (c : Ctx) (f : Flight) (base p : Nat) :
    (spadFlight s c f base p).teams.map numSpad = s.teams.map numSpad ∧ ∀ ce, engineMem (spadFlight s c f base p).cores ce = engineMem s.cores ce := by
  simp [spadFlight]

@[simp] theorem loadSpad_stores (c : Ctx) (s : State) :
    (loadSpad c s).teams.map numSpad = s.teams.map numSpad ∧ ∀ ce, engineMem (loadSpad c s).cores ce = engineMem s.cores ce := by
  simp [loadSpad]

@[simp] theorem putSpad_engines (s : State) (team : Nat) (bs : List (Nat × Byte)) (ce : Nat) :
    engineMem (putSpad s team bs).cores ce = engineMem s.cores ce := by
  simp [putSpad]

@[simp] theorem spadStore_engines (s : State) (c : Ctx) (bs : List (Nat × Byte)) (p ce : Nat) :
    engineMem (spadStore s c bs p).cores ce = engineMem s.cores ce := by
  unfold spadStore; split <;> simp

@[simp] theorem storeSpad_engines (c : Ctx) (s : State) (ce : Nat) : engineMem (storeSpad c s).cores ce = engineMem s.cores ce := by
  simp [storeSpad]

@[simp] theorem loadMask_stores (c : Ctx) (s : State) :
    (loadMask c s).teams.map numSpad = s.teams.map numSpad ∧ ∀ ce, engineMem (loadMask c s).cores ce = engineMem s.cores ce := by
  simp [loadMask]

@[simp] theorem storeMask_engines (c : Ctx) (s : State) (ce : Nat) : engineMem (storeMask c s).cores ce = engineMem s.cores ce := by
  simp [storeMask]

@[simp] theorem abandonFlight_stores (s : State) (f : Flight) :
    (abandonFlight s f).teams.map numSpad = s.teams.map numSpad ∧ ∀ ce, engineMem (abandonFlight s f).cores ce = engineMem s.cores ce := by
  simp [abandonFlight]

@[simp] theorem settleNr_stores (s : State) (f : Flight) :
    (settleNr s f).teams.map numSpad = s.teams.map numSpad ∧ ∀ ce, engineMem (settleNr s f).cores ce = engineMem s.cores ce := by
  simp [settleNr]

@[simp] theorem loseFlight_stores (s : State) (f : Flight) :
    (loseFlight s f).teams.map numSpad = s.teams.map numSpad ∧ ∀ ce, engineMem (loseFlight s f).cores ce = engineMem s.cores ce := by
  simp [loseFlight]

@[simp] theorem faultLanes_stores (s : State) (f : Flight) (code detail : Nat) (ls : List LaneAcc) :
    (faultLanes s f code detail ls).teams.map numSpad = s.teams.map numSpad ∧ ∀ ce, engineMem (faultLanes s f code detail ls).cores ce = engineMem s.cores ce := by
  unfold faultLanes; split <;> simp

@[simp] theorem postSlot_stores (s : State) (core : Nat) (alone : Bool) :
    (postSlot s core alone).2.teams.map numSpad = s.teams.map numSpad ∧ ∀ ce, engineMem (postSlot s core alone).2.cores ce = engineMem s.cores ce := by
  unfold postSlot; dsimp only; (repeat' split) <;> simp

@[simp] theorem sendFlightReq_stores (s0 : State) (f : Flight) (ask : Ask) (line pol va : Nat) (dl : Bool) :
    (sendFlightReq s0 f ask line pol va dl).teams.map numSpad = s0.teams.map numSpad ∧ ∀ ce, engineMem (sendFlightReq s0 f ask line pol va dl).cores ce = engineMem s0.cores ce := by
  unfold sendFlightReq; dsimp only; (repeat' split) <;> simp

@[simp] theorem sendFlight_stores (s : State) (f : Flight) (ls : List LaneAcc) :
    (sendFlight s f ls).teams.map numSpad = s.teams.map numSpad ∧ ∀ ce, engineMem (sendFlight s f ls).cores ce = engineMem s.cores ce := by
  unfold sendFlight; dsimp only
  split
  · simp
  · have h := foldl_stores (α := Nat) (g := fun st line =>
      match (physAccs s f ls).filter (fun a => a.pa / 128 == line) with
      | [] => st
      | a :: _ => sendFlightReq st f (lineAsk f ((physAccs s f ls).filter (fun a => a.pa / 128 == line))) line a.pol a.va
          (((physAccs s f ls).filter (fun a => a.pa / 128 == line)).any (·.dl)))
      (fun x a => by split <;> simp) (linesOf (physAccs s f ls))
      (settleNr (updFlight s f.id (fun x => { x with sent := true })) f)
    exact ⟨h.1.trans (by simp), fun ce => (h.2 ce).trans (by simp)⟩

@[simp] theorem noteWrites_stores (s : State) (f : Flight) :
    (noteWrites s f).teams.map numSpad = s.teams.map numSpad ∧ ∀ ce, engineMem (noteWrites s f).cores ce = engineMem s.cores ce := by
  unfold noteWrites; split <;> simp [engineMem]

@[simp] theorem finishTranslate_stores (s : State) (f : Flight) :
    (finishTranslate s f).teams.map numSpad = s.teams.map numSpad ∧ ∀ ce, engineMem (finishTranslate s f).cores ce = engineMem s.cores ce := by
  unfold finishTranslate; dsimp only
  (repeat' split) <;> simp

@[simp] theorem start_finishTranslate_stores (s : State) (f : Flight) :
    (advanceOn finishTranslate s f).teams.map numSpad = s.teams.map numSpad ∧ ∀ k, engineMem (advanceOn finishTranslate s f).cores k = engineMem s.cores k :=
  advanceOn_stores (fun s => finishTranslate_stores s f) s

@[simp] theorem startGlobal_stores (w : Work) (vec : Bool) (data : Nat → List (Nat × DWord)) (c : Ctx) (s : State) :
    (startGlobal w vec data c s).teams.map numSpad = s.teams.map numSpad ∧ ∀ ce, engineMem (startGlobal w vec data c s).cores ce = engineMem s.cores ce := by
  unfold startGlobal; dsimp only
  split <;> simp

@[simp] theorem startFence_stores (c : Ctx) (s : State) :
    (startFence c s).teams.map numSpad = s.teams.map numSpad ∧ ∀ ce, engineMem (startFence c s).cores ce = engineMem s.cores ce := by
  simp [startFence]

@[simp] theorem updBar_stores (s : State) (team b : Nat) (f : TeamBar → TeamBar) :
    (updBar s team b f).teams.map numSpad = s.teams.map numSpad ∧ ∀ ce, engineMem (updBar s team b f).cores ce = engineMem s.cores ce := by
  simp [updBar]

@[simp] theorem withOuter_stores (s : State) (g : Group) (key : Nat) :
    (withOuter s g key).teams.map numSpad = s.teams.map numSpad ∧ ∀ ce, engineMem (withOuter s g key).cores ce = engineMem s.cores ce := by
  simp [withOuter]

@[simp] theorem updOuter_stores (s : State) (g : Group) (key : Nat) (f : OuterBar → OuterBar) :
    (updOuter s g key f).teams.map numSpad = s.teams.map numSpad ∧ ∀ ce, engineMem (updOuter s g key f).cores ce = engineMem s.cores ce := by
  simp [updOuter]

@[simp] theorem arriveNow_stores (c : Ctx) (key : Nat) (s : State) :
    (arriveNow c key s).teams.map numSpad = s.teams.map numSpad ∧ ∀ ce, engineMem (arriveNow c key s).cores ce = engineMem s.cores ce := by
  simp [arriveNow]

@[simp] theorem setBits_stores (s : State) (c : Ctx) (key : Nat) (b : BarBits) :
    (setBits s c key b).teams.map numSpad = s.teams.map numSpad ∧ ∀ ce, engineMem (setBits s c key b).cores ce = engineMem s.cores ce := by
  simp [setBits]

@[simp] theorem arriveAtBar_stores (sync : Bool) (c : Ctx) (s : State) :
    (arriveAtBar sync c s).teams.map numSpad = s.teams.map numSpad ∧ ∀ ce, engineMem (arriveAtBar sync c s).cores ce = engineMem s.cores ce := by
  simp [arriveAtBar]

@[simp] theorem passBar_stores (c : Ctx) (s : State) :
    (passBar c s).teams.map numSpad = s.teams.map numSpad ∧ ∀ ce, engineMem (passBar c s).cores ce = engineMem s.cores ce := by
  simp [passBar]

@[simp] theorem dropFromBar_stores (c : Ctx) (s : State) :
    (dropFromBar c s).teams.map numSpad = s.teams.map numSpad ∧ ∀ ce, engineMem (dropFromBar c s).cores ce = engineMem s.cores ce := by
  simp [dropFromBar]

theorem addPend_stores (s : State) (team b : Nat) (n : Int) {t : State} (h : addPend s team b n = some t) :
    t.teams.map numSpad = s.teams.map numSpad ∧ ∀ ce, engineMem t.cores ce = engineMem s.cores ce := by
  unfold addPend at h; dsimp only at h
  split at h
  · cases h
  · simp only [Option.some.injEq] at h; subst h; simp

@[simp] theorem pushInto_stores (c : Ctx) (s : State) (xs : List Word) :
    (pushInto c s xs).teams.map numSpad = s.teams.map numSpad ∧ ∀ ce, engineMem (pushInto c s xs).cores ce = engineMem s.cores ce := by
  simp [pushInto]

@[simp] theorem popInto_stores (c : Ctx) (s : State) (n : Nat) (r : Ring) :
    (popInto c s n r).teams.map numSpad = s.teams.map numSpad ∧ ∀ ce, engineMem (popInto c s n r).cores ce = engineMem s.cores ce := by
  simp [popInto]

theorem onceFaults_stores (s : State) (f : Flight) {t : State} (h : onceFaults s f = some t) :
    t.teams.map numSpad = s.teams.map numSpad ∧ ∀ ce, engineMem t.cores ce = engineMem s.cores ce := by
  unfold onceFaults at h; dsimp only at h
  split at h
  · cases h
  · simp only [Option.some.injEq] at h; subst h; (repeat' split) <;> simp

@[simp] theorem takeOwn_stores (s : State) (f : Flight) :
    (takeOwn s f).teams.map numSpad = s.teams.map numSpad ∧ ∀ ce, engineMem (takeOwn s f).cores ce = engineMem s.cores ce := by
  simp [takeOwn]

@[simp] theorem undoFault_stores (s : State) (f : Flight) (code detail : Nat) :
    (undoFault s f code detail).teams.map numSpad = s.teams.map numSpad ∧ ∀ ce, engineMem (undoFault s f code detail).cores ce = engineMem s.cores ce := by
  simp [undoFault]

@[simp] theorem finishSpiral_stores (s : State) (f : Flight) :
    (finishSpiral s f).teams.map numSpad = s.teams.map numSpad ∧ ∀ ce, engineMem (finishSpiral s f).cores ce = engineMem s.cores ce := by
  have ht : (takeOwn s f).teams.map numSpad = s.teams.map numSpad ∧
      ∀ ce, engineMem (takeOwn s f).cores ce = engineMem s.cores ce := by simp
  unfold finishSpiral; dsimp only
  split
  · rename_i h
    have h1 := onceFaults_stores _ _ h
    exact ⟨h1.1.trans ht.1, fun ce => (h1.2 ce).trans (ht.2 ce)⟩
  · (repeat' split) <;> simp

@[simp] theorem start_finishSpiral_stores (s : State) (f : Flight) :
    (advanceOn finishSpiral s f).teams.map numSpad = s.teams.map numSpad ∧ ∀ k, engineMem (advanceOn finishSpiral s f).cores k = engineMem s.cores k :=
  advanceOn_stores (fun s => finishSpiral_stores s f) s

@[simp] theorem answerNow_stores (s : State) (c : Ctx) (x : DWord) :
    (answerNow s c x).teams.map numSpad = s.teams.map numSpad ∧ ∀ ce, engineMem (answerNow s c x).cores ce = engineMem s.cores ce := by
  simp [answerNow]

@[simp] theorem startSpiral_stores (c : Ctx) (s : State) :
    (startSpiral c s).teams.map numSpad = s.teams.map numSpad ∧ ∀ ce, engineMem (startSpiral c s).cores ce = engineMem s.cores ce := by
  unfold startSpiral; dsimp only
  (repeat' split) <;> simp

@[simp] theorem takeTrap_stores (s : State) (c : Ctx) (code detail : Nat) :
    (takeTrap s c code detail).teams.map numSpad = s.teams.map numSpad ∧ ∀ ce, engineMem (takeTrap s c code detail).cores ce = engineMem s.cores ce := by
  simp [takeTrap]

@[simp] theorem breakpoint_stores (c : Ctx) (s : State) :
    (breakpoint c s).teams.map numSpad = s.teams.map numSpad ∧ ∀ ce, engineMem (breakpoint c s).cores ce = engineMem s.cores ce := by
  simp [breakpoint]

@[simp] theorem enterRegion_stores (c : Ctx) (s : State) :
    (enterRegion c s).teams.map numSpad = s.teams.map numSpad ∧ ∀ ce, engineMem (enterRegion c s).cores ce = engineMem s.cores ce := by
  simp [enterRegion]

@[simp] theorem traceMark_stores (c : Ctx) (s : State) :
    (traceMark c s).teams.map numSpad = s.teams.map numSpad ∧ ∀ ce, engineMem (traceMark c s).cores ce = engineMem s.cores ce := by
  unfold traceMark; split <;> simp

@[simp] theorem countEvent_stores (c : Ctx) (s : State) :
    (countEvent c s).teams.map numSpad = s.teams.map numSpad ∧ ∀ ce, engineMem (countEvent c s).cores ce = engineMem s.cores ce := by
  simp [countEvent]

@[simp] theorem requestPoint_stores (c : Ctx) (s : State) :
    (requestPoint c s).teams.map numSpad = s.teams.map numSpad ∧ ∀ ce, engineMem (requestPoint c s).cores ce = engineMem s.cores ce := by
  unfold requestPoint; (repeat' split) <;> simp

@[simp] theorem setPrio_stores (c : Ctx) (s : State) :
    (setPrio c s).teams.map numSpad = s.teams.map numSpad ∧ ∀ ce, engineMem (setPrio c s).cores ce = engineMem s.cores ce := by
  simp [setPrio]

@[simp] theorem queueLaunch_stores (c : Ctx) (s : State) :
    (queueLaunch c s).teams.map numSpad = s.teams.map numSpad ∧ ∀ ce, engineMem (queueLaunch c s).cores ce = engineMem s.cores ce := by
  unfold queueLaunch; dsimp only
  exact ⟨(advanceOn_stores (fun _ => by simp) _).1.trans (by simp), fun ce =>
    ((advanceOn_stores (fun _ => by simp) _).2 ce).trans (by simp)⟩

@[simp] theorem askLaunch_stores (c : Ctx) (s : State) :
    (askLaunch c s).teams.map numSpad = s.teams.map numSpad ∧ ∀ ce, engineMem (askLaunch c s).cores ce = engineMem s.cores ce := by
  simp [askLaunch]

@[simp] theorem awaitLaunch_stores (c : Ctx) (s : State) :
    (awaitLaunch c s).teams.map numSpad = s.teams.map numSpad ∧ ∀ ce, engineMem (awaitLaunch c s).cores ce = engineMem s.cores ce := by
  unfold awaitLaunch; dsimp only; (repeat' split) <;> simp

@[simp] theorem finishMigrate_stores (s : State) (f : Flight) :
    (finishMigrate s f).teams.map numSpad = s.teams.map numSpad ∧ ∀ ce, engineMem (finishMigrate s f).cores ce = engineMem s.cores ce := by
  unfold finishMigrate; dsimp only; (repeat' split) <;> simp

@[simp] theorem start_finishMigrate_stores (s : State) (f : Flight) :
    (advanceOn finishMigrate s f).teams.map numSpad = s.teams.map numSpad ∧ ∀ k, engineMem (advanceOn finishMigrate s f).cores k = engineMem s.cores k :=
  advanceOn_stores (fun s => finishMigrate_stores s f) s

@[simp] theorem beginMigrate_stores (c : Ctx) (s : State) :
    (beginMigrate c s).teams.map numSpad = s.teams.map numSpad ∧ ∀ ce, engineMem (beginMigrate c s).cores ce = engineMem s.cores ce := by
  simp [beginMigrate]

@[simp] theorem addFd_stores (s : State) (core o : Nat) (up : Bool) :
    (addFd s core o up).teams.map numSpad = s.teams.map numSpad ∧ ∀ ce, engineMem (addFd s core o up).cores ce = engineMem s.cores ce := by
  simp [addFd]

@[simp] theorem addRd_stores (s : State) (core o : Nat) (up : Bool) :
    (addRd s core o up).teams.map numSpad = s.teams.map numSpad ∧ ∀ ce, engineMem (addRd s core o up).cores ce = engineMem s.cores ce := by
  simp [addRd]

@[simp] theorem readMarks_stores (s : State) (rs : List Nat) (up : Bool) :
    (readMarks s rs up).teams.map numSpad = s.teams.map numSpad ∧ ∀ ce, engineMem (readMarks s rs up).cores ce = engineMem s.cores ce := by
  simp [readMarks]

@[simp] theorem enqueueArray_stores (s : State) (c : Ctx) (f : Flight) :
    (enqueueArray s c f).teams.map numSpad = s.teams.map numSpad ∧ ∀ ce, engineMem (enqueueArray s c f).cores ce = engineMem s.cores ce := by
  simp [enqueueArray]

@[simp] theorem enterArray_stores (reads : List Nat) (mems : List Byte) (vals : List DWord) (c : Ctx) (s : State) :
    (enterArray reads mems vals c s).teams.map numSpad = s.teams.map numSpad ∧ ∀ ce, engineMem (enterArray reads mems vals c s).cores ce = engineMem s.cores ce := by
  simp [enterArray]

@[simp] theorem clearLatch_stores (c : Ctx) (s : State) :
    (clearLatch c s).teams.map numSpad = s.teams.map numSpad ∧ ∀ ce, engineMem (clearLatch c s).cores ce = engineMem s.cores ce := by
  simp [clearLatch]

@[simp] theorem startClaim_stores (c : Ctx) (s : State) :
    (startClaim c s).teams.map numSpad = s.teams.map numSpad ∧ ∀ ce, engineMem (startClaim c s).cores ce = engineMem s.cores ce := by
  simp [startClaim]

@[simp] theorem startRelease_stores (c : Ctx) (s : State) :
    (startRelease c s).teams.map numSpad = s.teams.map numSpad ∧ ∀ ce, engineMem (startRelease c s).cores ce = engineMem s.cores ce := by
  simp [startRelease]

@[simp] theorem startFeed_stores (c : Ctx) (s : State) :
    (startFeed c s).teams.map numSpad = s.teams.map numSpad ∧ ∀ ce, engineMem (startFeed c s).cores ce = engineMem s.cores ce := by
  simp [startFeed]

@[simp] theorem startFeeda_stores (c : Ctx) (s : State) :
    (startFeeda c s).teams.map numSpad = s.teams.map numSpad ∧ ∀ ce, engineMem (startFeeda c s).cores ce = engineMem s.cores ce := by
  simp [startFeeda]

@[simp] theorem enterIter_stores (c : Ctx) (s : State) :
    (enterIter c s).teams.map numSpad = s.teams.map numSpad ∧ ∀ ce, engineMem (enterIter c s).cores ce = engineMem s.cores ce := by
  simp [enterIter]

theorem pendFor_stores (s : State) (c : Ctx) (cmd : CopyCmd) {t : State} (h : pendFor s c cmd = some t) :
    t.teams.map numSpad = s.teams.map numSpad ∧ ∀ ce, engineMem t.cores ce = engineMem s.cores ce := by
  unfold pendFor at h
  split at h
  · simp only [Option.some.injEq] at h; simp [← h]
  · exact addPend_stores _ _ _ _ h

@[simp] theorem enterCmd_stores (c : Ctx) (cmd : CopyCmd) (gs : List Guard) (slots : List Nat) (s1 : State) :
    (enterCmd c cmd gs slots s1).teams.map numSpad = s1.teams.map numSpad ∧ ∀ ce, engineMem (enterCmd c cmd gs slots s1).cores ce = engineMem s1.cores ce := by
  unfold enterCmd; dsimp only
  have h := foldl_stores (g := fun st o => addFd st c.g.core o true) (fun x a => by simp) slots
    (updCore { s1 with cmds := s1.cmds ++ [cmd] } c.g.core (fun x => { x with guards := x.guards ++ gs }))
  exact ⟨h.1.trans (by simp), fun ce => (h.2 ce).trans (by simp)⟩

@[simp] theorem subPend_stores (s : State) (c : CopyCmd) (n : Nat) :
    (subPend s c n).teams.map numSpad = s.teams.map numSpad ∧ ∀ ce, engineMem (subPend s c n).cores ce = engineMem s.cores ce := by
  unfold subPend; split <;> simp

@[simp] theorem freeCmd_stores (s : State) (c : CopyCmd) :
    (freeCmd s c).teams.map numSpad = s.teams.map numSpad ∧ ∀ ce, engineMem (freeCmd s c).cores ce = engineMem s.cores ce := by
  unfold freeCmd; dsimp only
  split <;> simp

@[simp] theorem endCmds_stores (s : State) (uid eng : Nat) (cs : List CopyCmd) :
    (endCmds s uid eng cs).teams.map numSpad = s.teams.map numSpad ∧ ∀ ce, engineMem (endCmds s uid eng cs).cores ce = engineMem s.cores ce := by
  simp [endCmds]

@[simp] theorem cancelCmds_stores (c : Ctx) (s : State) :
    (cancelCmds c s).teams.map numSpad = s.teams.map numSpad ∧ ∀ ce, engineMem (cancelCmds c s).cores ce = engineMem s.cores ce := by
  simp [cancelCmds]

@[simp] theorem tellMembers_stores (s : State) (part comm : Nat) (b : FrameBody) :
    (tellMembers s part comm b).teams.map numSpad = s.teams.map numSpad ∧ ∀ ce, engineMem (tellMembers s part comm b).cores ce = engineMem s.cores ce := by
  unfold tellMembers
  (repeat' split) <;> exact foldl_stores (fun x a => by (repeat' split) <;> simp) _ _

@[simp] theorem promReq_stores (s : State) (f : Flight) (ask : Ask) (va pa from_ : Nat) :
    (promReq s f ask va pa from_).teams.map numSpad = s.teams.map numSpad ∧ ∀ ce, engineMem (promReq s f ask va pa from_).cores ce = engineMem s.cores ce := by
  simp [promReq]

@[simp] theorem cellWrite_stores (s : State) (r : Req) (k : Nat) :
    (cellWrite s r k).teams.map numSpad = s.teams.map numSpad ∧ ∀ ce, engineMem (cellWrite s r k).cores ce = engineMem s.cores ce := by
  unfold cellWrite; split <;> simp

@[simp] theorem promWrite_stores (s : State) (f : Flight) (va pa off : Nat) (bs : List Byte) (wait : Bool) (k : Nat) :
    (promWrite s f va pa off bs wait k).teams.map numSpad = s.teams.map numSpad ∧ ∀ ce, engineMem (promWrite s f va pa off bs wait k).cores ce = engineMem s.cores ce := by
  unfold promWrite; dsimp only; (repeat' split) <;> simp

@[simp] theorem promUnlock_stores (s : State) (f : Flight) (va pa : Nat) (wait : Bool) :
    (promUnlock s f va pa wait).teams.map numSpad = s.teams.map numSpad ∧ ∀ ce, engineMem (promUnlock s f va pa wait).cores ce = engineMem s.cores ce := by
  simp [promUnlock]

@[simp] theorem releaseLocks_stores (s : State) (f : Flight) (wait : Bool) :
    (releaseLocks s f wait).teams.map numSpad = s.teams.map numSpad ∧ ∀ ce, engineMem (releaseLocks s f wait).cores ce = engineMem s.cores ce := by
  unfold releaseLocks
  exact foldl_stores (fun x a => by split <;> simp) _ _

@[simp] theorem endUnflagged_stores (s : State) (f : Flight) :
    (endUnflagged s f).teams.map numSpad = s.teams.map numSpad ∧ ∀ ce, engineMem (endUnflagged s f).cores ce = engineMem s.cores ce := by
  simp [endUnflagged]

@[simp] theorem promFault_stores (s : State) (f : Flight) (code detail addr : Nat) :
    (promFault s f code detail addr).teams.map numSpad = s.teams.map numSpad ∧ ∀ ce, engineMem (promFault s f code detail addr).cores ce = engineMem s.cores ce := by
  simp [promFault]

@[simp] theorem visitAt_stores (s : State) (f : Flight) (va from_ : Nat) (step : PromStep) :
    (visitAt s f va from_ step).teams.map numSpad = s.teams.map numSpad ∧ ∀ ce, engineMem (visitAt s f va from_ step).cores ce = engineMem s.cores ce := by
  unfold visitAt; split <;> simp

@[simp] theorem sendVisit_stores (s : State) (f : Flight) (va n from_ : Nat) (step : PromStep) :
    (sendVisit s f va n from_ step).teams.map numSpad = s.teams.map numSpad ∧ ∀ ce, engineMem (sendVisit s f va n from_ step).cores ce = engineMem s.cores ce := by
  unfold sendVisit; (repeat' split) <;> simp

@[simp] theorem resumeVisit_stores (s : State) (f : Flight) :
    (resumeVisit s f).teams.map numSpad = s.teams.map numSpad ∧ ∀ ce, engineMem (resumeVisit s f).cores ce = engineMem s.cores ce := by
  unfold resumeVisit; split <;> simp

@[simp] theorem startFind_stores (s : State) (f : Flight) (from_ : Nat) :
    (startFind s f from_).teams.map numSpad = s.teams.map numSpad ∧ ∀ ce, engineMem (startFind s f from_).cores ce = engineMem s.cores ce := by
  simp [startFind]

@[simp] theorem finishPromise_stores (s : State) (f : Flight) :
    (finishPromise s f).teams.map numSpad = s.teams.map numSpad ∧ ∀ ce, engineMem (finishPromise s f).cores ce = engineMem s.cores ce := by
  unfold finishPromise; dsimp only
  split
  · rename_i h; exact onceFaults_stores _ _ h
  · split
    · simp
    · split <;> simp

@[simp] theorem start_finishPromise_stores (s : State) (f : Flight) :
    (advanceOn finishPromise s f).teams.map numSpad = s.teams.map numSpad ∧ ∀ k, engineMem (advanceOn finishPromise s f).cores k = engineMem s.cores k :=
  advanceOn_stores (fun s => finishPromise_stores s f) s

@[simp] theorem startPromise_stores (c : Ctx) (s : State) :
    (startPromise c s).teams.map numSpad = s.teams.map numSpad ∧ ∀ ce, engineMem (startPromise c s).cores ce = engineMem s.cores ce := by
  unfold startPromise; dsimp only
  split <;> simp

@[simp] theorem freeXfer_stores (s : State) (core : Nat) :
    (freeXfer s core).teams.map numSpad = s.teams.map numSpad ∧ ∀ ce, engineMem (freeXfer s core).cores ce = engineMem s.cores ce := by
  simp [freeXfer]

theorem linkFaults_stores (s : State) (f : Flight) {t : State} (h : linkFaults s f = some t) :
    t.teams.map numSpad = s.teams.map numSpad ∧ ∀ ce, engineMem t.cores ce = engineMem s.cores ce := by
  unfold linkFaults at h; dsimp only at h
  split at h
  · cases h
  · simp only [Option.some.injEq] at h; subst h; (repeat' split) <;> simp

@[simp] theorem updColl_stores (s : State) (part comm k time : Nat) (u : Coll → Coll) :
    (updColl s part comm k time u).teams.map numSpad = s.teams.map numSpad ∧ ∀ ce, engineMem (updColl s part comm k time u).cores ce = engineMem s.cores ce := by
  unfold updColl; split <;> simp

@[simp] theorem noteBrought_stores (s : State) (part comm k : Nat) (b : Brought) :
    (noteBrought s part comm k b).teams.map numSpad = s.teams.map numSpad ∧ ∀ ce, engineMem (noteBrought s part comm k b).cores ce = engineMem s.cores ce := by
  unfold noteBrought; (repeat' split) <;> simp

@[simp] theorem acceptColl_stores (s : State) (f : Flight) (shape : DWord) :
    (acceptColl s f shape).teams.map numSpad = s.teams.map numSpad ∧ ∀ ce, engineMem (acceptColl s f shape).cores ce = engineMem s.cores ce := by
  unfold acceptColl; dsimp only
  split <;> simp [noteBrought_stores]

@[simp] theorem numberColls_stores (s : State) :
    (numberColls s).teams.map numSpad = s.teams.map numSpad ∧ ∀ ce, engineMem (numberColls s).cores ce = engineMem s.cores ce := by
  simp [numberColls]

@[simp] theorem finishLink_stores (s : State) (f : Flight) :
    (finishLink s f).teams.map numSpad = s.teams.map numSpad ∧ ∀ ce, engineMem (finishLink s f).cores ce = engineMem s.cores ce := by
  have ht : (takeOwn s f).teams.map numSpad = s.teams.map numSpad ∧
      ∀ ce, engineMem (takeOwn s f).cores ce = engineMem s.cores ce := by simp
  unfold finishLink; dsimp only
  split
  · rename_i h
    have h1 := linkFaults_stores _ _ h
    exact ⟨h1.1.trans ht.1, fun ce => (h1.2 ce).trans (ht.2 ce)⟩
  · split
    · simp
    · split
      · simp
      · split
        · simp
        · rename_i s1 h
          have hb : s1.teams.map numSpad = s.teams.map numSpad ∧ ∀ k, engineMem s1.cores k = engineMem s.cores k := by
            split at h
            · have h1 := addPend_stores _ _ _ _ h
              exact ⟨h1.1.trans ht.1, fun ce => (h1.2 ce).trans (ht.2 ce)⟩
            · simp only [Option.some.injEq] at h; subst h; exact ht
          (repeat' split) <;> simp [hb]

@[simp] theorem start_finishLink_stores (s : State) (f : Flight) :
    (advanceOn finishLink s f).teams.map numSpad = s.teams.map numSpad ∧ ∀ k, engineMem (advanceOn finishLink s f).cores k = engineMem s.cores k :=
  advanceOn_stores (fun s => finishLink_stores s f) s

@[simp] theorem startLink_stores (c : Ctx) (s : State) :
    (startLink c s).teams.map numSpad = s.teams.map numSpad ∧ ∀ ce, engineMem (startLink c s).cores ce = engineMem s.cores ce := by
  unfold startLink; dsimp only
  simp

@[simp] theorem sampleTick_stores (before : Nat) (s : State) :
    (sampleTick before s).teams.map numSpad = s.teams.map numSpad ∧ ∀ ce, engineMem (sampleTick before s).cores ce = engineMem s.cores ce := by
  simp [sampleTick]

@[simp] theorem restartWalk_stores (part : Nat) (st : State) (w : Walk) :
    (restartWalk part st w).teams.map numSpad = st.teams.map numSpad ∧ ∀ ce, engineMem (restartWalk part st w).cores ce = engineMem st.cores ce := by
  simp [restartWalk]

@[simp] theorem vecPut_stores (c : Ctx) (lat t : Nat) (f : Nat → Nat) (s : State) :
    (vecPut c lat t f s).teams.map numSpad = s.teams.map numSpad ∧ ∀ ce, engineMem (vecPut c lat t f s).cores ce = engineMem s.cores ce := by
  simp [vecPut]

@[simp] theorem elemPut_stores (c : Ctx) (lat w : Nat) (f : Nat → List (Nat × Nat)) (s : State) :
    (elemPut c lat w f s).teams.map numSpad = s.teams.map numSpad ∧ ∀ ce, engineMem (elemPut c lat w f s).cores ce = engineMem s.cores ce := by
  simp [elemPut]

@[simp] theorem convertLanes_stores (c : Ctx) (s : State) :
    (convertLanes c s).teams.map numSpad = s.teams.map numSpad ∧ ∀ ce, engineMem (convertLanes c s).cores ce = engineMem s.cores ce := by
  simp [convertLanes]

@[simp] theorem insertLane_stores (c : Ctx) (s : State) :
    (insertLane c s).teams.map numSpad = s.teams.map numSpad ∧ ∀ ce, engineMem (insertLane c s).cores ce = engineMem s.cores ce := by
  simp [insertLane]

@[simp] theorem raiseHurt_stores (t : State) (c : Ctx) (lanes : Word) :
    (raiseHurt t c lanes).teams.map numSpad = t.teams.map numSpad ∧ ∀ ce, engineMem (raiseHurt t c lanes).cores ce = engineMem t.cores ce := by
  simp [raiseHurt]

@[simp] theorem countCorrected_stores (s : State) (die unit : Nat) :
    (countCorrected s die unit).teams.map numSpad = s.teams.map numSpad ∧ ∀ ce, engineMem (countCorrected s die unit).cores ce = engineMem s.cores ce := by
  simp [countCorrected]


end Sys2Proof.Machine
end

