-- ==== Sys2Proof/Laws/Own.lean ====
section
/-!
SUPPORT. What an instruction's own effect at its issue leaves alone: the registers of every group, device memory and the
code stores, the scratchpads, and what the matrix engines hold.
-/
namespace Sys2Proof.Machine

theorem pairCheck_error {s t : State} {c : Ctx} {v : Verdict} (h : pairCheck s c = .error v) (e : v = .act t) : False := by
  subst e; unfold pairCheck at h; dsimp only [mraise] at h; repeat' split at h
  all_goals simp at h

theorem gangBlocks_error {s t : State} {c : Ctx} {v : Verdict} (h : gangBlocks s c = .error v) (e : v = .act t) : False := by
  unfold gangBlocks at h
  repeat' split at h
  all_goals first | (cases h; done) | exact pairCheck_error h e

theorem advanceOn_at {fin : State → Flight → State} {s : State} {f : Flight} (h : (fin s f).mem = s.mem ∧ (fin s f).codes = s.codes) :
    (advanceOn fin s f).mem = s.mem ∧ (advanceOn fin s f).codes = s.codes := by
  unfold advanceOn
  split
  · exact ⟨rfl, rfl⟩
  · dsimp only
    split
    · split
      · exact ⟨rfl, rfl⟩
      · exact h
    · exact foldl_bytes (fun st p => by split <;> simp) _ _

theorem sendVisit_unlocked {f : Flight} (h : f.locks = []) (s : State) (va n from_ : Nat) (step : PromStep) :
    (sendVisit s f va n from_ step).mem = s.mem ∧ (sendVisit s f va n from_ step).codes = s.codes := by
  have e : ∀ st : State, releaseLocks st f false = st := fun st => by simp [releaseLocks, h]
  unfold sendVisit visitAt promFault; (repeat' split) <;> simp [e]

theorem finishPromise_unlocked {f : Flight} (h : f.locks = []) (s : State) :
    (finishPromise s f).mem = s.mem ∧ (finishPromise s f).codes = s.codes := by
  unfold finishPromise; dsimp only
  split
  · rename_i h1; exact onceFaults_bytes _ _ h1
  · split
    · simp
    · split
      · simp
      · unfold startFind
        have := sendVisit_unlocked (f := { f with sent := true }) h (updFlight s f.id (fun x => { x with sent := true }))
          (findTarget { f with sent := true }) 1 (coreSector (flightCore s f)) (.visitX (findTarget { f with sent := true }) 1)
        simpa using this

/-- A promise instruction writes nothing as it issues: it holds no lock yet. -/
theorem startPromise_bytes (c : Ctx) (s : State) : (startPromise c s).mem = s.mem ∧ (startPromise c s).codes = s.codes := by
  unfold startPromise; dsimp only
  have h := fun st f hl => advanceOn_at (finishPromise_unlocked (f := f) hl st)
  split <;> (refine ⟨(h _ _ rfl).1.trans ?_, (h _ _ rfl).2.trans ?_⟩ <;> simp)

theorem ownArrive_keeps {sync : Bool} {c : Ctx} {s t : State} (h : ownArrive sync c s = .act t) :
    sameRegs s t ∧ sameBytes s t ∧ sameSpads s t ∧ sameEngines s t := by
  simp only [ownArrive] at h
  repeat' split at h
  all_goals first
    | (cases h; done)
    | (injection h with h; subst h; simp [sameRegs, sameBytes, sameSpads, sameEngines]; done)

theorem ownBarWait_keeps {c : Ctx} {s t : State} (h : ownBarWait c s = .act t) :
    sameRegs s t ∧ sameBytes s t ∧ sameSpads s t ∧ sameEngines s t := by
  simp only [ownBarWait] at h
  repeat' split at h
  all_goals first
    | (cases h; done)
    | (injection h with h; subst h; simp [sameRegs, sameBytes, sameSpads, sameEngines]; done)

theorem ownBarDrop_keeps {c : Ctx} {s t : State} (h : ownBarDrop c s = .act t) :
    sameRegs s t ∧ sameBytes s t ∧ sameSpads s t ∧ sameEngines s t := by
  simp only [ownBarDrop] at h
  repeat' split at h
  all_goals first
    | (cases h; done)
    | (injection h with h; subst h; simp [sameRegs, sameBytes, sameSpads, sameEngines]; done)

theorem ownBarTest_keeps {c : Ctx} {s t : State} (h : ownBarTest c s = .act t) :
    sameRegs s t ∧ sameBytes s t ∧ sameSpads s t ∧ sameEngines s t := by
  simp only [ownBarTest, scWrite] at h
  repeat' split at h
  all_goals first
    | (cases h; done)
    | (injection h with h; subst h; simp [sameRegs, sameBytes, sameSpads, sameEngines]; done)

theorem ownBarAdd_keeps {c : Ctx} {s t : State} (h : ownBarAdd c s = .act t) :
    sameRegs s t ∧ sameBytes s t ∧ sameSpads s t ∧ sameEngines s t := by
  simp only [ownBarAdd] at h
  repeat' split at h
  all_goals first
    | (cases h; done)
    | (injection h with h; subst h; rename_i he; simp [sameRegs, sameBytes, sameSpads, sameEngines, addPend_regs _ _ _ _ he, addPend_bytes _ _ _ _ he, addPend_stores _ _ _ _ he])

theorem ownQpush_keeps {c : Ctx} {s t : State} (h : ownQpush c s = .act t) :
    sameRegs s t ∧ sameBytes s t ∧ sameSpads s t ∧ sameEngines s t := by
  simp only [ownQpush, pushValues] at h
  repeat' split at h
  all_goals first
    | (cases h; done)
    | (injection h with h; subst h; simp [sameRegs, sameBytes, sameSpads, sameEngines]; done)

theorem ownQpop_keeps {c : Ctx} {s t : State} (h : ownQpop c s = .act t) :
    sameRegs s t ∧ sameBytes s t ∧ sameSpads s t ∧ sameEngines s t := by
  simp only [ownQpop, popValues] at h
  repeat' split at h
  all_goals first
    | (cases h; done)
    | (injection h with h; subst h; simp [sameRegs, sameBytes, sameSpads, sameEngines]; done)

theorem ownQpushn_keeps {c : Ctx} {s t : State} (h : ownQpushn c s = .act t) :
    sameRegs s t ∧ sameBytes s t ∧ sameSpads s t ∧ sameEngines s t := by
  simp only [ownQpushn, pushValues] at h
  repeat' split at h
  all_goals first
    | (cases h; done)
    | (injection h with h; subst h; simp [sameRegs, sameBytes, sameSpads, sameEngines]; done)

theorem ownQpopn_keeps {c : Ctx} {s t : State} (h : ownQpopn c s = .act t) :
    sameRegs s t ∧ sameBytes s t ∧ sameSpads s t ∧ sameEngines s t := by
  simp only [ownQpopn, popValues] at h
  repeat' split at h
  all_goals first
    | (cases h; done)
    | (injection h with h; subst h; simp [sameRegs, sameBytes, sameSpads, sameEngines]; done)

theorem ownQlen_keeps {c : Ctx} {s t : State} (h : ownQlen c s = .act t) :
    sameRegs s t ∧ sameBytes s t ∧ sameSpads s t ∧ sameEngines s t := by
  simp only [ownQlen, scWrite] at h
  injection h with h; subst h; simp [sameRegs, sameBytes, sameSpads, sameEngines]

theorem ownQpeek_keeps {c : Ctx} {s t : State} (h : ownQpeek c s = .act t) :
    sameRegs s t ∧ sameBytes s t ∧ sameSpads s t ∧ sameEngines s t := by
  simp only [ownQpeek, scWrite] at h
  repeat' split at h
  all_goals first
    | (cases h; done)
    | (injection h with h; subst h; simp [sameRegs, sameBytes, sameSpads, sameEngines]; done)

theorem ownNop_keeps {c : Ctx} {s t : State} (h : ownNop c s = .act t) :
    sameRegs s t ∧ sameBytes s t ∧ sameSpads s t ∧ sameEngines s t := by
  simp only [ownNop] at h
  injection h with h; subst h; simp [sameRegs, sameBytes, sameSpads, sameEngines]

theorem ownBranch_keeps {cond : DWord → Bool} {c : Ctx} {s t : State} (h : ownBranch cond c s = .act t) :
    sameRegs s t ∧ sameBytes s t ∧ sameSpads s t ∧ sameEngines s t := by
  simp only [ownBranch] at h
  injection h with h; subst h; simp [sameRegs, sameBytes, sameSpads, sameEngines]

theorem ownBr_keeps {c : Ctx} {s t : State} (h : ownBr c s = .act t) :
    sameRegs s t ∧ sameBytes s t ∧ sameSpads s t ∧ sameEngines s t := by
  simp only [ownBr, ownBranch] at h
  injection h with h; subst h; simp [sameRegs, sameBytes, sameSpads, sameEngines]

theorem ownBrZ_keeps {c : Ctx} {s t : State} (h : ownBrZ c s = .act t) :
    sameRegs s t ∧ sameBytes s t ∧ sameSpads s t ∧ sameEngines s t := by
  simp only [ownBrZ, ownBranch] at h
  injection h with h; subst h; simp [sameRegs, sameBytes, sameSpads, sameEngines]

theorem ownBrNz_keeps {c : Ctx} {s t : State} (h : ownBrNz c s = .act t) :
    sameRegs s t ∧ sameBytes s t ∧ sameSpads s t ∧ sameEngines s t := by
  simp only [ownBrNz, ownBranch] at h
  injection h with h; subst h; simp [sameRegs, sameBytes, sameSpads, sameEngines]

theorem ownBrLz_keeps {c : Ctx} {s t : State} (h : ownBrLz c s = .act t) :
    sameRegs s t ∧ sameBytes s t ∧ sameSpads s t ∧ sameEngines s t := by
  simp only [ownBrLz, ownBranch] at h
  injection h with h; subst h; simp [sameRegs, sameBytes, sameSpads, sameEngines]

theorem ownBrGez_keeps {c : Ctx} {s t : State} (h : ownBrGez c s = .act t) :
    sameRegs s t ∧ sameBytes s t ∧ sameSpads s t ∧ sameEngines s t := by
  simp only [ownBrGez, ownBranch] at h
  injection h with h; subst h; simp [sameRegs, sameBytes, sameSpads, sameEngines]

theorem ownBrMask_keeps {all : Bool} {c : Ctx} {s t : State} (h : ownBrMask all c s = .act t) :
    sameRegs s t ∧ sameBytes s t ∧ sameSpads s t ∧ sameEngines s t := by
  simp only [ownBrMask] at h
  injection h with h; subst h; simp [sameRegs, sameBytes, sameSpads, sameEngines]

theorem ownIndirect_keeps {c : Ctx} {s t : State} (h : ownIndirect c s = .act t) :
    sameRegs s t ∧ sameBytes s t ∧ sameSpads s t ∧ sameEngines s t := by
  simp only [ownIndirect] at h
  injection h with h; subst h; simp [sameRegs, sameBytes, sameSpads, sameEngines]

theorem ownCall_keeps {c : Ctx} {s t : State} (h : ownCall c s = .act t) :
    sameRegs s t ∧ sameBytes s t ∧ sameSpads s t ∧ sameEngines s t := by
  simp only [ownCall] at h
  injection h with h; subst h; simp [sameRegs, sameBytes, sameSpads, sameEngines]

theorem ownCallx_keeps {c : Ctx} {s t : State} (h : ownCallx c s = .act t) :
    sameRegs s t ∧ sameBytes s t ∧ sameSpads s t ∧ sameEngines s t := by
  simp only [ownCallx] at h
  injection h with h; subst h; simp [sameRegs, sameBytes, sameSpads, sameEngines]

theorem ownExit_keeps {c : Ctx} {s t : State} (h : ownExit c s = .act t) :
    sameRegs s t ∧ sameBytes s t ∧ sameSpads s t ∧ sameEngines s t := by
  simp only [ownExit] at h
  repeat' split at h
  all_goals first
    | (cases h; done)
    | (injection h with h; subst h; simp [sameRegs, sameBytes, sameSpads, sameEngines]; done)

theorem ownYield_keeps {c : Ctx} {s t : State} (h : ownYield c s = .act t) :
    sameRegs s t ∧ sameBytes s t ∧ sameSpads s t ∧ sameEngines s t := by
  simp only [ownYield] at h
  injection h with h; subst h; simp [sameRegs, sameBytes, sameSpads, sameEngines]

theorem ownSplit_keeps {c : Ctx} {s t : State} (h : ownSplit c s = .act t) :
    sameRegs s t ∧ sameBytes s t ∧ sameSpads s t ∧ sameEngines s t := by
  simp only [ownSplit] at h
  injection h with h; subst h; simp [sameRegs, sameBytes, sameSpads, sameEngines]

theorem ownSleep_keeps {c : Ctx} {s t : State} (h : ownSleep c s = .act t) :
    sameRegs s t ∧ sameBytes s t ∧ sameSpads s t ∧ sameEngines s t := by
  simp only [ownSleep] at h
  injection h with h; subst h; simp [sameRegs, sameBytes, sameSpads, sameEngines]

theorem ownCallv_keeps {c : Ctx} {s t : State} (h : ownCallv c s = .act t) :
    sameRegs s t ∧ sameBytes s t ∧ sameSpads s t ∧ sameEngines s t := by
  simp only [ownCallv] at h
  repeat' split at h
  all_goals first
    | (cases h; done)
    | (injection h with h; subst h; simp [sameRegs, sameBytes, sameSpads, sameEngines]; done)

theorem ownRetv_keeps {c : Ctx} {s t : State} (h : ownRetv c s = .act t) :
    sameRegs s t ∧ sameBytes s t ∧ sameSpads s t ∧ sameEngines s t := by
  simp only [ownRetv] at h
  repeat' split at h
  all_goals first
    | (cases h; done)
    | (injection h with h; subst h; simp [sameRegs, sameBytes, sameSpads, sameEngines]; done)

theorem ownCopy_keeps {c : Ctx} {s t : State} (h : ownCopy c s = .act t) :
    sameRegs s t ∧ sameBytes s t ∧ sameSpads s t ∧ sameEngines s t := by
  simp only [ownCopy, takeCmd] at h
  repeat' split at h
  all_goals first
    | (cases h; done)
    | (injection h with h; subst h; simp [sameRegs, sameBytes, sameSpads, sameEngines]; done)
    | (injection h with h; subst h; rename_i he _; simp [sameRegs, sameBytes, sameSpads, sameEngines, pendFor_regs _ _ _ he, pendFor_bytes _ _ _ he, pendFor_stores _ _ _ he])

theorem ownXslot_keeps {c : Ctx} {s t : State} (h : ownXslot c s = .act t) :
    sameRegs s t ∧ sameBytes s t ∧ sameSpads s t ∧ sameEngines s t := by
  simp only [ownXslot, takeCmd] at h
  repeat' split at h
  all_goals first
    | (cases h; done)
    | (injection h with h; subst h; simp [sameRegs, sameBytes, sameSpads, sameEngines]; done)
    | (injection h with h; subst h; rename_i he _; simp [sameRegs, sameBytes, sameSpads, sameEngines, pendFor_regs _ _ _ he, pendFor_bytes _ _ _ he, pendFor_stores _ _ _ he])

theorem ownXprf_keeps {c : Ctx} {s t : State} (h : ownXprf c s = .act t) :
    sameRegs s t ∧ sameBytes s t ∧ sameSpads s t ∧ sameEngines s t := by
  simp only [ownXprf, takeCmd] at h
  repeat' split at h
  all_goals first
    | (cases h; done)
    | (injection h with h; subst h; simp [sameRegs, sameBytes, sameSpads, sameEngines]; done)
    | (injection h with h; subst h; rename_i he _; simp [sameRegs, sameBytes, sameSpads, sameEngines, pendFor_regs _ _ _ he, pendFor_bytes _ _ _ he, pendFor_stores _ _ _ he])

theorem ownXhand_keeps {c : Ctx} {s t : State} (h : ownXhand c s = .act t) :
    sameRegs s t ∧ sameBytes s t ∧ sameSpads s t ∧ sameEngines s t := by
  simp only [ownXhand, takeCmd] at h
  repeat' split at h
  all_goals first
    | (cases h; done)
    | (injection h with h; subst h; simp [sameRegs, sameBytes, sameSpads, sameEngines]; done)
    | (injection h with h; subst h; rename_i he _; simp [sameRegs, sameBytes, sameSpads, sameEngines, pendFor_regs _ _ _ he, pendFor_bytes _ _ _ he, pendFor_stores _ _ _ he])

theorem ownXstat_keeps {c : Ctx} {s t : State} (h : ownXstat c s = .act t) :
    sameRegs s t ∧ sameBytes s t ∧ sameSpads s t ∧ sameEngines s t := by
  simp only [ownXstat, scWrite] at h
  injection h with h; subst h; simp [sameRegs, sameBytes, sameSpads, sameEngines]

theorem ownXcancel_keeps {c : Ctx} {s t : State} (h : ownXcancel c s = .act t) :
    sameRegs s t ∧ sameBytes s t ∧ sameSpads s t ∧ sameEngines s t := by
  simp only [ownXcancel] at h
  injection h with h; subst h; simp [sameRegs, sameBytes, sameSpads, sameEngines]

theorem ownMmac_keeps {c : Ctx} {s t : State} (h : ownMmac c s = .act t) :
    sameRegs s t ∧ sameBytes s t ∧ sameSpads s t ∧ sameEngines s t := by
  simp only [ownMmac, arrayIssue, mraise, wholeGroup] at h
  repeat' split at h
  all_goals first
    | exact (pairCheck_error (by assumption) h).elim
    | (cases h; done)
    | (injection h with h; subst h; simp [sameRegs, sameBytes, sameSpads, sameEngines]; done)

theorem ownMgmac_keeps {c : Ctx} {s t : State} (h : ownMgmac c s = .act t) :
    sameRegs s t ∧ sameBytes s t ∧ sameSpads s t ∧ sameEngines s t := by
  simp only [ownMgmac, arrayIssue, ganged, mraise, wholeGroup] at h
  repeat' split at h
  all_goals first
    | exact (gangBlocks_error (by assumption) h).elim
    | (cases h; done)
    | (injection h with h; subst h; simp [sameRegs, sameBytes, sameSpads, sameEngines]; done)
    | (injection h with h; subst h; rename_i he; split at he <;> first | (cases he; done) | (injection he with he; subst he; simp [sameRegs, sameBytes, sameSpads, sameEngines]) | (split at he <;> first | (cases he; done) | (injection he with he; subst he; simp [sameRegs, sameBytes, sameSpads, sameEngines])))

theorem ownMmaci_keeps {c : Ctx} {s t : State} (h : ownMmaci c s = .act t) :
    sameRegs s t ∧ sameBytes s t ∧ sameSpads s t ∧ sameEngines s t := by
  simp only [ownMmaci, arrayIssue, mraise, wholeGroup] at h
  repeat' split at h
  all_goals first
    | (cases h; done)
    | (injection h with h; subst h; simp [sameRegs, sameBytes, sameSpads, sameEngines]; done)

theorem ownMclaim_keeps {c : Ctx} {s t : State} (h : ownMclaim c s = .act t) :
    sameRegs s t ∧ sameBytes s t ∧ sameSpads s t ∧ sameEngines s t := by
  simp only [ownMclaim, wholeGroup] at h
  repeat' split at h
  all_goals first
    | (cases h; done)
    | (injection h with h; subst h; simp [sameRegs, sameBytes, sameSpads, sameEngines]; done)

theorem ownMrel_keeps {c : Ctx} {s t : State} (h : ownMrel c s = .act t) :
    sameRegs s t ∧ sameBytes s t ∧ sameSpads s t ∧ sameEngines s t := by
  simp only [ownMrel, mraise, wholeGroup] at h
  repeat' split at h
  all_goals first
    | (cases h; done)
    | (injection h with h; subst h; simp [sameRegs, sameBytes, sameSpads, sameEngines]; done)

theorem ownMfeed_keeps {c : Ctx} {s t : State} (h : ownMfeed c s = .act t) :
    sameRegs s t ∧ sameBytes s t ∧ sameSpads s t ∧ sameEngines s t := by
  simp only [ownMfeed, mraise, wholeGroup] at h
  repeat' split at h
  all_goals first
    | (cases h; done)
    | (injection h with h; subst h; simp [sameRegs, sameBytes, sameSpads, sameEngines]; done)

theorem ownMfeeda_keeps {c : Ctx} {s t : State} (h : ownMfeeda c s = .act t) :
    sameRegs s t ∧ sameBytes s t ∧ sameSpads s t ∧ sameEngines s t := by
  simp only [ownMfeeda, mraise, wholeGroup] at h
  repeat' split at h
  all_goals first
    | (cases h; done)
    | (injection h with h; subst h; simp [sameRegs, sameBytes, sameSpads, sameEngines]; done)

theorem ownXfer_keeps {write : Bool} {c : Ctx} {s t : State} (h : ownXfer write c s = .act t) :
    sameRegs s t ∧ sameBytes s t ∧ sameSpads s t ∧ sameEngines s t := by
  simp only [ownXfer, arrayIssue, wholeGroup] at h
  repeat' split at h
  all_goals first
    | (cases h; done)
    | (injection h with h; subst h; simp [sameRegs, sameBytes, sameSpads, sameEngines]; done)

theorem ownMsmx_keeps {c : Ctx} {s t : State} (h : ownMsmx c s = .act t) :
    sameRegs s t ∧ sameBytes s t ∧ sameSpads s t ∧ sameEngines s t := by
  simp only [ownMsmx, arrayIssue, mraise, wholeGroup] at h
  repeat' split at h
  all_goals first
    | (cases h; done)
    | (injection h with h; subst h; simp [sameRegs, sameBytes, sameSpads, sameEngines]; done)

theorem ownPlainArray_keeps {c : Ctx} {s t : State} (h : ownPlainArray c s = .act t) :
    sameRegs s t ∧ sameBytes s t ∧ sameSpads s t ∧ sameEngines s t := by
  simp only [ownPlainArray, arrayIssue, wholeGroup] at h
  repeat' split at h
  all_goals first
    | (cases h; done)
    | (injection h with h; subst h; simp [sameRegs, sameBytes, sameSpads, sameEngines]; done)

theorem ownMcoef_keeps {c : Ctx} {s t : State} (h : ownMcoef c s = .act t) :
    sameRegs s t ∧ sameBytes s t ∧ sameSpads s t ∧ sameEngines s t := by
  simp only [ownMcoef, arrayIssue, wholeGroup] at h
  repeat' split at h
  all_goals first
    | (cases h; done)
    | (injection h with h; subst h; simp [sameRegs, sameBytes, sameSpads, sameEngines]; done)

theorem ownIter_keeps {c : Ctx} {s t : State} (h : ownIter c s = .act t) :
    sameRegs s t ∧ sameBytes s t ∧ sameSpads s t ∧ sameEngines s t := by
  simp only [ownIter, ganged, mraise, wholeGroup] at h
  repeat' split at h
  all_goals first
    | (cases h; done)
    | (injection h with h; subst h; simp [sameRegs, sameBytes, sameSpads, sameEngines]; done)
    | (injection h with h; subst h; rename_i he; split at he <;> first | (cases he; done) | (injection he with he; subst he; simp [sameRegs, sameBytes, sameSpads, sameEngines]) | (split at he <;> first | (cases he; done) | (injection he with he; subst he; simp [sameRegs, sameBytes, sameSpads, sameEngines])))

theorem ownMgang_keeps {c : Ctx} {s t : State} (h : ownMgang c s = .act t) :
    sameRegs s t ∧ sameBytes s t ∧ sameSpads s t ∧ sameEngines s t := by
  simp only [ownMgang, arrayIssue, ganged, mraise, wholeGroup] at h
  repeat' split at h
  all_goals first
    | (cases h; done)
    | (injection h with h; subst h; simp [sameRegs, sameBytes, sameSpads, sameEngines]; done)
    | (injection h with h; subst h; rename_i he; split at he <;> first | (cases he; done) | (injection he with he; subst he; simp [sameRegs, sameBytes, sameSpads, sameEngines]) | (split at he <;> first | (cases he; done) | (injection he with he; subst he; simp [sameRegs, sameBytes, sameSpads, sameEngines])))

theorem ownMgleave_keeps {c : Ctx} {s t : State} (h : ownMgleave c s = .act t) :
    sameRegs s t ∧ sameBytes s t ∧ sameSpads s t ∧ sameEngines s t := by
  simp only [ownMgleave, arrayIssue, ganged, mraise, wholeGroup] at h
  repeat' split at h
  all_goals first
    | (cases h; done)
    | (injection h with h; subst h; simp [sameRegs, sameBytes, sameSpads, sameEngines]; done)
    | (injection h with h; subst h; rename_i he; split at he <;> first | (cases he; done) | (injection he with he; subst he; simp [sameRegs, sameBytes, sameSpads, sameEngines]) | (split at he <;> first | (cases he; done) | (injection he with he; subst he; simp [sameRegs, sameBytes, sameSpads, sameEngines])))

theorem ownSpadLoad_keeps {c : Ctx} {s t : State} (h : ownSpadLoad c s = .act t) :
    sameRegs s t ∧ sameBytes s t ∧ sameSpads s t ∧ sameEngines s t := by
  simp only [ownSpadLoad] at h
  repeat' split at h
  all_goals first
    | (cases h; done)
    | (injection h with h; subst h; simp [sameRegs, sameBytes, sameSpads, sameEngines]; done)

theorem ownSpadStore_keeps {c : Ctx} {s t : State} (h : ownSpadStore c s = .act t) :
    sameRegs s t ∧ sameBytes s t ∧ sameEngines s t := by
  unfold ownSpadStore at h
  split at h
  · exact absurd h (by simp)
  · rw [← Verdict.act.inj h]; simp [sameRegs, sameBytes, sameEngines]

theorem ownVldk_keeps {c : Ctx} {s t : State} (h : ownVldk c s = .act t) :
    sameRegs s t ∧ sameBytes s t ∧ sameSpads s t ∧ sameEngines s t := by
  simp only [ownVldk] at h
  repeat' split at h
  all_goals first
    | (cases h; done)
    | (injection h with h; subst h; simp [sameRegs, sameBytes, sameSpads, sameEngines]; done)

theorem ownVstk_keeps {c : Ctx} {s t : State} (h : ownVstk c s = .act t) :
    sameRegs s t ∧ sameBytes s t ∧ sameEngines s t := by
  simp only [ownVstk] at h
  repeat' split at h
  all_goals first
    | (cases h; done)
    | (injection h with h; subst h; simp [sameRegs, sameBytes, sameSpads, sameEngines]; done)

theorem ownVld_keeps {c : Ctx} {s t : State} (h : ownVld c s = .act t) :
    sameRegs s t ∧ sameBytes s t ∧ sameSpads s t ∧ sameEngines s t := by
  simp only [ownVld, globalOwn] at h
  repeat' split at h
  all_goals first
    | (cases h; done)
    | (injection h with h; subst h; exact ⟨startGlobal_regs (by simp) _ _ _ _, startGlobal_bytes .., (startGlobal_stores ..).1, (startGlobal_stores ..).2⟩)

theorem ownVldb_keeps {c : Ctx} {s t : State} (h : ownVldb c s = .act t) :
    sameRegs s t ∧ sameBytes s t ∧ sameSpads s t ∧ sameEngines s t := by
  simp only [ownVldb, globalOwn] at h
  repeat' split at h
  all_goals first
    | (cases h; done)
    | (injection h with h; subst h; exact ⟨startGlobal_regs (by simp) _ _ _ _, startGlobal_bytes .., (startGlobal_stores ..).1, (startGlobal_stores ..).2⟩)

theorem ownVldnf_keeps {c : Ctx} {s t : State} (h : ownVldnf c s = .act t) :
    sameBytes s t ∧ sameSpads s t ∧ sameEngines s t := by
  simp only [ownVldnf, globalOwn] at h
  repeat' split at h
  all_goals first
    | (cases h; done)
    | (injection h with h; subst h; exact ⟨startGlobal_bytes .., (startGlobal_stores ..).1, (startGlobal_stores ..).2⟩)

theorem ownVst_keeps {c : Ctx} {s t : State} (h : ownVst c s = .act t) :
    sameRegs s t ∧ sameBytes s t ∧ sameSpads s t ∧ sameEngines s t := by
  simp only [ownVst, globalOwn] at h
  repeat' split at h
  all_goals first
    | (cases h; done)
    | (injection h with h; subst h; exact ⟨startGlobal_regs (by simp) _ _ _ _, startGlobal_bytes .., (startGlobal_stores ..).1, (startGlobal_stores ..).2⟩)

theorem ownVprf_keeps {c : Ctx} {s t : State} (h : ownVprf c s = .act t) :
    sameRegs s t ∧ sameBytes s t ∧ sameSpads s t ∧ sameEngines s t := by
  simp only [ownVprf, globalOwn] at h
  repeat' split at h
  all_goals first
    | (cases h; done)
    | (injection h with h; subst h; exact ⟨startGlobal_regs (by simp) _ _ _ _, startGlobal_bytes .., (startGlobal_stores ..).1, (startGlobal_stores ..).2⟩)

theorem ownAtomic_keeps {c : Ctx} {s t : State} (h : ownAtomic c s = .act t) :
    sameRegs s t ∧ sameBytes s t ∧ sameSpads s t ∧ sameEngines s t := by
  simp only [ownAtomic, globalOwn] at h
  repeat' split at h
  all_goals first
    | (cases h; done)
    | (injection h with h; subst h; exact ⟨startGlobal_regs (by simp) _ _ _ _, startGlobal_bytes .., (startGlobal_stores ..).1, (startGlobal_stores ..).2⟩)

theorem ownReduce_keeps {c : Ctx} {s t : State} (h : ownReduce c s = .act t) :
    sameRegs s t ∧ sameBytes s t ∧ sameSpads s t ∧ sameEngines s t := by
  simp only [ownReduce, globalOwn] at h
  repeat' split at h
  all_goals first
    | (cases h; done)
    | (injection h with h; subst h; exact ⟨startGlobal_regs (by simp) _ _ _ _, startGlobal_bytes .., (startGlobal_stores ..).1, (startGlobal_stores ..).2⟩)

theorem ownFence_keeps {c : Ctx} {s t : State} (h : ownFence c s = .act t) :
    sameRegs s t ∧ sameBytes s t ∧ sameSpads s t ∧ sameEngines s t := by
  simp only [ownFence] at h
  injection h with h; subst h; simp [sameRegs, sameBytes, sameSpads, sameEngines]

theorem ownSadd_keeps {c : Ctx} {s t : State} (h : ownSadd c s = .act t) :
    sameRegs s t ∧ sameBytes s t ∧ sameSpads s t ∧ sameEngines s t := by
  simp only [ownSadd, scOp2, scWrite] at h
  injection h with h; subst h; simp [sameRegs, sameBytes, sameSpads, sameEngines]

theorem ownSsub_keeps {c : Ctx} {s t : State} (h : ownSsub c s = .act t) :
    sameRegs s t ∧ sameBytes s t ∧ sameSpads s t ∧ sameEngines s t := by
  simp only [ownSsub, scOp2, scWrite] at h
  injection h with h; subst h; simp [sameRegs, sameBytes, sameSpads, sameEngines]

theorem ownSmul_keeps {c : Ctx} {s t : State} (h : ownSmul c s = .act t) :
    sameRegs s t ∧ sameBytes s t ∧ sameSpads s t ∧ sameEngines s t := by
  simp only [ownSmul, scOp2, scWrite] at h
  injection h with h; subst h; simp [sameRegs, sameBytes, sameSpads, sameEngines]

theorem ownSmulh_keeps {c : Ctx} {s t : State} (h : ownSmulh c s = .act t) :
    sameRegs s t ∧ sameBytes s t ∧ sameSpads s t ∧ sameEngines s t := by
  simp only [ownSmulh, scOp2, scWrite] at h
  injection h with h; subst h; simp [sameRegs, sameBytes, sameSpads, sameEngines]

theorem ownSand_keeps {c : Ctx} {s t : State} (h : ownSand c s = .act t) :
    sameRegs s t ∧ sameBytes s t ∧ sameSpads s t ∧ sameEngines s t := by
  simp only [ownSand, scBits2, scWrite] at h
  injection h with h; subst h; simp [sameRegs, sameBytes, sameSpads, sameEngines]

theorem ownSor_keeps {c : Ctx} {s t : State} (h : ownSor c s = .act t) :
    sameRegs s t ∧ sameBytes s t ∧ sameSpads s t ∧ sameEngines s t := by
  simp only [ownSor, scBits2, scWrite] at h
  injection h with h; subst h; simp [sameRegs, sameBytes, sameSpads, sameEngines]

theorem ownSxor_keeps {c : Ctx} {s t : State} (h : ownSxor c s = .act t) :
    sameRegs s t ∧ sameBytes s t ∧ sameSpads s t ∧ sameEngines s t := by
  simp only [ownSxor, scBits2, scWrite] at h
  injection h with h; subst h; simp [sameRegs, sameBytes, sameSpads, sameEngines]

theorem ownSshl_keeps {c : Ctx} {s t : State} (h : ownSshl c s = .act t) :
    sameRegs s t ∧ sameBytes s t ∧ sameSpads s t ∧ sameEngines s t := by
  simp only [ownSshl, scBits2, scWrite] at h
  injection h with h; subst h; simp [sameRegs, sameBytes, sameSpads, sameEngines]

theorem ownSshr_keeps {c : Ctx} {s t : State} (h : ownSshr c s = .act t) :
    sameRegs s t ∧ sameBytes s t ∧ sameSpads s t ∧ sameEngines s t := by
  simp only [ownSshr, scWrite] at h
  injection h with h; subst h; simp [sameRegs, sameBytes, sameSpads, sameEngines]

theorem ownSmin_keeps {c : Ctx} {s t : State} (h : ownSmin c s = .act t) :
    sameRegs s t ∧ sameBytes s t ∧ sameSpads s t ∧ sameEngines s t := by
  simp only [ownSmin, scOp2, scWrite] at h
  injection h with h; subst h; simp [sameRegs, sameBytes, sameSpads, sameEngines]

theorem ownSmax_keeps {c : Ctx} {s t : State} (h : ownSmax c s = .act t) :
    sameRegs s t ∧ sameBytes s t ∧ sameSpads s t ∧ sameEngines s t := by
  simp only [ownSmax, scOp2, scWrite] at h
  injection h with h; subst h; simp [sameRegs, sameBytes, sameSpads, sameEngines]

theorem ownSdiv_keeps {c : Ctx} {s t : State} (h : ownSdiv c s = .act t) :
    sameRegs s t ∧ sameBytes s t ∧ sameSpads s t ∧ sameEngines s t := by
  simp only [ownSdiv, scOp2, scWrite] at h
  injection h with h; subst h; simp [sameRegs, sameBytes, sameSpads, sameEngines]

theorem ownSrem_keeps {c : Ctx} {s t : State} (h : ownSrem c s = .act t) :
    sameRegs s t ∧ sameBytes s t ∧ sameSpads s t ∧ sameEngines s t := by
  simp only [ownSrem, scOp2, scWrite] at h
  injection h with h; subst h; simp [sameRegs, sameBytes, sameSpads, sameEngines]

theorem ownSmov_keeps {c : Ctx} {s t : State} (h : ownSmov c s = .act t) :
    sameRegs s t ∧ sameBytes s t ∧ sameSpads s t ∧ sameEngines s t := by
  simp only [ownSmov, scOp2, scWrite] at h
  injection h with h; subst h; simp [sameRegs, sameBytes, sameSpads, sameEngines]

theorem ownSclz_keeps {c : Ctx} {s t : State} (h : ownSclz c s = .act t) :
    sameRegs s t ∧ sameBytes s t ∧ sameSpads s t ∧ sameEngines s t := by
  simp only [ownSclz, scWrite] at h
  injection h with h; subst h; simp [sameRegs, sameBytes, sameSpads, sameEngines]

theorem ownSpopc_keeps {c : Ctx} {s t : State} (h : ownSpopc c s = .act t) :
    sameRegs s t ∧ sameBytes s t ∧ sameSpads s t ∧ sameEngines s t := by
  simp only [ownSpopc, scWrite] at h
  injection h with h; subst h; simp [sameRegs, sameBytes, sameSpads, sameEngines]

theorem ownScmp_keeps {c : Ctx} {s t : State} (h : ownScmp c s = .act t) :
    sameRegs s t ∧ sameBytes s t ∧ sameSpads s t ∧ sameEngines s t := by
  simp only [ownScmp, scWrite] at h
  repeat' split at h
  all_goals first
    | (injection h with h; subst h; simp [sameRegs, sameBytes, sameSpads, sameEngines]; done)

theorem ownSsel_keeps {c : Ctx} {s t : State} (h : ownSsel c s = .act t) :
    sameRegs s t ∧ sameBytes s t ∧ sameSpads s t ∧ sameEngines s t := by
  simp only [ownSsel, scWrite] at h
  repeat' split at h
  all_goals first
    | (injection h with h; subst h; simp [sameRegs, sameBytes, sameSpads, sameEngines]; done)

theorem ownSlea_keeps {c : Ctx} {s t : State} (h : ownSlea c s = .act t) :
    sameRegs s t ∧ sameBytes s t ∧ sameSpads s t ∧ sameEngines s t := by
  simp only [ownSlea, scWrite] at h
  injection h with h; subst h; simp [sameRegs, sameBytes, sameSpads, sameEngines]

theorem ownSbfe_keeps {c : Ctx} {s t : State} (h : ownSbfe c s = .act t) :
    sameRegs s t ∧ sameBytes s t ∧ sameSpads s t ∧ sameEngines s t := by
  simp only [ownSbfe, scWrite] at h
  injection h with h; subst h; simp [sameRegs, sameBytes, sameSpads, sameEngines]

theorem ownSbfi_keeps {c : Ctx} {s t : State} (h : ownSbfi c s = .act t) :
    sameRegs s t ∧ sameBytes s t ∧ sameSpads s t ∧ sameEngines s t := by
  simp only [ownSbfi, scWrite] at h
  injection h with h; subst h; simp [sameRegs, sameBytes, sameSpads, sameEngines]

theorem ownSspr_keeps {c : Ctx} {s t : State} (h : ownSspr c s = .act t) :
    sameRegs s t ∧ sameBytes s t ∧ sameSpads s t ∧ sameEngines s t := by
  simp only [ownSspr] at h
  repeat' split at h
  all_goals first
    | (cases h; done)
    | (injection h with h; subst h; simp [sameRegs, sameBytes, sameSpads, sameEngines]; done)

theorem ownGstat_keeps {c : Ctx} {s t : State} (h : ownGstat c s = .act t) :
    sameRegs s t ∧ sameBytes s t ∧ sameSpads s t ∧ sameEngines s t := by
  simp only [ownGstat, scWrite] at h
  injection h with h; subst h; simp [sameRegs, sameBytes, sameSpads, sameEngines]

theorem ownTrap_keeps {c : Ctx} {s t : State} (h : ownTrap c s = .act t) :
    sameRegs s t ∧ sameBytes s t ∧ sameSpads s t ∧ sameEngines s t := by
  simp only [ownTrap] at h
  injection h with h; subst h; simp [sameRegs, sameBytes, sameSpads, sameEngines]

theorem ownBrk_keeps {c : Ctx} {s t : State} (h : ownBrk c s = .act t) :
    sameRegs s t ∧ sameBytes s t ∧ sameSpads s t ∧ sameEngines s t := by
  simp only [ownBrk] at h
  injection h with h; subst h; simp [sameRegs, sameBytes, sameSpads, sameEngines]

theorem ownRgn_keeps {c : Ctx} {s t : State} (h : ownRgn c s = .act t) :
    sameRegs s t ∧ sameBytes s t ∧ sameSpads s t ∧ sameEngines s t := by
  simp only [ownRgn] at h
  repeat' split at h
  all_goals first
    | (cases h; done)
    | (injection h with h; subst h; simp [sameRegs, sameBytes, sameSpads, sameEngines]; done)

theorem ownMark_keeps {c : Ctx} {s t : State} (h : ownMark c s = .act t) :
    sameRegs s t ∧ sameSpads s t ∧ sameEngines s t := by
  simp only [ownMark] at h
  injection h with h; subst h; simp [sameRegs, sameBytes, sameSpads, sameEngines]

theorem ownEvt_keeps {c : Ctx} {s t : State} (h : ownEvt c s = .act t) :
    sameRegs s t ∧ sameBytes s t ∧ sameSpads s t ∧ sameEngines s t := by
  simp only [ownEvt] at h
  injection h with h; subst h; simp [sameRegs, sameBytes, sameSpads, sameEngines]

theorem ownOpt_keeps {c : Ctx} {s t : State} (h : ownOpt c s = .act t) :
    sameRegs s t ∧ sameBytes s t ∧ sameSpads s t ∧ sameEngines s t := by
  simp only [ownOpt] at h
  injection h with h; subst h; simp [sameRegs, sameBytes, sameSpads, sameEngines]

theorem ownPrio_keeps {c : Ctx} {s t : State} (h : ownPrio c s = .act t) :
    sameRegs s t ∧ sameBytes s t ∧ sameSpads s t ∧ sameEngines s t := by
  simp only [ownPrio] at h
  injection h with h; subst h; simp [sameRegs, sameBytes, sameSpads, sameEngines]

theorem ownLaunch_keeps {c : Ctx} {s t : State} (h : ownLaunch c s = .act t) :
    sameRegs s t ∧ sameBytes s t ∧ sameSpads s t ∧ sameEngines s t := by
  simp only [ownLaunch] at h
  injection h with h; subst h; simp [sameRegs, sameBytes, sameSpads, sameEngines]

theorem ownLaunchWait_keeps {c : Ctx} {s t : State} (h : ownLaunchWait c s = .act t) :
    sameRegs s t ∧ sameBytes s t ∧ sameSpads s t ∧ sameEngines s t := by
  simp only [ownLaunchWait] at h
  injection h with h; subst h; simp [sameRegs, sameBytes, sameSpads, sameEngines]

theorem ownMigrate_keeps {c : Ctx} {s t : State} (h : ownMigrate c s = .act t) :
    sameRegs s t ∧ sameBytes s t ∧ sameSpads s t ∧ sameEngines s t := by
  simp only [ownMigrate] at h
  repeat' split at h
  all_goals first
    | (cases h; done)
    | (injection h with h; subst h; simp [sameRegs, sameBytes, sameSpads, sameEngines]; done)

theorem ownVaddInt_keeps {c : Ctx} {s t : State} (h : ownVaddInt c s = .act t) :
    sameRegs s t ∧ sameBytes s t ∧ sameSpads s t ∧ sameEngines s t := by
  simp only [ownVaddInt, intOp2, vec2, vecWrite] at h
  injection h with h; subst h; simp [sameRegs, sameBytes, sameSpads, sameEngines]

theorem ownVsubInt_keeps {c : Ctx} {s t : State} (h : ownVsubInt c s = .act t) :
    sameRegs s t ∧ sameBytes s t ∧ sameSpads s t ∧ sameEngines s t := by
  simp only [ownVsubInt, intOp2, vec2, vecWrite] at h
  injection h with h; subst h; simp [sameRegs, sameBytes, sameSpads, sameEngines]

theorem ownVmulInt_keeps {c : Ctx} {s t : State} (h : ownVmulInt c s = .act t) :
    sameRegs s t ∧ sameBytes s t ∧ sameSpads s t ∧ sameEngines s t := by
  simp only [ownVmulInt, intOp2, vec2, vecWrite] at h
  injection h with h; subst h; simp [sameRegs, sameBytes, sameSpads, sameEngines]

theorem ownVmulh_keeps {c : Ctx} {s t : State} (h : ownVmulh c s = .act t) :
    sameRegs s t ∧ sameBytes s t ∧ sameSpads s t ∧ sameEngines s t := by
  simp only [ownVmulh, intOp2, vec2, vecWrite] at h
  injection h with h; subst h; simp [sameRegs, sameBytes, sameSpads, sameEngines]

theorem ownVmad_keeps {c : Ctx} {s t : State} (h : ownVmad c s = .act t) :
    sameRegs s t ∧ sameBytes s t ∧ sameSpads s t ∧ sameEngines s t := by
  simp only [ownVmad, vec3, vecWrite] at h
  injection h with h; subst h; simp [sameRegs, sameBytes, sameSpads, sameEngines]

theorem ownVand_keeps {c : Ctx} {s t : State} (h : ownVand c s = .act t) :
    sameRegs s t ∧ sameBytes s t ∧ sameSpads s t ∧ sameEngines s t := by
  simp only [ownVand, bitOp2, vec2, vecWrite] at h
  injection h with h; subst h; simp [sameRegs, sameBytes, sameSpads, sameEngines]

theorem ownVor_keeps {c : Ctx} {s t : State} (h : ownVor c s = .act t) :
    sameRegs s t ∧ sameBytes s t ∧ sameSpads s t ∧ sameEngines s t := by
  simp only [ownVor, bitOp2, vec2, vecWrite] at h
  injection h with h; subst h; simp [sameRegs, sameBytes, sameSpads, sameEngines]

theorem ownVxor_keeps {c : Ctx} {s t : State} (h : ownVxor c s = .act t) :
    sameRegs s t ∧ sameBytes s t ∧ sameSpads s t ∧ sameEngines s t := by
  simp only [ownVxor, bitOp2, vec2, vecWrite] at h
  injection h with h; subst h; simp [sameRegs, sameBytes, sameSpads, sameEngines]

theorem ownVshl_keeps {c : Ctx} {s t : State} (h : ownVshl c s = .act t) :
    sameRegs s t ∧ sameBytes s t ∧ sameSpads s t ∧ sameEngines s t := by
  simp only [ownVshl, bitOp2, vec2, vecWrite] at h
  injection h with h; subst h; simp [sameRegs, sameBytes, sameSpads, sameEngines]

theorem ownVshr_keeps {c : Ctx} {s t : State} (h : ownVshr c s = .act t) :
    sameRegs s t ∧ sameBytes s t ∧ sameSpads s t ∧ sameEngines s t := by
  simp only [ownVshr, vec2, vecWrite] at h
  injection h with h; subst h; simp [sameRegs, sameBytes, sameSpads, sameEngines]

theorem ownVminInt_keeps {c : Ctx} {s t : State} (h : ownVminInt c s = .act t) :
    sameRegs s t ∧ sameBytes s t ∧ sameSpads s t ∧ sameEngines s t := by
  simp only [ownVminInt, intOp2, vec2, vecWrite] at h
  injection h with h; subst h; simp [sameRegs, sameBytes, sameSpads, sameEngines]

theorem ownVmaxInt_keeps {c : Ctx} {s t : State} (h : ownVmaxInt c s = .act t) :
    sameRegs s t ∧ sameBytes s t ∧ sameSpads s t ∧ sameEngines s t := by
  simp only [ownVmaxInt, intOp2, vec2, vecWrite] at h
  injection h with h; subst h; simp [sameRegs, sameBytes, sameSpads, sameEngines]

theorem ownVabsInt_keeps {c : Ctx} {s t : State} (h : ownVabsInt c s = .act t) :
    sameRegs s t ∧ sameBytes s t ∧ sameSpads s t ∧ sameEngines s t := by
  simp only [ownVabsInt, vec1, vecWrite] at h
  injection h with h; subst h; simp [sameRegs, sameBytes, sameSpads, sameEngines]

theorem ownVnegInt_keeps {c : Ctx} {s t : State} (h : ownVnegInt c s = .act t) :
    sameRegs s t ∧ sameBytes s t ∧ sameSpads s t ∧ sameEngines s t := by
  simp only [ownVnegInt, vec1, vecWrite] at h
  injection h with h; subst h; simp [sameRegs, sameBytes, sameSpads, sameEngines]

theorem ownVadds_keeps {c : Ctx} {s t : State} (h : ownVadds c s = .act t) :
    sameRegs s t ∧ sameBytes s t ∧ sameSpads s t ∧ sameEngines s t := by
  simp only [ownVadds, intOp2, vec2, vecWrite] at h
  injection h with h; subst h; simp [sameRegs, sameBytes, sameSpads, sameEngines]

theorem ownVsubs_keeps {c : Ctx} {s t : State} (h : ownVsubs c s = .act t) :
    sameRegs s t ∧ sameBytes s t ∧ sameSpads s t ∧ sameEngines s t := by
  simp only [ownVsubs, intOp2, vec2, vecWrite] at h
  injection h with h; subst h; simp [sameRegs, sameBytes, sameSpads, sameEngines]

theorem ownVsel_keeps {c : Ctx} {s t : State} (h : ownVsel c s = .act t) :
    sameRegs s t ∧ sameBytes s t ∧ sameSpads s t ∧ sameEngines s t := by
  simp only [ownVsel, vec2, vecWrite] at h
  repeat' split at h
  all_goals first
    | (injection h with h; subst h; simp [sameRegs, sameBytes, sameSpads, sameEngines]; done)

theorem ownVmov_keeps {c : Ctx} {s t : State} (h : ownVmov c s = .act t) :
    sameRegs s t ∧ sameBytes s t ∧ sameSpads s t ∧ sameEngines s t := by
  simp only [ownVmov, vec1, vecWrite] at h
  injection h with h; subst h; simp [sameRegs, sameBytes, sameSpads, sameEngines]

theorem ownVclz_keeps {c : Ctx} {s t : State} (h : ownVclz c s = .act t) :
    sameRegs s t ∧ sameBytes s t ∧ sameSpads s t ∧ sameEngines s t := by
  simp only [ownVclz, vec1, vecWrite] at h
  injection h with h; subst h; simp [sameRegs, sameBytes, sameSpads, sameEngines]

theorem ownVpopc_keeps {c : Ctx} {s t : State} (h : ownVpopc c s = .act t) :
    sameRegs s t ∧ sameBytes s t ∧ sameSpads s t ∧ sameEngines s t := by
  simp only [ownVpopc, vec1, vecWrite] at h
  injection h with h; subst h; simp [sameRegs, sameBytes, sameSpads, sameEngines]

theorem ownVdot4_keeps {c : Ctx} {s t : State} (h : ownVdot4 c s = .act t) :
    sameRegs s t ∧ sameBytes s t ∧ sameSpads s t ∧ sameEngines s t := by
  simp only [ownVdot4, vecWrite] at h
  injection h with h; subst h; simp [sameRegs, sameBytes, sameSpads, sameEngines]

theorem ownVbfe_keeps {c : Ctx} {s t : State} (h : ownVbfe c s = .act t) :
    sameRegs s t ∧ sameBytes s t ∧ sameSpads s t ∧ sameEngines s t := by
  simp only [ownVbfe, vec2, vecWrite] at h
  injection h with h; subst h; simp [sameRegs, sameBytes, sameSpads, sameEngines]

theorem ownVbfi_keeps {c : Ctx} {s t : State} (h : ownVbfi c s = .act t) :
    sameRegs s t ∧ sameBytes s t ∧ sameSpads s t ∧ sameEngines s t := by
  simp only [ownVbfi, vec3, vecWrite] at h
  injection h with h; subst h; simp [sameRegs, sameBytes, sameSpads, sameEngines]

theorem ownVcmp_keeps {c : Ctx} {s t : State} (h : ownVcmp c s = .act t) :
    sameRegs s t ∧ sameBytes s t ∧ sameSpads s t ∧ sameEngines s t := by
  simp only [ownVcmp, maskWrite] at h
  injection h with h; subst h; simp [sameRegs, sameBytes, sameSpads, sameEngines]

theorem ownVkop_keeps {c : Ctx} {s t : State} (h : ownVkop c s = .act t) :
    sameRegs s t ∧ sameBytes s t ∧ sameSpads s t ∧ sameEngines s t := by
  simp only [ownVkop, maskWrite] at h
  injection h with h; subst h; simp [sameRegs, sameBytes, sameSpads, sameEngines]

theorem ownVaddF_keeps {c : Ctx} {s t : State} (h : ownVaddF c s = .act t) :
    sameRegs s t ∧ sameBytes s t ∧ sameSpads s t ∧ sameEngines s t := by
  simp only [ownVaddF, fltOp2, vec2, vecWrite] at h
  injection h with h; subst h; simp [sameRegs, sameBytes, sameSpads, sameEngines]

theorem ownVsubF_keeps {c : Ctx} {s t : State} (h : ownVsubF c s = .act t) :
    sameRegs s t ∧ sameBytes s t ∧ sameSpads s t ∧ sameEngines s t := by
  simp only [ownVsubF, fltOp2, vec2, vecWrite] at h
  injection h with h; subst h; simp [sameRegs, sameBytes, sameSpads, sameEngines]

theorem ownVmulF_keeps {c : Ctx} {s t : State} (h : ownVmulF c s = .act t) :
    sameRegs s t ∧ sameBytes s t ∧ sameSpads s t ∧ sameEngines s t := by
  simp only [ownVmulF, fltOp2, vec2, vecWrite] at h
  injection h with h; subst h; simp [sameRegs, sameBytes, sameSpads, sameEngines]

theorem ownVfma_keeps {c : Ctx} {s t : State} (h : ownVfma c s = .act t) :
    sameRegs s t ∧ sameBytes s t ∧ sameSpads s t ∧ sameEngines s t := by
  simp only [ownVfma, fltOp3, vec3, vecWrite] at h
  injection h with h; subst h; simp [sameRegs, sameBytes, sameSpads, sameEngines]

theorem ownVfms_keeps {c : Ctx} {s t : State} (h : ownVfms c s = .act t) :
    sameRegs s t ∧ sameBytes s t ∧ sameSpads s t ∧ sameEngines s t := by
  simp only [ownVfms, fltOp3, vec3, vecWrite] at h
  injection h with h; subst h; simp [sameRegs, sameBytes, sameSpads, sameEngines]

theorem ownVfnma_keeps {c : Ctx} {s t : State} (h : ownVfnma c s = .act t) :
    sameRegs s t ∧ sameBytes s t ∧ sameSpads s t ∧ sameEngines s t := by
  simp only [ownVfnma, fltOp3, vec3, vecWrite] at h
  injection h with h; subst h; simp [sameRegs, sameBytes, sameSpads, sameEngines]

theorem ownVminF_keeps {c : Ctx} {s t : State} (h : ownVminF c s = .act t) :
    sameRegs s t ∧ sameBytes s t ∧ sameSpads s t ∧ sameEngines s t := by
  simp only [ownVminF, fltOp2, vec2, vecWrite] at h
  injection h with h; subst h; simp [sameRegs, sameBytes, sameSpads, sameEngines]

theorem ownVmaxF_keeps {c : Ctx} {s t : State} (h : ownVmaxF c s = .act t) :
    sameRegs s t ∧ sameBytes s t ∧ sameSpads s t ∧ sameEngines s t := by
  simp only [ownVmaxF, fltOp2, vec2, vecWrite] at h
  injection h with h; subst h; simp [sameRegs, sameBytes, sameSpads, sameEngines]

theorem ownVdiv_keeps {c : Ctx} {s t : State} (h : ownVdiv c s = .act t) :
    sameRegs s t ∧ sameBytes s t ∧ sameSpads s t ∧ sameEngines s t := by
  simp only [ownVdiv, fltOp2, vec2, vecWrite] at h
  injection h with h; subst h; simp [sameRegs, sameBytes, sameSpads, sameEngines]

theorem ownVsqrt_keeps {c : Ctx} {s t : State} (h : ownVsqrt c s = .act t) :
    sameRegs s t ∧ sameBytes s t ∧ sameSpads s t ∧ sameEngines s t := by
  simp only [ownVsqrt, fltOp1, vec1, vecWrite] at h
  injection h with h; subst h; simp [sameRegs, sameBytes, sameSpads, sameEngines]

theorem ownVabsF_keeps {c : Ctx} {s t : State} (h : ownVabsF c s = .act t) :
    sameRegs s t ∧ sameBytes s t ∧ sameSpads s t ∧ sameEngines s t := by
  simp only [ownVabsF, fltOp1, vec1, vecWrite] at h
  injection h with h; subst h; simp [sameRegs, sameBytes, sameSpads, sameEngines]

theorem ownVnegF_keeps {c : Ctx} {s t : State} (h : ownVnegF c s = .act t) :
    sameRegs s t ∧ sameBytes s t ∧ sameSpads s t ∧ sameEngines s t := by
  simp only [ownVnegF, fltOp1, vec1, vecWrite] at h
  injection h with h; subst h; simp [sameRegs, sameBytes, sameSpads, sameEngines]

theorem ownSpecial_keeps {fn : Word → Word} {c : Ctx} {s t : State} (h : ownSpecial fn c s = .act t) :
    sameRegs s t ∧ sameBytes s t ∧ sameSpads s t ∧ sameEngines s t := by
  simp only [ownSpecial, vec1, vecWrite] at h
  injection h with h; subst h; simp [sameRegs, sameBytes, sameSpads, sameEngines]

theorem ownVrint_keeps {c : Ctx} {s t : State} (h : ownVrint c s = .act t) :
    sameRegs s t ∧ sameBytes s t ∧ sameSpads s t ∧ sameEngines s t := by
  simp only [ownVrint, fltOp1, vec1, vecWrite] at h
  injection h with h; subst h; simp [sameRegs, sameBytes, sameSpads, sameEngines]

theorem ownVscale_keeps {c : Ctx} {s t : State} (h : ownVscale c s = .act t) :
    sameRegs s t ∧ sameBytes s t ∧ sameSpads s t ∧ sameEngines s t := by
  simp only [ownVscale, vecWrite] at h
  injection h with h; subst h; simp [sameRegs, sameBytes, sameSpads, sameEngines]

theorem ownVexpo_keeps {c : Ctx} {s t : State} (h : ownVexpo c s = .act t) :
    sameRegs s t ∧ sameBytes s t ∧ sameSpads s t ∧ sameEngines s t := by
  simp only [ownVexpo, fltOp1, vec1, vecWrite] at h
  injection h with h; subst h; simp [sameRegs, sameBytes, sameSpads, sameEngines]

theorem ownVmant_keeps {c : Ctx} {s t : State} (h : ownVmant c s = .act t) :
    sameRegs s t ∧ sameBytes s t ∧ sameSpads s t ∧ sameEngines s t := by
  simp only [ownVmant, fltOp1, vec1, vecWrite] at h
  repeat' split at h
  all_goals first
    | (injection h with h; subst h; simp [sameRegs, sameBytes, sameSpads, sameEngines]; done)

theorem ownVcvt_keeps {c : Ctx} {s t : State} (h : ownVcvt c s = .act t) :
    sameRegs s t ∧ sameBytes s t ∧ sameSpads s t ∧ sameEngines s t := by
  simp only [ownVcvt] at h
  injection h with h; subst h; simp [sameRegs, sameBytes, sameSpads, sameEngines]

theorem ownVquant_keeps {c : Ctx} {s t : State} (h : ownVquant c s = .act t) :
    sameRegs s t ∧ sameBytes s t ∧ sameSpads s t ∧ sameEngines s t := by
  simp only [ownVquant, elemWrite] at h
  injection h with h; subst h; simp [sameRegs, sameBytes, sameSpads, sameEngines]

theorem ownVdequant_keeps {c : Ctx} {s t : State} (h : ownVdequant c s = .act t) :
    sameRegs s t ∧ sameBytes s t ∧ sameSpads s t ∧ sameEngines s t := by
  simp only [ownVdequant, vecWrite] at h
  injection h with h; subst h; simp [sameRegs, sameBytes, sameSpads, sameEngines]

theorem ownVpack_keeps {c : Ctx} {s t : State} (h : ownVpack c s = .act t) :
    sameRegs s t ∧ sameBytes s t ∧ sameSpads s t ∧ sameEngines s t := by
  simp only [ownVpack, vecWrite] at h
  injection h with h; subst h; simp [sameRegs, sameBytes, sameSpads, sameEngines]

theorem ownVunpack_keeps {c : Ctx} {s t : State} (h : ownVunpack c s = .act t) :
    sameRegs s t ∧ sameBytes s t ∧ sameSpads s t ∧ sameEngines s t := by
  simp only [ownVunpack, vecWrite] at h
  injection h with h; subst h; simp [sameRegs, sameBytes, sameSpads, sameEngines]

theorem ownScvt_keeps {c : Ctx} {s t : State} (h : ownScvt c s = .act t) :
    sameRegs s t ∧ sameBytes s t ∧ sameSpads s t ∧ sameEngines s t := by
  simp only [ownScvt, scWrite] at h
  injection h with h; subst h; simp [sameRegs, sameBytes, sameSpads, sameEngines]

theorem ownVshfl_keeps {c : Ctx} {s t : State} (h : ownVshfl c s = .act t) :
    sameRegs s t ∧ sameBytes s t ∧ sameSpads s t ∧ sameEngines s t := by
  simp only [ownVshfl, shuffle, vecWrite] at h
  injection h with h; subst h; simp [sameRegs, sameBytes, sameSpads, sameEngines]

theorem ownVbcast_keeps {c : Ctx} {s t : State} (h : ownVbcast c s = .act t) :
    sameRegs s t ∧ sameBytes s t ∧ sameSpads s t ∧ sameEngines s t := by
  simp only [ownVbcast, shuffle, vecWrite] at h
  injection h with h; subst h; simp [sameRegs, sameBytes, sameSpads, sameEngines]

theorem ownVrot_keeps {c : Ctx} {s t : State} (h : ownVrot c s = .act t) :
    sameRegs s t ∧ sameBytes s t ∧ sameSpads s t ∧ sameEngines s t := by
  simp only [ownVrot, shuffle, vecWrite] at h
  injection h with h; subst h; simp [sameRegs, sameBytes, sameSpads, sameEngines]

theorem ownVbfly_keeps {c : Ctx} {s t : State} (h : ownVbfly c s = .act t) :
    sameRegs s t ∧ sameBytes s t ∧ sameSpads s t ∧ sameEngines s t := by
  simp only [ownVbfly, shuffle, vecWrite] at h
  injection h with h; subst h; simp [sameRegs, sameBytes, sameSpads, sameEngines]

theorem ownVred_keeps {c : Ctx} {s t : State} (h : ownVred c s = .act t) :
    sameRegs s t ∧ sameBytes s t ∧ sameSpads s t ∧ sameEngines s t := by
  simp only [ownVred, scWrite] at h
  injection h with h; subst h; simp [sameRegs, sameBytes, sameSpads, sameEngines]

theorem ownVscan_keeps {c : Ctx} {s t : State} (h : ownVscan c s = .act t) :
    sameRegs s t ∧ sameBytes s t ∧ sameSpads s t ∧ sameEngines s t := by
  simp only [ownVscan, vecWrite] at h
  repeat' split at h
  all_goals first
    | (injection h with h; subst h; simp [sameRegs, sameBytes, sameSpads, sameEngines]; done)

theorem ownVballot_keeps {c : Ctx} {s t : State} (h : ownVballot c s = .act t) :
    sameRegs s t ∧ sameBytes s t ∧ sameSpads s t ∧ sameEngines s t := by
  simp only [ownVballot, scWrite] at h
  injection h with h; subst h; simp [sameRegs, sameBytes, sameSpads, sameEngines]

theorem ownVext_keeps {c : Ctx} {s t : State} (h : ownVext c s = .act t) :
    sameRegs s t ∧ sameBytes s t ∧ sameSpads s t ∧ sameEngines s t := by
  simp only [ownVext, scWrite] at h
  injection h with h; subst h; simp [sameRegs, sameBytes, sameSpads, sameEngines]

theorem ownVins_keeps {c : Ctx} {s t : State} (h : ownVins c s = .act t) :
    sameRegs s t ∧ sameBytes s t ∧ sameSpads s t ∧ sameEngines s t := by
  simp only [ownVins] at h
  injection h with h; subst h; simp [sameRegs, sameBytes, sameSpads, sameEngines]

theorem linkOwn_keeps {c : Ctx} {s t : State} (h : linkOwn c s = .act t) :
    sameRegs s t ∧ sameBytes s t ∧ sameSpads s t ∧ sameEngines s t := by
  simp only [linkOwn] at h
  repeat' split at h
  all_goals first
    | (cases h; done)
    | (injection h with h; subst h; simp [sameRegs, sameBytes, sameSpads, sameEngines]; done)

theorem promiseOwn_keeps {c : Ctx} {s t : State} (h : promiseOwn c s = .act t) :
    sameRegs s t ∧ sameBytes s t ∧ sameSpads s t ∧ sameEngines s t := by
  simp only [promiseOwn] at h
  repeat' split at h
  all_goals first
    | (cases h; done)
    | (injection h with h; subst h; simp [sameRegs, sameBytes, sameSpads, sameEngines, startPromise_bytes]; done)

theorem spiralOwn_keeps {c : Ctx} {s t : State} (h : spiralOwn c s = .act t) :
    sameRegs s t ∧ sameBytes s t ∧ sameSpads s t ∧ sameEngines s t := by
  simp only [spiralOwn] at h
  repeat' split at h
  all_goals first
    | (cases h; done)
    | (injection h with h; subst h; simp [sameRegs, sameBytes, sameSpads, sameEngines]; done)

end Sys2Proof.Machine
end

