-- ==== Sys2Proof/Tests/Slice0.lean ====
section
/-!
SUPPORT. Tests: words that the manual writes out, a word of every opcode in every form, ill-formed terms, results of single
steps worked out by hand, and a state and operands that meet the hypotheses of each statement.
-/
set_option maxRecDepth 8000
set_option Elab.async false
namespace Sys2Proof.Tests
open Sys2Proof Sys2Proof.Machine

/-! ### A small state -/

/-- One group of all 32 lanes, issuing alone. -/
def grp (r : Role) : Machine.Group where
  uid := 0
  team := 1
  core := 0
  slot := 0
  role := r
  num := 0
  callee := false
  splits := [⟨0, 0, 0xFFFFFFFF, 0, [], false, 0, none⟩]
  alive := 0xFFFFFFFF
  stamps := 1
  v := []
  s := [(2, 256), (3, 4), (4, 0x08001000), (5, 512)]
  k := []
  owners := []
  flags := 0xFFF
  flagOwner := []
  seed := 0
  mcap := 0
  mres := 0
  rgn := 0
  nr := false
  nrMay := []
  prio := 0
  bars := []
  horizon := 0
  depart := none
  lastIssue := 1
  lastPlace := 0
  issued := 0
  placed := 0
  resumed := false
  yieldUntil := 0
  sleep := none
  sync := none
  busy := none
  acq := []
  wrote := []
  undo := none
  replays := []
  aborts := []
  ended := []
  gen := 0
  stop := none
  items := []
  halted := false
  moved := false

/-- Its team: a ring of depth 4 with two entries waiting, a barrier, 64 KiB of scratchpad with a pair of format blocks. -/
def team (r : Role) : Team where
  id := 1
  launch := 1
  ctx := 0
  part := 0
  num := 0
  core := 0
  members := 1
  vregs := 64
  spadKiB := 64
  storeKiB := 64
  matrix := true
  callees := [1]
  bars := [(0, ⟨false, 2, 0, 0, 0, 0⟩)]
  rings := [(1, ⟨4, r, r, false, 0, false, 2, [(0, 7), (1, 8)], 2, 0, 0, false, false⟩)]
  evts := []
  spad := [(512, 4), (528, 4)]
  prio := 0
  order := 0
  left := 0
  held := []

/-- The launch of the team: levels of a cluster and of a core. -/
def launch : Launch where
  id := 1
  kind := 1
  fe := 0
  vd := 0
  part := 0
  ctx := 0
  record := { LaunchRec.none_ with levels := [⟨1, true, 1, 2⟩, ⟨1, true, 2, 3⟩] }
  done := 0
  preds := []
  list := []
  phase := .running
  seq := 0
  accepted := 0
  placed := 1
  total := 1
  live := 1
  status := 0
  outstanding := []
  drops := none
  settle := 0
  units := []

/-- The group about to issue at clk 10, with a communicator of one module and operand slots 0 to 3 claimed. -/
def at10 (r : Role) : State :=
  { State.reset with
    dies := List.replicate 4 { DieSt.reset with clk := 10 }
    groups := [grp r]
    teams := [team r]
    launches := [launch]
    comms := [(0, ⟨64, 0, 0, 0, true, 0⟩)]
    cores := [(0, { CoreSt.empty with mat := { MatrixSt.empty with team := some 1, claims := [(0, 1), (1, 1), (2, 1), (3, 1)] } })]
    cur := some (0, 0) }

/-! ### What a statement's hypotheses ask -/

/-- The checks of `Passes`, as a test. -/
def passes (o : Op) (w : Word3) (s : State) (g : Machine.Group) (sp : Split) : Bool :=
  delivered (ctxOf o w s g sp) && (illegalCause o w).isNone && !(cause6 s g o (fieldsOf o w).e) &&
  !(notReady s (ctxOf o w s g sp) (fieldsOf o w)) && (ctxOf o w s g sp).sel != 0 &&
  (roleAllows g.role o && ringRoleOk s g o (fieldsOf o w).e) && !((trapRegs o (fieldsOf o w).e).any (isEmptyReg g)) &&
  !((blockRegs o (fieldsOf o w).e).any (isEmptyReg g)) &&
  decide (unitUntil (coreAt s g.core) (unitOf o).1 ≤ (ctxOf o w s g sp).clk) && !(accessesGlobal o && !g.acq.isEmpty)

/-- The group and split of `cur` meet `Passes` and `ok`. -/
def meets (ok : Ctx → State → Bool) (s : State) (o : Op) (w : Word3) : Bool :=
  match curSplit s with
  | some (g, sp) => passes o w s g sp && ok (ctxOf o w s g sp) (beginIssue s (ctxOf o w s g sp))
  | none => false

theorem meets_sound {ok : Ctx → State → Bool} {s : State} {o : Op} {w : Word3} (h : meets ok s o w = true) :
    ∃ g sp, Passes o w s g sp ∧ ok (ctxOf o w s g sp) (beginIssue s (ctxOf o w s g sp)) = true := by
  unfold meets at h
  split at h
  · rename_i g sp hc
    simp only [passes, Bool.and_eq_true, Option.isNone_iff_eq_none, Bool.not_eq_true', bne_iff_ne, ne_eq, decide_eq_true_eq] at h
    obtain ⟨⟨⟨⟨⟨⟨⟨⟨⟨⟨h1, h2⟩, h3⟩, h4⟩, h5⟩, h6⟩, h7⟩, h8⟩, h9⟩, h10⟩, h11⟩ := h
    exact ⟨g, sp, ⟨⟨⟨hc, h1, h2, h3⟩, h4⟩, h5, by simpa using h6, h7, h8, h9, h10⟩, h11⟩
  · cases h

/-- An extended word of the fields that the witnesses use. -/
def ext (d sa sb sc ty ka kb kc opx : Nat) : ExtWord :=
  ⟨0, BitVec.ofNat 5 ty, false, BitVec.ofNat 2 kc, BitVec.ofNat 2 kb, BitVec.ofNat 2 ka, BitVec.ofNat 9 opx, BitVec.ofNat 8 sc, BitVec.ofNat 8 sb, BitVec.ofNat 8 sa, BitVec.ofNat 8 d, false, false, false, 0, 0, false, false, 0, 0, none⟩

/-- The group's barrier bits for barrier 0. -/
def withBits (b : BarBits) (s : State) : State := { s with groups := s.groups.map (fun g => { g with bars := [(0, b)] }) }

/-- The group stands in a callee slot. -/
def inCallee (s : State) : State := { s with groups := s.groups.map (fun g => { g with callee := true }) }

/-- The core is a member of a gang of 4 and the latch has let this group issue. -/
def inGangOf4 (s : State) : State :=
  { s with cores := [(0, { CoreSt.empty with mat := { MatrixSt.empty with
      team := some 1, claims := [(0, 1), (1, 1), (2, 1), (3, 1)],
      gang := ⟨4, 1, 1, 0, 0, 15, 0⟩, member := some 0, arrival := some ⟨0, 0, 10, .nop, ext 0 0 0 0 0 0 0 0 0, 0, 11, []⟩ } })] }

/-- The latch has let this group issue, and the core is in no gang. -/
def latched (s : State) : State :=
  { s with cores := [(0, { CoreSt.empty with mat := { MatrixSt.empty with
      team := some 1, arrival := some ⟨0, 0, 10, .nop, ext 0 0 0 0 0 0 0 0 0, 0, 11, []⟩ } })] }

/-- Core 1 holds a second team of the same cluster-level part of the launch. -/
def besides (s : State) : State :=
  { s with
    launches := [{ launch with record := { launch.record with levels := [⟨2, true, 1, 2⟩, ⟨1, true, 2, 3⟩] } }]
    teams := s.teams ++ [{ team .matrix with id := 2, num := 1, core := 1 }]
    cores := s.cores ++ [(1, { CoreSt.empty with mat := { MatrixSt.empty with team := some 2 } })] }

/-- Bytes below those of the scratchpad. -/
def withSpad (m : List (Nat × Byte)) (s : State) : State :=
  { s with teams := s.teams.map (fun t => { t with spad := m ++ t.spad }) }

/-- A scalar register of the group. -/
def withS (r : Nat) (x : DWord) (s : State) : State :=
  { s with groups := s.groups.map (fun g => { g with s := mset 0 r x g.s }) }

/-! ### Objects of the event witnesses -/

/-- An instruction of group 0 in flight, as operation 7. -/
def flt (o : Op) (w : Work) : Flight :=
  ⟨7, 0, 0, o, ext 0 0 0 0 0 0 0 0 0, 0, 0, 0, 0xFFFFFFFF, 0, [], 1, 0, w, [], [], true, [], [], [], 0, .done, [], [], [], [], [], 0, 0, none, []⟩

/-- Request 5 of operation 7 to line 0 of arm 0. -/
def rq (src : Src) (a : Ask) (p : ReqPhase) : Req :=
  ⟨5, src, 0, 7, a, 0, 0, 0, 0, 0, 0, 0, 0, 0, 0, 0, 0, 0, .ns 0, p, [], false, 0, 0, 0, false, 0, [], none, none, false, false, false, false, 0, 0, 0, false, false, false, 0, 0, none, 0⟩

/-- Copy command 9 of 16 bytes, in engine 0. -/
def cmd (o : Op) (p : CopyPhase) : CopyCmd :=
  ⟨9, 0, 0, o, 0, 1, 0, ext 1 2 3 0 0 0 0 0 0, 0, 0xFFFFFFFF, 0, 0, 0, [], 16, 0, 0, 0, none, p, [], [], [], 0, [], [], []⟩

/-- A collective of one module, all of whose members have issued. -/
def coll0 : Coll := ⟨1, 0, 0, 0, some 7, 0, [⟨0, 0, 0, 0, 0, 0⟩], 0, false, 0, false, [], false, [], none⟩

/-- A tile of line 0 in slot 0. -/
def tile0 (copy : Bool) : Tile := ⟨0, 0, 0, copy, 0, none, [(0, ⟨false, 0, true, some 50, 1, [], false⟩)]⟩

/-- At 1000 ns, with group 0 of `at10`. -/
def later10 : State := { at10 .vector with ns := 1000 }
def withGroup (f : Machine.Group → Machine.Group) (s : State) : State := { s with groups := s.groups.map f }
def withFlight (f : Flight) (s : State) : State := { s with flights := [f] }
def withReq (r : Req) (s : State) : State := { s with reqs := [r] }
def withCmd (c : CopyCmd) (s : State) : State := { s with cmds := [c] }
def withMat (f : MatrixSt → MatrixSt) (s : State) : State := { s with cores := [(0, { CoreSt.empty with mat := f MatrixSt.empty })] }
def withArm0 (f : ArmSt → ArmSt) (s : State) : State := { s with arms := [(0, f ArmSt.empty)] }
def withLaunch (f : Launch → Launch) (s : State) : State := { s with launches := [f launch] }
def stopped (k : Nat) (nr : Bool) (s : State) : State :=
  withGroup (fun g => { g with stop := some ⟨1, 0, 0, 0, 0, [⟨0, 0, 0, 0, 0, 0x30, 0, k, 0, 0⟩], false, nr, false, false⟩ }) s

/-- A virtual device of partition 0, whose clusters are 0 to 23, placing. -/
def withVd (s : State) : State :=
  { s with
    vds := [(0, { VdSt.reset with save := 0x100000, weight := 1, quant := 1000, femask := 1, valid := true, tqbase := 4096, tqn := 16, eligible := true })]
    parts := [(0, { PartSt.reset with colour := [1, 1, 1, 1], valid := true, base := 0, limit := 7, placing := some 0 })] }

/-- A launch of one team of one vector group, whose image covers the first 128 bytes of the store. -/
def smallRecord : LaunchRec :=
  { LaunchRec.none_ with code := 0x20000, nvec := 1, spad := 1, vregs := 8, levels := [⟨1, false, 1, 2⟩] }

/-- The bytes of a number, with the zero ones left out. -/
def cells (a n x : Nat) : List (Nat × Byte) :=
  ((List.range n).map (fun i => (a + i, BitVec.ofNat 8 (x / 256 ^ i)))).filter (fun p => p.2 != 0)

/-- A launch record of one level of cores at 0x10000: version 1, one vector group, 32 lanes. -/
def withRecord (s : State) : State :=
  { s with mem := cells 0x10000 512 (1 + 2 * 2 ^ 192 + 2 ^ 265 + 2 ^ 275 + 2 ^ 512 * (0x80 + 32 * 256) + 2 ^ 640 * (0x92 + 256)) }


/-- A save of a context without teams. -/
def emptySave : SaveSt := ⟨1, 0, 0, 0, true, 0x100000, 1, 0, 0, false, false, [], [], [], [], [], [], [], [], []⟩

/-- Every core of the partition full of teams of another context. -/
def crowded : State :=
  { later10 with teams := (List.range 108).map (fun k => { team .vector with id := k + 10, core := k, ctx := 1, launch := 3, storeKiB := 512, matrix := false }) }

/-- The turn of group 0's split 0 to issue has come. -/
def turn0 : State := { later10 with stage := 2, issueQ := [(0, 0)], cur := none }

/-- The split of `cur` stands at a legal word that is delivered; `wait`: and that may not issue yet. -/
def offers (s : State) (o : Op) (w : Word3) (wait : Bool) : Bool :=
  (curSplit s).any (fun p => delivered (ctxOf o w s p.1 p.2) && (illegalCause o w).isNone && !cause6 s p.1 o (fieldsOf o w).e &&
    notReady s (ctxOf o w s p.1 p.2) (fieldsOf o w) == wait)

/-- With two records of trace buffer for the context's service block. -/
def withTrace (s : State) : State :=
  { withVd s with vds := (withVd s).vds.map (fun p => (p.1, { p.2 with trbase := 0x9000, trn := 2 })) }

/-- Tile 0 leaves its slot to tile 1, which waits for it. -/
def leaving (back : Bool) (s : State) : State :=
  withArm0 (fun a => { a with tiles := [tile0 false], motion := [⟨0, .leave back 2, 0, 0⟩, ⟨1, .fetch 3 0 false, 0, 0⟩] }) s

/-- A copy of line 0 stands in arm 0. -/
def sharing (s : State) : State := withArm0 (fun a => { a with tiles := [tile0 true] }) s

/-- A save of context 0 is done and held for device 0. -/
def heldSave (s : State) : State := { s with saves := [{ emptySave with done := true, held := true }] }

/-- An `lput` whose bytes have landed is ready to signal at an address of a page that may be read and written. -/
def signalsAt (va : Nat) : Bool :=
  let c := { cmd .lput .started with f := ext 1 2 3 0 0 0 0 0 64, sent := 16, landed := 16, desc := [va] }
  let s := withCmd c { later10 with tlb := [⟨0, 0, 16, 0, true, true, false, 0⟩] }
  signalReady s c && !badVa va &&
    (sigPages va).all (fun x => (cmdTlb s c x).isSome && !pageForbids s c (x, true) && !pageForbids s c (x, false))

/-! ### Decoding -/

/-- Words decode to an instruction, and it encodes to them. -/
noncomputable def both (ws : List (BitVec 32)) (i : Instr) : Bool := decodeWords ws == .ok i (4 * ws.length) && encode i == some ws

/-- The 32-bit words of a number, lowest first. -/
def wordsOf (n k : Nat) : List (BitVec 32) := (List.range k).map (fun i => BitVec.ofNat 32 (n / 2 ^ (32 * i)))

/-- Words that the manual writes out with the lines they encode ("Worked encodings" and the encodings of the later chapters). -/
theorem test_written_words_1 : ([
    ([0x20415988#32], .vfma ⟨8, 4, 5, 0, 2⟩),
    ([0x02001902#32, 0x14101320#32, 0x0B000000#32], .vmulF32Ext (.ext { ext 19 16 20 0 11 0 0 0 0 with tra := true, wait := 1 })),
    ([0x10400A01#32, 0x00008000#32, 0#32], .saddExt (.lit ⟨4, 4, 0, 0, 0⟩ 32768)),
    ([0x20800B81#32, 0x000001FF#32, 0#32], .sandExt (.lit ⟨8, 8, 0, 0, 0⟩ 511)),
    ([0x00001002#32, 0x10410200#32, 0x04120000#32], .vaddS32Ext (.ext (ext 2 0x41 16 0 4 1 2 0 0))),
    ([0x02391A80#32], .vfnma ⟨0, 35, 36, 0, 0⟩),
    ([0x0011191A#32, 0x21000000#32, 0x0B000000#32], .vmulF32Ext (.ext { ext 0 0 33 0 11 0 0 0 0 with pe := true, pk := 1, dist := 6 })),
    ([0x00008402#32, 0#32, 0x00040000#32], .trap (ext 0 0 0 0 0 2 0 0 0)),
    ([0x00202802#32, 0x01041000#32, 0x0B00C400#32], .vldExt (.ext { ext 16 4 1 0 11 0 0 0 0xC4 with setf := 1 })),
    ([0x0C806002#32, 0x01000000#32, 0x0E00DC0A#32], .mmac { ext 0 0 1 10 14 0 0 0 0xDC with setf := 4, wait := 6 }),
    ([0x00006002#32, 0x03020100#32, 0x0D00030A#32], .mmac (ext 1 2 3 10 13 0 0 0 3)),
    ([0x00606702#32, 0#32, 0x0B000F00#32], .miterG { ext 0 0 0 0 11 0 0 0 15 with setf := 3 }),
    ([0x00006202#32, 0x00000100#32, 0x0B000F00#32], .msmx (ext 1 0 0 0 11 0 0 0 15)),
    ([0x00207006#32, 0x05040200#32, 0#32], .xcopy { ext 2 4 5 0 0 0 0 0 0 with setf := 1, dist := 1 })] : List (List (BitVec 32) × Instr)).all (fun p => both p.1 p.2) = true := by decide +kernel

/-- Words that the manual writes out with the lines they encode ("Worked encodings" and the encodings of the later chapters). -/
theorem test_written_words_2 : ([
    ([0x00407802#32, 0x00040500#32, 0#32], .hdist { ext 5 4 0 0 0 0 0 0 0 with setf := 2 }),
    ([0x00007882#32, 0x05040600#32, 0#32], .hpin (ext 6 4 5 0 0 0 0 0 0)),
    ([0x01407C82#32, 0x08040002#32, 0x00102000#32], .pfill { ext 0 4 8 0 0 0 2 0 0x20 with setf := 10, wait := 0x100 }),
    ([0x00407D82#32, 0x000A0600#32, 0x00002000#32], .pwait { ext 6 10 0 0 0 0 0 0 0x20 with setf := 2 }),
    ([0x00408102#32, 0x0A090800#32, 0x0B004803#32], .lallred { ext 8 9 10 3 11 0 0 0 0x48 with setf := 2 }),
    ([0x00002F83#32, 0x00004700#32, 0x00060000#32, 0x30800000#32, 0#32], .sspr { ext 0x47 0 0 0 0 3 0 0 0 with lit := some 0x30800000 }),
    ([0x04112886#32, 0x01050600#32, 0x09006800#32], .vstExt (.ext { ext 6 5 1 0 9 0 0 0 0x68 with wait := 2, pe := true, pk := 1, dist := 1 })),
    ([0x00002C02#32, 0x00040500#32, 0x09106500#32], .vldb (ext 5 4 0 0 9 0 2 0 0x65)),
    ([0x04200920#32], .qpush ⟨1, 2, 0, 2, 0⟩),
    ([0x08000980#32], .qpop ⟨2, 0, 0, 0, 0⟩),
    ([0x1BFE818C#32], .brZ ⟨6, 63, 58, 0, 3⟩),
    ([0x00000740#32], .barArrive ⟨0, 0, 0, 4, 0⟩),
    ([0x000005F0#32], .exit ⟨0, 0, 0, 7, 0⟩),
    ([0x08006884#32], .vst ⟨2, 0, 1, 0, 1⟩)] : List (List (BitVec 32) × Instr)).all (fun p => both p.1 p.2) = true := by decide +kernel

/-- Base words put together from the field map of R60 and the opcode map of R77. -/
theorem test_base_words_1 : ([
    (0x94, .nop ⟨0, 0, 0, 1, 1⟩),
    (0x20C128, .br ⟨0, 2, 3, 2, 2⟩),
    (0x2020C1BC, .brZ ⟨8, 2, 3, 3, 3⟩),
    (0x2020C240, .brNz ⟨8, 2, 3, 4, 0⟩),
    (0x2020C2D4, .brLz ⟨8, 2, 3, 5, 1⟩),
    (0x2020C368, .brGez ⟨8, 2, 3, 6, 2⟩),
    (0x2003FC, .brx ⟨0, 2, 0, 7, 3⟩),
    (0x2020C400, .call ⟨8, 2, 3, 0, 0⟩),
    (0x20200494, .callx ⟨8, 2, 0, 1, 1⟩),
    (0x200528, .ret ⟨0, 2, 0, 2, 2⟩),
    (0x5BC, .exit ⟨0, 0, 0, 3, 3⟩),
    (0x640, .yield ⟨0, 0, 0, 4, 0⟩),
    (0x6D4, .split ⟨0, 0, 0, 5, 1⟩),
    (0x20000768, .barArrive ⟨8, 0, 0, 6, 2⟩),
    (0x200007FC, .barWait ⟨8, 0, 0, 7, 3⟩),
    (0x20000800, .barSync ⟨8, 0, 0, 0, 0⟩),
    (0x20000894, .barDrop ⟨8, 0, 0, 1, 1⟩),
    (0x4200928, .qpush ⟨1, 2, 0, 2, 2⟩),
    (0x201009BC, .qpop ⟨8, 1, 0, 3, 3⟩),
    (0x2020CA40, .sadd ⟨8, 2, 3, 4, 0⟩),
    (0x2020CAD4, .ssub ⟨8, 2, 3, 5, 1⟩),
    (0x2020CB68, .smul ⟨8, 2, 3, 6, 2⟩),
    (0x2020CBFC, .sand ⟨8, 2, 3, 7, 3⟩),
    (0x2020CC00, .sor ⟨8, 2, 3, 0, 0⟩),
    (0x2020CC94, .sxor ⟨8, 2, 3, 1, 1⟩),
    (0x2020CD28, .sshl ⟨8, 2, 3, 2, 2⟩)] : List (Nat × Instr)).all (fun p => both (wordsOf p.1 1) p.2) = true := by decide +kernel

/-- Base words put together from the field map of R60 and the opcode map of R77. -/
theorem test_base_words_2 : ([
    (0x2020CDBC, .sshr ⟨8, 2, 3, 3, 3⟩),
    (0x2020CE40, .smin ⟨8, 2, 3, 4, 0⟩),
    (0x2020CED4, .smax ⟨8, 2, 3, 5, 1⟩),
    (0x20200F68, .smov ⟨8, 2, 0, 6, 2⟩),
    (0x2020CFFC, .ssel ⟨8, 2, 3, 7, 3⟩),
    (0x2020F000, .scmp ⟨8, 2, 3, 0, 0⟩),
    (0x2020F094, .slea ⟨8, 2, 3, 1, 1⟩),
    (0x2020F128, .sbfe ⟨8, 2, 3, 2, 2⟩),
    (0x2020F1BC, .sbfi ⟨8, 2, 3, 3, 3⟩),
    (0x20203240, .sclz ⟨8, 2, 0, 4, 0⟩),
    (0x202032D4, .spopc ⟨8, 2, 0, 5, 1⟩),
    (0x2020D000, .vaddS32 ⟨8, 2, 3, 0, 0⟩),
    (0x2020D094, .vsubS32 ⟨8, 2, 3, 1, 1⟩),
    (0x2020D128, .vmulS32 ⟨8, 2, 3, 2, 2⟩),
    (0x2020D1BC, .vmad ⟨8, 2, 3, 3, 3⟩),
    (0x2020D240, .vand ⟨8, 2, 3, 4, 0⟩),
    (0x2020D2D4, .vor ⟨8, 2, 3, 5, 1⟩),
    (0x2020D368, .vxor ⟨8, 2, 3, 6, 2⟩),
    (0x2020D3FC, .vshl ⟨8, 2, 3, 7, 3⟩),
    (0x2020D400, .vshr ⟨8, 2, 3, 0, 0⟩),
    (0x2020D494, .vminS32 ⟨8, 2, 3, 1, 1⟩),
    (0x2020D528, .vmaxS32 ⟨8, 2, 3, 2, 2⟩),
    (0x202015BC, .vabsS32 ⟨8, 2, 0, 3, 3⟩),
    (0x20201640, .vnegS32 ⟨8, 2, 0, 4, 0⟩),
    (0x2020D6D4, .vsel ⟨8, 2, 3, 5, 1⟩),
    (0x20201768, .vmov ⟨8, 2, 0, 6, 2⟩)] : List (Nat × Instr)).all (fun p => both (wordsOf p.1 1) p.2) = true := by decide +kernel

/-- Base words put together from the field map of R60 and the opcode map of R77. -/
theorem test_base_words_3 : ([
    (0x2020D7FC, .vdot4 ⟨8, 2, 3, 7, 3⟩),
    (0x2020D800, .vaddF32 ⟨8, 2, 3, 0, 0⟩),
    (0x2020D894, .vsubF32 ⟨8, 2, 3, 1, 1⟩),
    (0x2020D928, .vmulF32 ⟨8, 2, 3, 2, 2⟩),
    (0x2020D9BC, .vfma ⟨8, 2, 3, 3, 3⟩),
    (0x2020DA40, .vfms ⟨8, 2, 3, 4, 0⟩),
    (0x2020DAD4, .vfnma ⟨8, 2, 3, 5, 1⟩),
    (0x2020DB68, .vminF32 ⟨8, 2, 3, 6, 2⟩),
    (0x2020DBFC, .vmaxF32 ⟨8, 2, 3, 7, 3⟩),
    (0x20201C00, .vabsF32 ⟨8, 2, 0, 0, 0⟩),
    (0x20201C94, .vnegF32 ⟨8, 2, 0, 1, 1⟩),
    (0x2020DD28, .vdiv ⟨8, 2, 3, 2, 2⟩),
    (0x20201DBC, .vsqrt ⟨8, 2, 0, 3, 3⟩),
    (0x20201E40, .vrsqrt ⟨8, 2, 0, 4, 0⟩),
    (0x20201ED4, .vrcp ⟨8, 2, 0, 5, 1⟩),
    (0x20201F68, .vexp2 ⟨8, 2, 0, 6, 2⟩),
    (0x20201FFC, .vlog2 ⟨8, 2, 0, 7, 3⟩),
    (0x20202000, .vexp ⟨8, 2, 0, 0, 0⟩),
    (0x20202094, .vlog ⟨8, 2, 0, 1, 1⟩),
    (0x20202128, .vsin ⟨8, 2, 0, 2, 2⟩),
    (0x202021BC, .vcos ⟨8, 2, 0, 3, 3⟩),
    (0x20202240, .vtanh ⟨8, 2, 0, 4, 0⟩),
    (0x202022D4, .vsigm ⟨8, 2, 0, 5, 1⟩),
    (0x20202368, .vrint ⟨8, 2, 0, 6, 2⟩),
    (0x2020E3FC, .vscale ⟨8, 2, 3, 7, 3⟩),
    (0x2020E400, .vpack ⟨8, 2, 3, 0, 0⟩)] : List (Nat × Instr)).all (fun p => both (wordsOf p.1 1) p.2) = true := by decide +kernel

/-- Base words put together from the field map of R60 and the opcode map of R77. -/
theorem test_base_words_4 : ([
    (0x20202494, .vunpack ⟨8, 2, 0, 1, 1⟩),
    (0x2020E528, .vshfl ⟨8, 2, 3, 2, 2⟩),
    (0x20202768, .vred ⟨8, 2, 0, 6, 2⟩),
    (0x202027FC, .vballot ⟨8, 2, 0, 7, 3⟩),
    (0x2020E800, .vld ⟨8, 2, 3, 0, 0⟩),
    (0x2020E894, .vst ⟨8, 2, 3, 1, 1⟩),
    (0x2020EA40, .vlds ⟨8, 2, 3, 4, 0⟩),
    (0x2020EAD4, .vsts ⟨8, 2, 3, 5, 1⟩),
    (0x2020ED28, .vaadd ⟨8, 2, 3, 2, 2⟩),
    (0x2020EDBC, .vradd ⟨8, 2, 3, 3, 3⟩),
    (0x20EE40, .vcmpS32 ⟨0, 2, 3, 4, 0⟩),
    (0x20EED4, .vcmpF32 ⟨0, 2, 3, 5, 1⟩),
    (0x20EF68, .vkop ⟨0, 2, 3, 6, 2⟩),
    (0x20203368, .vclz ⟨8, 2, 0, 6, 2⟩),
    (0x202033FC, .vpopc ⟨8, 2, 0, 7, 3⟩),
    (0x2020F400, .vbfe ⟨8, 2, 3, 0, 0⟩),
    (0x2020F494, .vbfi ⟨8, 2, 3, 1, 1⟩),
    (0x2020F528, .vmulh ⟨8, 2, 3, 2, 2⟩),
    (0x2020F5BC, .vadds ⟨8, 2, 3, 3, 3⟩),
    (0x2020F640, .vsubs ⟨8, 2, 3, 4, 0⟩)] : List (Nat × Instr)).all (fun p => both (wordsOf p.1 1) p.2) = true := by decide +kernel

/-- Extended words put together from the field maps of R62 and R66 and the opcode map of R77. -/
theorem test_extended_words_1 : ([
    (0x82, .nopExt (.ext (ext 0 0 0 0 0 0 0 0 0))),
    (0x50302000000000102, .brExt (.ext (ext 0 2 3 5 0 0 0 0 0))),
    (0x50302080000000182, .brZExt (.ext (ext 8 2 3 5 0 0 0 0 0))),
    (0x50302080000000202, .brNzExt (.ext (ext 8 2 3 5 0 0 0 0 0))),
    (0x50302080000000282, .brLzExt (.ext (ext 8 2 3 5 0 0 0 0 0))),
    (0x50302080000000302, .brGezExt (.ext (ext 8 2 3 5 0 0 0 0 0))),
    (0x2000000000382, .brxExt (.ext (ext 0 2 0 0 0 0 0 0 0))),
    (0x50302080000000402, .callExt (.ext (ext 8 2 3 5 0 0 0 0 0))),
    (0x2080000000482, .callxExt (.ext (ext 8 2 0 0 0 0 0 0 0))),
    (0x2000000000502, .retExt (.ext (ext 0 2 0 0 0 0 0 0 0))),
    (0x582, .exitExt (.ext (ext 0 0 0 0 0 0 0 0 0))),
    (0x602, .yieldExt (.ext (ext 0 0 0 0 0 0 0 0 0))),
    (0x682, .splitExt (.ext (ext 0 0 0 0 0 0 0 0 0))),
    (0x80000000702, .barArriveExt (.ext (ext 8 0 0 0 0 0 0 0 0))),
    (0x80000000782, .barWaitExt (.ext (ext 8 0 0 0 0 0 0 0 0))),
    (0x80000000802, .barSyncExt (.ext (ext 8 0 0 0 0 0 0 0 0))),
    (0x80000000882, .barDropExt (.ext (ext 8 0 0 0 0 0 0 0 0))),
    (0x2010000000902, .qpushExt (.ext (ext 1 2 0 0 0 0 0 0 0))),
    (0x1080000000982, .qpopExt (.ext (ext 8 1 0 0 0 0 0 0 0))),
    (0x90000000302080000000A02, .saddExt (.ext (ext 8 2 3 0 9 0 0 0 0))),
    (0x90000000302080000000A82, .ssubExt (.ext (ext 8 2 3 0 9 0 0 0 0))),
    (0x90000000302080000000B02, .smulExt (.ext (ext 8 2 3 0 9 0 0 0 0))),
    (0x90000000302080000000B82, .sandExt (.ext (ext 8 2 3 0 9 0 0 0 0))),
    (0x90000000302080000000C02, .sorExt (.ext (ext 8 2 3 0 9 0 0 0 0))),
    (0x90000000302080000000C82, .sxorExt (.ext (ext 8 2 3 0 9 0 0 0 0))),
    (0x90000000302080000000D02, .sshlExt (.ext (ext 8 2 3 0 9 0 0 0 0)))] : List (Nat × Instr)).all (fun p => both (wordsOf p.1 3) p.2) = true := by decide +kernel

/-- Extended words put together from the field maps of R62 and R66 and the opcode map of R77. -/
theorem test_extended_words_2 : ([
    (0x90000000302080000000D82, .sshrExt (.ext (ext 8 2 3 0 9 0 0 0 0))),
    (0x90000000302080000000E02, .sminExt (.ext (ext 8 2 3 0 9 0 0 0 0))),
    (0x90000000302080000000E82, .smaxExt (.ext (ext 8 2 3 0 9 0 0 0 0))),
    (0x90000000002080000000F02, .smovExt (.ext (ext 8 2 0 0 9 0 0 0 0))),
    (0x90000050302080000000F82, .sselExt (.ext (ext 8 2 3 5 9 0 0 0 0))),
    (0x2490000002F82, .sspr (ext 0x49 2 0 0 0 0 0 0 0)),
    (0x90000000302080000003002, .scmpExt (.ext (ext 8 2 3 0 9 0 0 0 0))),
    (0x90000000302080000003082, .sleaExt (.ext (ext 8 2 3 0 9 0 0 0 0))),
    (0xA0000000302080000003102, .sbfeExt (.ext (ext 8 2 3 0 10 0 0 0 0))),
    (0xA0000050302080000003182, .sbfiExt (.ext (ext 8 2 3 5 10 0 0 0 0))),
    (0x90000000002080000003202, .sclzExt (.ext (ext 8 2 0 0 9 0 0 0 0))),
    (0x90000000002080000003282, .spopcExt (.ext (ext 8 2 0 0 9 0 0 0 0))),
    (0x2000000004002, .callv (ext 0 2 0 0 0 0 0 0 0)),
    (0x4082, .retv (ext 0 0 0 0 0 0 0 0 0)),
    (0x50302000000004102, .brAny (ext 0 2 3 5 0 0 0 0 0)),
    (0x50302000000004182, .brAll (ext 0 2 3 5 0 0 0 0 0)),
    (0x2000000004202, .migrate (ext 0 2 0 0 0 0 0 0 0)),
    (0x2080000004282, .launch (ext 8 2 0 0 0 0 0 0 0)),
    (0x2080000004302, .launchWait (ext 8 2 0 0 0 0 0 0 0)),
    (0x2000000004382, .sleep (ext 0 2 0 0 0 0 0 0 0)),
    (0x90000000302080000004402, .smulh (ext 8 2 3 0 9 0 0 0 0)),
    (0x90000000302080000004482, .sdiv (ext 8 2 3 0 9 0 0 0 0)),
    (0x90000000302080000004502, .srem (ext 8 2 3 0 9 0 0 0 0)),
    (0x2080000004582, .barTest (ext 8 2 0 0 0 0 0 0 0)),
    (0x2080000004602, .barAdd (ext 8 2 0 0 0 0 0 0 0)),
    (0x1000000302010000004682, .qpushn (ext 1 2 3 0 0 0 2 0 0))] : List (Nat × Instr)).all (fun p => both (wordsOf p.1 3) p.2) = true := by decide +kernel

/-- Extended words put together from the field maps of R62 and R66 and the opcode map of R77. -/
theorem test_extended_words_3 : ([
    (0x1000000301080000004702, .qpopn (ext 8 1 3 0 0 0 2 0 0)),
    (0x1080000004782, .qlen (ext 8 1 0 0 0 0 0 0 0)),
    (0x1080000004802, .qpeek (ext 8 1 0 0 0 0 0 0 0)),
    (0x2000000008402, .trap (ext 0 2 0 0 0 0 0 0 0)),
    (0x8482, .rgn (ext 0 0 0 0 0 0 0 0 0)),
    (0x8502, .brk (ext 0 0 0 0 0 0 0 0 0)),
    (0x2000000008582, .mark (ext 0 2 0 0 0 0 0 0 0)),
    (0x400000302000000008602, .evt (ext 0 2 3 0 0 2 0 0 0)),
    (0x400000002000000008682, .opt (ext 0 2 0 0 0 2 0 0 0)),
    (0x400000002000000008702, .prio (ext 0 2 0 0 0 2 0 0 0)),
    (0x400000002080000008782, .gstat (ext 8 2 0 0 0 2 0 0 0)),
    (0x90000000302080000001002, .vaddS32Ext (.ext (ext 8 2 3 0 9 0 0 0 0))),
    (0x90000000302080000001082, .vsubS32Ext (.ext (ext 8 2 3 0 9 0 0 0 0))),
    (0x90000000302080000001102, .vmulS32Ext (.ext (ext 8 2 3 0 9 0 0 0 0))),
    (0x90000050302080000001182, .vmadExt (.ext (ext 8 2 3 5 9 0 0 0 0))),
    (0x90000000302080000001202, .vandExt (.ext (ext 8 2 3 0 9 0 0 0 0))),
    (0x90000000302080000001282, .vorExt (.ext (ext 8 2 3 0 9 0 0 0 0))),
    (0x90000000302080000001302, .vxorExt (.ext (ext 8 2 3 0 9 0 0 0 0))),
    (0x90000000302080000001382, .vshlExt (.ext (ext 8 2 3 0 9 0 0 0 0))),
    (0x90000000302080000001402, .vshrExt (.ext (ext 8 2 3 0 9 0 0 0 0))),
    (0x90000000302080000001482, .vminS32Ext (.ext (ext 8 2 3 0 9 0 0 0 0))),
    (0x90000000302080000001502, .vmaxS32Ext (.ext (ext 8 2 3 0 9 0 0 0 0))),
    (0x40000000002080000001582, .vabsS32Ext (.ext (ext 8 2 0 0 4 0 0 0 0))),
    (0x40000000002080000001602, .vnegS32Ext (.ext (ext 8 2 0 0 4 0 0 0 0))),
    (0x90000050302080000001682, .vselExt (.ext (ext 8 2 3 5 9 0 0 0 0))),
    (0x90000000002080000001702, .vmovExt (.ext (ext 8 2 0 0 9 0 0 0 0)))] : List (Nat × Instr)).all (fun p => both (wordsOf p.1 3) p.2) = true := by decide +kernel

/-- Extended words put together from the field maps of R62 and R66 and the opcode map of R77. -/
theorem test_extended_words_4 : ([
    (0x20000050302080000001782, .vdot4Ext (.ext (ext 8 2 3 5 2 0 0 0 0))),
    (0xB0000000302080000001802, .vaddF32Ext (.ext (ext 8 2 3 0 11 0 0 0 0))),
    (0xB0000000302080000001882, .vsubF32Ext (.ext (ext 8 2 3 0 11 0 0 0 0))),
    (0xB0000000302080000001902, .vmulF32Ext (.ext (ext 8 2 3 0 11 0 0 0 0))),
    (0xB0000050302080000001982, .vfmaExt (.ext (ext 8 2 3 5 11 0 0 0 0))),
    (0xB0000050302080000001A02, .vfmsExt (.ext (ext 8 2 3 5 11 0 0 0 0))),
    (0xB0000050302080000001A82, .vfnmaExt (.ext (ext 8 2 3 5 11 0 0 0 0))),
    (0xB0000000302080000001B02, .vminF32Ext (.ext (ext 8 2 3 0 11 0 0 0 0))),
    (0xB0000000302080000001B82, .vmaxF32Ext (.ext (ext 8 2 3 0 11 0 0 0 0))),
    (0xB0000000002080000001C02, .vabsF32Ext (.ext (ext 8 2 0 0 11 0 0 0 0))),
    (0xB0000000002080000001C82, .vnegF32Ext (.ext (ext 8 2 0 0 11 0 0 0 0))),
    (0xB0000000302080000001D02, .vdivExt (.ext (ext 8 2 3 0 11 0 0 0 0))),
    (0xB0000000002080000001D82, .vsqrtExt (.ext (ext 8 2 0 0 11 0 0 0 0))),
    (0xB0000000002080000001E02, .vrsqrtExt (.ext (ext 8 2 0 0 11 0 0 0 0))),
    (0xB0000000002080000001E82, .vrcpExt (.ext (ext 8 2 0 0 11 0 0 0 0))),
    (0xB0000000002080000001F02, .vexp2Ext (.ext (ext 8 2 0 0 11 0 0 0 0))),
    (0xB0000000002080000001F82, .vlog2Ext (.ext (ext 8 2 0 0 11 0 0 0 0))),
    (0xB0000000002080000002002, .vexpExt (.ext (ext 8 2 0 0 11 0 0 0 0))),
    (0xB0000000002080000002082, .vlogExt (.ext (ext 8 2 0 0 11 0 0 0 0))),
    (0xB0000000002080000002102, .vsinExt (.ext (ext 8 2 0 0 11 0 0 0 0))),
    (0xB0000000002080000002182, .vcosExt (.ext (ext 8 2 0 0 11 0 0 0 0))),
    (0xB0000000002080000002202, .vtanhExt (.ext (ext 8 2 0 0 11 0 0 0 0))),
    (0xB0000000002080000002282, .vsigmExt (.ext (ext 8 2 0 0 11 0 0 0 0))),
    (0xB0000000002080000002302, .vrintExt (.ext (ext 8 2 0 0 11 0 0 0 0))),
    (0xB0000000302080000002382, .vscaleExt (.ext (ext 8 2 3 0 11 0 0 0 0))),
    (0xC0000000302080000002402, .vpackExt (.ext (ext 8 2 3 0 12 0 0 0 0)))] : List (Nat × Instr)).all (fun p => both (wordsOf p.1 3) p.2) = true := by decide +kernel

/-- Extended words put together from the field maps of R62 and R66 and the opcode map of R77. -/
theorem test_extended_words_5 : ([
    (0xC0000000002080000002482, .vunpackExt (.ext (ext 8 2 0 0 12 0 0 0 0))),
    (0x90000000302080000002502, .vshflExt (.ext (ext 8 2 3 0 9 0 0 0 0))),
    (0x91000000302080000002582, .vbcast (ext 8 2 3 0 9 0 2 0 0)),
    (0x91000000302080000002602, .vrot (ext 8 2 3 0 9 0 2 0 0)),
    (0x91000000302080000002682, .vbfly (ext 8 2 3 0 9 0 2 0 0)),
    (0x90000000002080000002702, .vredExt (.ext (ext 8 2 0 0 9 0 0 0 0))),
    (0x2080000002782, .vballotExt (.ext (ext 8 2 0 0 0 0 0 0 0))),
    (0x90000000302080000002802, .vldExt (.ext (ext 8 2 3 0 9 0 0 0 0))),
    (0x90000000302080000002882, .vstExt (.ext (ext 8 2 3 0 9 0 0 0 0))),
    (0x94000020302080000002902, .vldw (ext 8 2 3 2 9 0 0 2 0)),
    (0x94000020302080000002982, .vstw (ext 8 2 3 2 9 0 0 2 0)),
    (0x90000000302080000002A02, .vldsExt (.ext (ext 8 2 3 0 9 0 0 0 0))),
    (0x90000000302080000002A82, .vstsExt (.ext (ext 8 2 3 0 9 0 0 0 0))),
    (0x94000020302080000002B02, .vldsw (ext 8 2 3 2 9 0 0 2 0)),
    (0x94000020302080000002B82, .vstsw (ext 8 2 3 2 9 0 0 2 0)),
    (0x91000000302080000002C02, .vldb (ext 8 2 3 0 9 0 2 0 0)),
    (0x8000000000000002C82, .fence (ext 0 0 0 0 0 0 0 0 8)),
    (0x90000050302080000002D02, .vaaddExt (.ext (ext 8 2 3 5 9 0 0 0 0))),
    (0x90000000302080000002D82, .vraddExt (.ext (ext 8 2 3 0 9 0 0 0 0))),
    (0x90000000302000000002E02, .vcmpS32Ext (.ext (ext 0 2 3 0 9 0 0 0 0))),
    (0xB0000000302000000002E82, .vcmpF32Ext (.ext (ext 0 2 3 0 11 0 0 0 0))),
    (0x302000000002F02, .vkopExt (.ext (ext 0 2 3 0 0 0 0 0 0))),
    (0x90000000002080000003302, .vclzExt (.ext (ext 8 2 0 0 9 0 0 0 0))),
    (0x90000000002080000003382, .vpopcExt (.ext (ext 8 2 0 0 9 0 0 0 0))),
    (0x90000000302080000003402, .vbfeExt (.ext (ext 8 2 3 0 9 0 0 0 0))),
    (0x90000050302080000003482, .vbfiExt (.ext (ext 8 2 3 5 9 0 0 0 0)))] : List (Nat × Instr)).all (fun p => both (wordsOf p.1 3) p.2) = true := by decide +kernel

/-- Extended words put together from the field maps of R62 and R66 and the opcode map of R77. -/
theorem test_extended_words_6 : ([
    (0x90000000302080000003502, .vmulhExt (.ext (ext 8 2 3 0 9 0 0 0 0))),
    (0x90000000302080000003582, .vaddsExt (.ext (ext 8 2 3 0 9 0 0 0 0))),
    (0x90000000302080000003602, .vsubsExt (.ext (ext 8 2 3 0 9 0 0 0 0))),
    (0x90008000002080000004882, .vcvt (ext 8 2 0 0 9 0 0 0 8)),
    (0x20000000302080000004902, .vquant (ext 8 2 3 0 2 0 0 0 0)),
    (0x20000000302080000004982, .vdequant (ext 8 2 3 0 2 0 0 0 0)),
    (0x91000000302080000004A02, .vext (ext 8 2 3 0 9 0 2 0 0)),
    (0x91000000302080000004A82, .vins (ext 8 2 3 0 9 0 2 0 0)),
    (0x90008000002080000004B02, .scvt (ext 8 2 0 0 9 0 0 0 8)),
    (0xB0000000002080000004B82, .vmant (ext 8 2 0 0 11 0 0 0 0)),
    (0xB0000000002080000004C02, .vexpo (ext 8 2 0 0 11 0 0 0 0)),
    (0x90000000002080000004C82, .vscan (ext 8 2 0 0 9 0 0 0 0)),
    (0x90000050302080000004D02, .vldnf (ext 8 2 3 5 9 0 0 0 0)),
    (0x91000000302000000004D82, .vldk (ext 0 2 3 0 9 0 2 0 0)),
    (0x91000000302000000004E02, .vstk (ext 0 2 3 0 9 0 2 0 0)),
    (0x302000000004E82, .vprf (ext 0 2 3 0 0 0 0 0 0)),
    (0x90000050302080000005002, .vamin (ext 8 2 3 5 9 0 0 0 0)),
    (0x90000050302080000005082, .vamax (ext 8 2 3 5 9 0 0 0 0)),
    (0x90000050302080000005102, .vaand (ext 8 2 3 5 9 0 0 0 0)),
    (0x90000050302080000005182, .vaor (ext 8 2 3 5 9 0 0 0 0)),
    (0x90000050302080000005202, .vaxor (ext 8 2 3 5 9 0 0 0 0)),
    (0x90000050302080000005282, .vaxch (ext 8 2 3 5 9 0 0 0 0)),
    (0x90000050302080000005302, .vacas (ext 8 2 3 5 9 0 0 0 0)),
    (0x90000000302080000005382, .vrmin (ext 8 2 3 0 9 0 0 0 0)),
    (0x90000000302080000005402, .vrmax (ext 8 2 3 0 9 0 0 0 0)),
    (0x94000000302080000005482, .vrbit (ext 8 2 3 0 9 0 0 2 0))] : List (Nat × Instr)).all (fun p => both (wordsOf p.1 3) p.2) = true := by decide +kernel

/-- Extended words put together from the field maps of R62 and R66 and the opcode map of R77. -/
theorem test_extended_words_7 : ([
    (0xB0000050302000000006002, .mmac (ext 0 2 3 5 11 0 0 0 0)),
    (0xB0000050302000000006082, .mgmac (ext 0 2 3 5 11 0 0 0 0)),
    (0xB0000000302000000006102, .mmaci (ext 0 2 3 0 11 0 0 0 0)),
    (0x2000000006182, .mcbload (ext 0 2 0 0 0 0 0 0 0)),
    (0xB0000000302000000006202, .msmx (ext 0 2 3 0 11 0 0 0 0)),
    (0xB0000000000000000006282, .msnorm (ext 0 0 0 0 11 0 0 0 0)),
    (0x400000002000000006302, .mclaim (ext 0 2 0 0 0 2 0 0 0)),
    (0x400000002000000006382, .mrel (ext 0 2 0 0 0 2 0 0 0)),
    (0x1000000302080000006402, .mfeed (ext 8 2 3 0 0 0 2 0 0)),
    (0xC0000000002080000006482, .mfeeda (ext 8 2 0 0 12 0 0 0 0)),
    (0xB0000000302000000006502, .mst (ext 0 2 3 0 11 0 0 0 0)),
    (0xB0000000002000000006582, .mld (ext 0 2 0 0 11 0 0 0 0)),
    (0x6602, .mzero (ext 0 0 0 0 0 0 0 0 0)),
    (0xB1000000302000000006682, .mpoly (ext 0 2 3 0 11 0 2 0 0)),
    (0xB0000000000000000006702, .miterG (ext 0 0 0 0 11 0 0 0 0)),
    (0xB0000000000000000006782, .miterS (ext 0 0 0 0 11 0 0 0 0)),
    (0x2000000006802, .mgang (ext 0 2 0 0 0 0 0 0 0)),
    (0x6882, .mgleave (ext 0 0 0 0 0 0 0 0 0)),
    (0xB0000000002080000006902, .mcoef (ext 8 2 0 0 11 0 0 0 0)),
    (0xB0000000002000000006982, .mscale (ext 0 2 0 0 11 0 0 0 0)),
    (0xB0000000002000000006A02, .mtrans (ext 0 2 0 0 11 0 0 0 0)),
    (0x400000002080000006A82, .mstat (ext 8 2 0 0 0 2 0 0 0)),
    (0x302080000007002, .xcopy (ext 8 2 3 0 0 0 0 0 0)),
    (0x302080000007082, .xcopy2 (ext 8 2 3 0 0 0 0 0 0)),
    (0x302080000007102, .xcopy3 (ext 8 2 3 0 0 0 0 0 0)),
    (0x302080000007182, .xgath (ext 8 2 3 0 0 0 0 0 0))] : List (Nat × Instr)).all (fun p => both (wordsOf p.1 3) p.2) = true := by decide +kernel

/-- Extended words put together from the field maps of R62 and R66 and the opcode map of R77. -/
theorem test_extended_words_8 : ([
    (0x302080000007202, .xscat (ext 8 2 3 0 0 0 0 0 0)),
    (0x302080000007282, .xslot (ext 8 2 3 0 0 0 0 0 0)),
    (0x90000000302080000007302, .xfill (ext 8 2 3 0 9 0 0 0 0)),
    (0x302000000007382, .xprf (ext 0 2 3 0 0 0 0 0 0)),
    (0x90000000302080000007402, .xred (ext 8 2 3 0 9 0 0 0 0)),
    (0x400000002080000007482, .xstat (ext 8 2 0 0 0 2 0 0 0)),
    (0x7502, .xcancel (ext 0 0 0 0 0 0 0 0 0)),
    (0x2010000007582, .xhand (ext 1 2 0 0 0 0 0 0 0)),
    (0x2080000007802, .hdist (ext 8 2 0 0 0 0 0 0 0)),
    (0x302080000007882, .hpin (ext 8 2 3 0 0 0 0 0 0)),
    (0x302000000007902, .hunpin (ext 0 2 3 0 0 0 0 0 0)),
    (0x50302000000007982, .hpre (ext 0 2 3 5 0 0 0 0 0)),
    (0x302000000007A02, .hdemote (ext 0 2 3 0 0 0 0 0 0)),
    (0x2080000007A82, .hocc (ext 8 2 0 0 0 0 0 0 0)),
    (0x2000000007C02, .pmake (ext 0 2 0 0 0 0 0 0 0)),
    (0x302000000007C82, .pfill (ext 0 2 3 0 0 0 0 0 0)),
    (0x302000000007D02, .peq (ext 0 2 3 0 0 0 0 0 0)),
    (0x2080000007D82, .pwait (ext 8 2 0 0 0 0 0 0 0)),
    (0x50002080000007E02, .ppoll (ext 8 2 0 5 0 0 0 0 0)),
    (0x2080000007E82, .pfind (ext 8 2 0 0 0 0 0 0 0)),
    (0x302080000008002, .lput (ext 8 2 3 0 0 0 0 0 0)),
    (0x302080000008082, .lget (ext 8 2 3 0 0 0 0 0 0)),
    (0x90000000302080000008102, .lallred (ext 8 2 3 0 9 0 0 0 0)),
    (0x302080000008182, .lallgat (ext 8 2 3 0 0 0 0 0 0)),
    (0x90000000302080000008202, .lredsc (ext 8 2 3 0 9 0 0 0 0)),
    (0x302080000008282, .lbcast (ext 8 2 3 0 0 0 0 0 0))] : List (Nat × Instr)).all (fun p => both (wordsOf p.1 3) p.2) = true := by decide +kernel

/-- An ill-formed term for each cause that well-formedness checks (R79): 8 a literal word whose Z is not 0, 2 SETF 13, 3 a type
that `sdiv` does not accept, 4 a source kind that `vbcast` forbids for its first source, 5 scalar register 64. -/
theorem test_ill_formed :
    wellFormedCause (.saddExt (.lit ⟨8, 2, 1, 0, 0⟩ 5)) = some 8 ∧ wellFormedCause (.sadd ⟨8, 2, 3, 0, 0⟩) = none ∧
    wellFormedCause (.sdiv { ext 8 2 3 0 9 0 0 0 0 with setf := 13 }) = some 2 ∧ wellFormedCause (.sdiv (ext 8 2 3 0 9 0 0 0 0)) = none ∧
    wellFormedCause (.sdiv (ext 8 2 3 0 11 0 0 0 0)) = some 3 ∧
    wellFormedCause (.vbcast (ext 8 2 3 0 9 2 2 0 0)) = some 4 ∧ wellFormedCause (.vbcast (ext 8 2 3 0 9 0 2 0 0)) = none ∧
    wellFormedCause (.sdiv (ext 64 2 3 0 9 0 0 0 0)) = some 5 := by decide +kernel

/-- The decoder refuses them with the same causes, zeroed code with cause 1 and a word cut short by the end with cause 7. -/
theorem test_decoder_refuses :
    decodeWords [0x20203A01#32, 5#32, 0#32] = .bad 1 ∧ decodeWords [0x20204A01#32, 5#32, 0#32] = .bad 8 ∧ decodeWords [0#32] = .bad 1 ∧
    decodeWords [0x01A04482#32, 0x03020800#32, 0x09000000#32] = .bad 2 ∧ decodeWords [0x00004482#32, 0x03020800#32, 0x0B000000#32] = .bad 3 ∧
    decodeWords [0x00004482#32, 0x03024000#32, 0x09000000#32] = .bad 5 ∧ decodeWords [0x10400A01#32] = .bad 7 := by decide +kernel

/-- The first step from reset with an instruction placed where it is fetched issues it: `nop`, a base word. -/
theorem test_first_step : (match step (State.reset.withFetchWord 32 0x80) with
    | .next t => t.turn == .issued
    | _ => false) = true := by decide +kernel

/-! ### Results of single steps, by hand from the rules -/

/-- What an instruction has yet to write after its issue. -/
def writesOf (i : Instr) (s : State) : List (Nat × WriteTo) :=
  match exec i s with
  | .next t => t.pend.map (fun p => (p.clk, p.dst))
  | _ => []

/-- The scalar it writes to s8, with the clk at whose end it does (R73). -/
def scalar8 (i : Instr) (a b : DWord) : List (Nat × DWord) :=
  (writesOf i (withS 2 a (withS 3 b (at10 .vector)))).filterMap (fun p => match p.2 with | .s 8 x => some (p.1, x) | _ => none)

/-- The value that it writes to lane 0 of v8 from lane 0 of v2, v3 and v5, the clk, and the lanes written. -/
def vector8 (i : Instr) (a b d : Word) : List (Nat × Nat × Word) :=
  (writesOf i (withGroup (fun g => { g with v := [(64, a), (96, b), (160, d), (256, d)] }) (at10 .vector))).filterMap (fun p =>
    match p.2 with | .v 8 ls => some (p.1, ls.length, ((ls.headD (0, 0, 0)).2.2)) | _ => none)

/-- The state after it, where there is one. -/
def after (i : Instr) (s : State) : State := match exec i s with | .next t => t | _ => s

def ty (t : Nat) : XWord := .ext (ext 8 2 3 0 t 0 0 0 0)

theorem test_sadd_wraps : scalar8 (.sadd ⟨8, 2, 3, 0, 0⟩) 0xFFFFFFFFFFFFFFFF 0x2 = [(11, 0x1)] := by decide +kernel
theorem test_sadd_narrow_signed : scalar8 (.saddExt (ty 4)) 0x7FFFFFFF 0x1 = [(11, 0xFFFFFFFF80000000)] := by decide +kernel
theorem test_ssub : scalar8 (.ssub ⟨8, 2, 3, 0, 0⟩) 0x4 0x100 = [(11, 0xFFFFFFFFFFFFFF04)] := by decide +kernel
theorem test_smul : scalar8 (.smul ⟨8, 2, 3, 0, 0⟩) 0xFFFFFFFFFFFFFFFD 0x5 = [(13, 0xFFFFFFFFFFFFFFF1)] := by decide +kernel
theorem test_smulh : scalar8 (.smulh (ext 8 2 3 0 5 0 0 0 0)) 0x4000000000000000 0x8 = [(13, 0x2)] := by decide +kernel
theorem test_sdiv_truncates : scalar8 (.sdiv (ext 8 2 3 0 5 0 0 0 0)) 0xFFFFFFFFFFFFFFF9 0x2 = [(33, 0xFFFFFFFFFFFFFFFD)] := by decide +kernel
theorem test_srem_sign : scalar8 (.srem (ext 8 2 3 0 5 0 0 0 0)) 0xFFFFFFFFFFFFFFF9 0x2 = [(33, 0xFFFFFFFFFFFFFFFF)] := by decide +kernel
theorem test_sdiv_by_zero : scalar8 (.sdiv (ext 8 2 3 0 10 0 0 0 0)) 0x7 0x0 = [(33, 0xFFFFFFFFFFFFFFFF)] := by decide +kernel
theorem test_sshr_copies_sign : scalar8 (.sshrExt (ty 5)) 0xFFFFFFFFFFFFFFF0 0x46 = [(11, 0xFFFFFFFFFFFFFFFF)] := by decide +kernel
theorem test_sshl_past_width : scalar8 (.sshl ⟨8, 2, 3, 0, 0⟩) 0x1 0x40 = [(11, 0x0)] := by decide +kernel
theorem test_smin : scalar8 (.smin ⟨8, 2, 3, 0, 0⟩) 0xFFFFFFFFFFFFFFFF 0x2 = [(11, 0xFFFFFFFFFFFFFFFF)] := by decide +kernel
theorem test_sclz : scalar8 (.sclz ⟨8, 2, 0, 0, 0⟩) 0x1 0x0 = [(11, 0x3F)] := by decide +kernel
theorem test_spopc : scalar8 (.spopc ⟨8, 2, 0, 0, 0⟩) 0xFF0F 0x0 = [(11, 0xC)] := by decide +kernel
theorem test_vadd_wraps : vector8 (.vaddS32 ⟨8, 2, 3, 0, 0⟩) 0x7FFFFFFF 1 0 = [(11, 32, 0x80000000)] := by decide +kernel
theorem test_vadds_saturates : vector8 (.vadds ⟨8, 2, 3, 0, 0⟩) 0x7FFFFFFF 1 0 = [(11, 32, 0x7FFFFFFF)] := by decide +kernel
theorem test_vmulh : vector8 (.vmulh ⟨8, 2, 3, 0, 0⟩) 0x40000000 8 0 = [(13, 32, 2)] := by decide +kernel
theorem test_vmad : vector8 (.vmad ⟨8, 2, 3, 0, 0⟩) 3 5 7 = [(13, 32, 22)] := by decide +kernel
theorem test_vand : vector8 (.vand ⟨8, 2, 3, 0, 0⟩) 0xFF00FF00 0x0FF00FF0 0 = [(11, 32, 0x0F000F00)] := by decide +kernel
theorem test_vshr_logical : vector8 (.vshr ⟨8, 2, 3, 0, 0⟩) 0x80000000 31 0 = [(11, 32, 1)] := by decide +kernel
theorem test_vdot4 : vector8 (.vdot4 ⟨8, 2, 3, 0, 0⟩) 0x01FF0203 0x02020202 1 = [(13, 32, 11)] := by decide +kernel
theorem test_vfma_rounds_once : vector8 (.vfma ⟨8, 2, 3, 0, 0⟩) 0x3FC00000 0x40000000 0x3E800000 = [(13, 32, 0x40500000)] := by decide +kernel
theorem test_vsub_f32 : vector8 (.vsubF32 ⟨8, 2, 3, 0, 0⟩) 0x3F800000 0x3F800000 0 = [(13, 32, 0)] := by decide +kernel
theorem test_vdiv_third : vector8 (.vdiv ⟨8, 2, 3, 0, 0⟩) 0x3F800000 0x40400000 0 = [(23, 32, 0x3EAAAAAB)] := by decide +kernel
theorem test_vsqrt_two : vector8 (.vsqrt ⟨8, 2, 0, 0, 0⟩) 0x40000000 0 0 = [(23, 32, 0x3FB504F3)] := by decide +kernel
theorem test_vdiv_by_zero : vector8 (.vdiv ⟨8, 2, 3, 0, 0⟩) 0xBF800000 0 0 = [(23, 32, 0xFF800000)] := by decide +kernel
theorem test_vclz : vector8 (.vclz ⟨8, 2, 0, 0, 0⟩) 1 0 0 = [(11, 32, 31)] := by decide +kernel
theorem test_vexp2_of_three : vector8 (.vexp2 ⟨8, 2, 0, 0, 0⟩) 0x40400000 0 0 = [(19, 32, 0x41000000)] := by decide +kernel
theorem test_vscale : vector8 (.vscale ⟨8, 2, 3, 0, 0⟩) 0x3FC00000 0xFFFFFFFF 0 = [(13, 32, 0x3F400000)] := by decide +kernel

/-- A taken branch goes to its target, 4 × 31 past the branch itself (R109, R111). -/
theorem test_branch_target :
    ((groupAt? (after (.br ⟨0, 0, 31, 0, 0⟩) (at10 .vector)) 0).map (fun g => g.splits.map (·.pc))) = some [124] := by decide +kernel

/-- `qpop` takes the oldest entry, 7, of the ring (R134). -/
theorem test_qpop_oldest :
    (writesOf (.qpop ⟨8, 1, 0, 0, 0⟩) (at10 .vector)).map (·.2) = [.s 8 7] := by decide +kernel

/-- A scratchpad store of lanes 0 to 31 at one address leaves the highest lane's word (R160). -/
theorem test_vsts_highest_lane :
    readNat (teamSpad (after (.vsts ⟨8, 2, 3, 0, 0⟩) (withGroup (fun g => { g with v := [(256, 1), (287, 0x11223344)] }) (at10 .vector))) 1) 256 4 =
      0x11223344 := by decide +kernel

/-- A trap stops its group with code 0x14 (R137). -/
theorem test_trap_stops :
    ((groupAt? (after (.trap (ext 0 2 0 0 0 2 0 0 0)) (at10 .vector)) 0).bind (fun g => g.stop)).map (fun r => r.entries.map (fun e => (e.code, e.detail))) =
      some [(0x14, 2)] := by decide +kernel

/-- `bar.arrive` sets ARV and notes the phase (R129). -/
theorem test_arrival_bits :
    ((groupAt? (after (.barArrive ⟨0, 0, 0, 0, 0⟩) (at10 .vector)) 0).map (fun g => g.bars)) = some [(0, ⟨true, false, false⟩)] := by decide +kernel

/-! ### What meets the statements' hypotheses -/

/-- For each clause of `ScalarArithmeticCompletes`: a group in front of the instruction that meets its condition. -/
theorem witness_scalar_arithmetic :
    ([(.sadd, .ext (ext 8 2 3 0 9 0 0 0 0)), (.sadd, .base ⟨8, 2, 3, 0, 0⟩), (.ssub, .ext (ext 8 2 3 0 9 0 0 0 0)), (.ssub, .base ⟨8, 2, 3, 0, 0⟩), (.smul, .ext (ext 8 2 3 0 9 0 0 0 0)), (.smul, .base ⟨8, 2, 3, 0, 0⟩), (.smulh, .ext (ext 8 2 3 0 9 0 0 0 0)), (.sand, .ext (ext 8 2 3 0 9 0 0 0 0)), (.sand, .base ⟨8, 2, 3, 0, 0⟩), (.sor, .ext (ext 8 2 3 0 9 0 0 0 0)), (.sor, .base ⟨8, 2, 3, 0, 0⟩), (.sxor, .ext (ext 8 2 3 0 9 0 0 0 0)), (.sxor, .base ⟨8, 2, 3, 0, 0⟩), (.sshl, .ext (ext 8 2 3 0 9 0 0 0 0)), (.sshl, .base ⟨8, 2, 3, 0, 0⟩), (.sshr, .ext (ext 8 2 3 0 9 0 0 0 0)), (.sshr, .base ⟨8, 2, 3, 0, 0⟩), (.smin, .ext (ext 8 2 3 0 9 0 0 0 0)), (.smin, .base ⟨8, 2, 3, 0, 0⟩), (.smax, .ext (ext 8 2 3 0 9 0 0 0 0)), (.smax, .base ⟨8, 2, 3, 0, 0⟩), (.sdiv, .ext (ext 8 2 3 0 9 0 0 0 0)), (.srem, .ext (ext 8 2 3 0 9 0 0 0 0)), (.smov, .ext (ext 8 2 0 0 9 0 0 0 0)), (.smov, .base ⟨8, 2, 0, 0, 0⟩)] : List (Op × Word3)).all (fun p => meets (fun _ _ => true) (at10 .vector) p.1 p.2) = true := by decide +kernel

/-- For each clause of `ScalarRestCompletes`: a group in front of the instruction that meets its condition. -/
theorem witness_scalar_rest :
    ([(.sclz, .ext (ext 8 2 0 0 9 0 0 0 0)), (.sclz, .base ⟨8, 2, 0, 0, 0⟩), (.spopc, .ext (ext 8 2 0 0 9 0 0 0 0)), (.spopc, .base ⟨8, 2, 0, 0, 0⟩), (.scmp, .ext (ext 8 2 3 0 9 0 0 0 0)), (.scmp, .base ⟨8, 2, 3, 0, 0⟩), (.ssel, .ext (ext 8 2 3 5 9 0 0 0 0)), (.ssel, .base ⟨8, 2, 3, 0, 0⟩), (.slea, .ext (ext 8 2 3 0 9 0 0 0 0)), (.slea, .base ⟨8, 2, 3, 0, 0⟩), (.sbfe, .ext (ext 8 2 3 0 10 0 0 0 0)), (.sbfe, .base ⟨8, 2, 3, 0, 0⟩), (.sbfi, .ext (ext 8 2 3 5 10 0 0 0 0)), (.sbfi, .base ⟨8, 2, 3, 0, 0⟩), (.gstat, .ext (ext 8 2 0 0 0 2 0 0 0)), (.scvt, .ext (ext 8 2 0 0 9 0 0 0 8)), (.vballot, .ext (ext 8 2 0 0 0 0 0 0 0)), (.vballot, .base ⟨8, 2, 0, 0, 0⟩), (.vext, .ext (ext 8 2 3 0 9 0 2 0 0)), (.vred, .ext (ext 8 2 0 0 9 0 0 0 0)), (.vred, .base ⟨8, 2, 0, 0, 0⟩)] : List (Op × Word3)).all (fun p => meets (fun _ _ => true) (at10 .vector) p.1 p.2) = true ∧
    meets (fun c _ => c.f.d == 0x49) (at10 .vector) .sspr (.ext (ext 0x49 2 0 0 0 0 0 0 0)) = true ∧
    meets (fun c s => c.f.d == 0x46 && decide (1 ≤ (srcS s c 1).toNat ∧ (srcS s c 1).toNat ≤ 255)) (at10 .vector) .sspr (.ext (ext 0x46 3 0 0 0 0 0 0 0)) = true ∧
    meets (fun c s => c.f.d == 0x47 && resOk ((srcS s c 1).setWidth 32)) (at10 .vector) .sspr (.ext (ext 0x47 3 0 0 0 0 0 0 0)) = true := by decide +kernel

/-- For each clause of `BranchesComplete`: a group in front of the instruction that meets its condition. -/
theorem witness_branches :
    ([(.nop, .ext (ext 0 0 0 0 0 0 0 0 0)), (.nop, .base ⟨0, 0, 0, 0, 0⟩), (.br, .ext (ext 0 2 3 5 0 0 0 0 0)), (.br, .base ⟨0, 2, 3, 0, 0⟩), (.brZ, .ext (ext 8 2 3 5 0 0 0 0 0)), (.brZ, .base ⟨8, 2, 3, 0, 0⟩), (.brNz, .ext (ext 8 2 3 5 0 0 0 0 0)), (.brNz, .base ⟨8, 2, 3, 0, 0⟩), (.brLz, .ext (ext 8 2 3 5 0 0 0 0 0)), (.brLz, .base ⟨8, 2, 3, 0, 0⟩), (.brGez, .ext (ext 8 2 3 5 0 0 0 0 0)), (.brGez, .base ⟨8, 2, 3, 0, 0⟩), (.brAny, .ext (ext 0 2 3 5 0 0 0 0 0)), (.brAll, .ext (ext 0 2 3 5 0 0 0 0 0)), (.brx, .ext (ext 0 2 0 0 0 0 0 0 0)), (.brx, .base ⟨0, 2, 0, 0, 0⟩), (.ret, .ext (ext 0 2 0 0 0 0 0 0 0)), (.ret, .base ⟨0, 2, 0, 0, 0⟩), (.call, .ext (ext 8 2 3 5 0 0 0 0 0)), (.call, .base ⟨8, 2, 3, 0, 0⟩), (.callx, .ext (ext 8 2 0 0 0 0 0 0 0)), (.callx, .base ⟨8, 2, 0, 0, 0⟩)] : List (Op × Word3)).all (fun p => meets (fun _ _ => true) (at10 .vector) p.1 p.2) = true := by decide +kernel

/-- For each clause of `GroupControlCompletes`: a group in front of the instruction that meets its condition. -/
theorem witness_group_control :
    ([(.yield, .ext (ext 0 0 0 0 0 0 0 0 0)), (.yield, .base ⟨0, 0, 0, 0, 0⟩), (.split, .ext (ext 0 0 0 0 0 0 0 0 0)), (.split, .base ⟨0, 0, 0, 0, 0⟩), (.sleep, .ext (ext 0 2 0 0 0 0 0 0 0))] : List (Op × Word3)).all (fun p => meets (fun _ _ => true) (at10 .vector) p.1 p.2) = true ∧
    meets (fun c _ => !c.g.callee) (at10 .vector) .exit (.ext (ext 0 0 0 0 0 0 0 0 0)) = true ∧
    meets (fun c _ => !c.g.callee) (at10 .vector) .exit (.base ⟨0, 0, 0, 0, 0⟩) = true ∧
    meets (fun c s => !c.g.callee && (teamAt? s c.g.team).any (fun t => t.callees != [])) (at10 .vector) .callv (.ext (ext 0 2 0 0 0 0 0 0 0)) = true ∧
    meets (fun c _ => c.g.callee) (inCallee (at10 .vector)) .retv (.ext (ext 0 0 0 0 0 0 0 0 0)) = true ∧
    meets (fun c _ => c.g.splits.length == 1 && c.sp.mask == 0xFFFFFFFF && c.sp.arms.isEmpty) (at10 .vector) .migrate (.ext (ext 0 2 0 0 0 0 0 0 0)) = true := by decide +kernel

/-- For each clause of `BarriersComplete`: a group in front of the instruction that meets its condition. -/
theorem witness_barriers :
    meets (fun c s => barCheck s c == none && !(bitsNow s c (barKey c)).arv && !(bitsNow s c (barKey c)).drop) (at10 .vector) .barArrive (.ext (ext 0 0 0 0 0 0 0 0 0)) = true ∧
    meets (fun c s => barCheck s c == none && !(bitsNow s c (barKey c)).arv && !(bitsNow s c (barKey c)).drop) (at10 .vector) .barArrive (.base ⟨0, 0, 0, 0, 0⟩) = true ∧
    meets (fun c s => barCheck s c == none && !(bitsNow s c (barKey c)).arv && !(bitsNow s c (barKey c)).drop) (at10 .vector) .barSync (.ext (ext 0 0 0 0 0 0 0 0 0)) = true ∧
    meets (fun c s => barCheck s c == none && !(bitsNow s c (barKey c)).arv && !(bitsNow s c (barKey c)).drop) (at10 .vector) .barSync (.base ⟨0, 0, 0, 0, 0⟩) = true ∧
    meets (fun c s => barCheck s c == none && (bitsNow s c (barKey c)).arv && barPhase s c.g (barKey c) != (bitsNow s c (barKey c)).aph) (withBits ⟨true, true, false⟩ (at10 .vector)) .barWait (.ext (ext 0 0 0 0 0 0 0 0 0)) = true ∧
    meets (fun c s => barCheck s c == none && (bitsNow s c (barKey c)).arv && barPhase s c.g (barKey c) != (bitsNow s c (barKey c)).aph) (withBits ⟨true, true, false⟩ (at10 .vector)) .barWait (.base ⟨0, 0, 0, 0, 0⟩) = true ∧
    meets (fun c s => barCheck s c == none && !(bitsNow s c (barKey c)).drop) (at10 .vector) .barDrop (.ext (ext 0 0 0 0 0 0 0 0 0)) = true ∧
    meets (fun c s => barCheck s c == none && !(bitsNow s c (barKey c)).drop) (at10 .vector) .barDrop (.base ⟨0, 0, 0, 0, 0⟩) = true ∧
    meets (fun c _ => !c.g.callee) (at10 .vector) .barTest (.ext (ext 8 2 0 0 0 0 0 0 0)) = true ∧
    meets (fun c s => !c.g.callee && (addPend s c.g.team c.f.d.toNat (intOf true 32 (srcS s c 1).toNat)).isSome) (at10 .vector) .barAdd (.ext (ext 0 2 0 0 0 0 0 0 0)) = true := by decide +kernel

/-- For each clause of `RingsComplete`: a group in front of the instruction that meets its condition. -/
theorem witness_rings :
    meets (fun c s => (ringOf? s c.g.team c.f.d.toNat).any (fun r => decide (r.start + r.pushed + 1 ≤ r.depth)) && !(s.cmds.any (fun x => x.uid == c.g.uid && x.op == .xhand && x.f.d.toNat == c.f.d.toNat))) (at10 .vector) .qpush (.ext (ext 1 2 0 0 0 0 0 0 0)) = true ∧
    meets (fun c s => (ringOf? s c.g.team c.f.d.toNat).any (fun r => decide (r.start + r.pushed + 1 ≤ r.depth)) && !(s.cmds.any (fun x => x.uid == c.g.uid && x.op == .xhand && x.f.d.toNat == c.f.d.toNat))) (at10 .vector) .qpush (.base ⟨1, 2, 0, 0, 0⟩) = true ∧
    meets (fun c s => (ringOf? s c.g.team c.f.d.toNat).any (fun r => decide (r.start + r.pushed + (imm8 c.f.sb).toNat ≤ r.depth)) && !(s.cmds.any (fun x => x.uid == c.g.uid && x.op == .xhand && x.f.d.toNat == c.f.d.toNat))) (at10 .vector) .qpushn (.ext (ext 1 2 2 0 0 0 2 0 0)) = true ∧
    meets (fun c s => (ringOf? s c.g.team c.f.sa.toNat).any (fun r => decide (r.popped + 1 ≤ r.start) && decide (1 ≤ r.depth))) (at10 .vector) .qpop (.ext (ext 8 1 0 0 0 0 0 0 0)) = true ∧
    meets (fun c s => (ringOf? s c.g.team c.f.sa.toNat).any (fun r => decide (r.popped + 1 ≤ r.start) && decide (1 ≤ r.depth))) (at10 .vector) .qpop (.base ⟨8, 1, 0, 0, 0⟩) = true ∧
    meets (fun c s => (ringOf? s c.g.team c.f.sa.toNat).any (fun r => decide (r.popped + (imm8 c.f.sb).toNat ≤ r.start) && decide ((imm8 c.f.sb).toNat ≤ r.depth))) (at10 .vector) .qpopn (.ext (ext 8 1 2 0 0 0 2 0 0)) = true ∧
    meets (fun _ _ => true) (at10 .vector) .qlen (.ext (ext 8 1 0 0 0 0 0 0 0)) = true ∧
    meets (fun c s => (ringOf? s c.g.team c.f.sa.toNat).any (fun r => r.start != 0)) (at10 .vector) .qpeek (.ext (ext 8 1 0 0 0 0 0 0 0)) = true := by decide +kernel

/-- For each clause of `VectorIntegersComplete`: a group in front of the instruction that meets its condition. -/
theorem witness_vector_integers :
    ([(.vaddS32, .ext (ext 8 2 3 0 9 0 0 0 0)), (.vaddS32, .base ⟨8, 2, 3, 0, 0⟩), (.vsubS32, .ext (ext 8 2 3 0 9 0 0 0 0)), (.vsubS32, .base ⟨8, 2, 3, 0, 0⟩), (.vmulS32, .ext (ext 8 2 3 0 9 0 0 0 0)), (.vmulS32, .base ⟨8, 2, 3, 0, 0⟩), (.vmulh, .ext (ext 8 2 3 0 9 0 0 0 0)), (.vmulh, .base ⟨8, 2, 3, 0, 0⟩), (.vmad, .ext (ext 8 2 3 5 9 0 0 0 0)), (.vmad, .base ⟨8, 2, 3, 0, 0⟩), (.vand, .ext (ext 8 2 3 0 9 0 0 0 0)), (.vand, .base ⟨8, 2, 3, 0, 0⟩), (.vor, .ext (ext 8 2 3 0 9 0 0 0 0)), (.vor, .base ⟨8, 2, 3, 0, 0⟩), (.vxor, .ext (ext 8 2 3 0 9 0 0 0 0)), (.vxor, .base ⟨8, 2, 3, 0, 0⟩), (.vshl, .ext (ext 8 2 3 0 9 0 0 0 0)), (.vshl, .base ⟨8, 2, 3, 0, 0⟩), (.vshr, .ext (ext 8 2 3 0 9 0 0 0 0)), (.vshr, .base ⟨8, 2, 3, 0, 0⟩), (.vminS32, .ext (ext 8 2 3 0 9 0 0 0 0)), (.vminS32, .base ⟨8, 2, 3, 0, 0⟩), (.vmaxS32, .ext (ext 8 2 3 0 9 0 0 0 0)), (.vmaxS32, .base ⟨8, 2, 3, 0, 0⟩), (.vabsS32, .ext (ext 8 2 0 0 4 0 0 0 0)), (.vabsS32, .base ⟨8, 2, 0, 0, 0⟩), (.vnegS32, .ext (ext 8 2 0 0 4 0 0 0 0)), (.vnegS32, .base ⟨8, 2, 0, 0, 0⟩), (.vadds, .ext (ext 8 2 3 0 9 0 0 0 0)), (.vadds, .base ⟨8, 2, 3, 0, 0⟩), (.vsubs, .ext (ext 8 2 3 0 9 0 0 0 0)), (.vsubs, .base ⟨8, 2, 3, 0, 0⟩), (.vsel, .ext (ext 8 2 3 5 9 0 0 0 0)), (.vsel, .base ⟨8, 2, 3, 0, 0⟩), (.vmov, .ext (ext 8 2 0 0 9 0 0 0 0)), (.vmov, .base ⟨8, 2, 0, 0, 0⟩), (.vclz, .ext (ext 8 2 0 0 9 0 0 0 0)), (.vclz, .base ⟨8, 2, 0, 0, 0⟩), (.vpopc, .ext (ext 8 2 0 0 9 0 0 0 0)), (.vpopc, .base ⟨8, 2, 0, 0, 0⟩), (.vdot4, .ext (ext 8 2 3 5 2 0 0 0 0)), (.vdot4, .base ⟨8, 2, 3, 0, 0⟩), (.vbfe, .ext (ext 8 2 3 0 9 0 0 0 0)), (.vbfe, .base ⟨8, 2, 3, 0, 0⟩), (.vbfi, .ext (ext 8 2 3 5 9 0 0 0 0)), (.vbfi, .base ⟨8, 2, 3, 0, 0⟩)] : List (Op × Word3)).all (fun p => meets (fun _ _ => true) (at10 .vector) p.1 p.2) = true := by decide +kernel

/-- For each clause of `VectorFloatsComplete`: a group in front of the instruction that meets its condition. -/
theorem witness_vector_floats :
    ([(.vaddF32, .ext (ext 8 2 3 0 11 0 0 0 0)), (.vaddF32, .base ⟨8, 2, 3, 0, 0⟩), (.vsubF32, .ext (ext 8 2 3 0 11 0 0 0 0)), (.vsubF32, .base ⟨8, 2, 3, 0, 0⟩), (.vmulF32, .ext (ext 8 2 3 0 11 0 0 0 0)), (.vmulF32, .base ⟨8, 2, 3, 0, 0⟩), (.vfma, .ext (ext 8 2 3 5 11 0 0 0 0)), (.vfma, .base ⟨8, 2, 3, 0, 0⟩), (.vfms, .ext (ext 8 2 3 5 11 0 0 0 0)), (.vfms, .base ⟨8, 2, 3, 0, 0⟩), (.vfnma, .ext (ext 8 2 3 5 11 0 0 0 0)), (.vfnma, .base ⟨8, 2, 3, 0, 0⟩), (.vminF32, .ext (ext 8 2 3 0 11 0 0 0 0)), (.vminF32, .base ⟨8, 2, 3, 0, 0⟩), (.vmaxF32, .ext (ext 8 2 3 0 11 0 0 0 0)), (.vmaxF32, .base ⟨8, 2, 3, 0, 0⟩), (.vabsF32, .ext (ext 8 2 0 0 11 0 0 0 0)), (.vabsF32, .base ⟨8, 2, 0, 0, 0⟩), (.vnegF32, .ext (ext 8 2 0 0 11 0 0 0 0)), (.vnegF32, .base ⟨8, 2, 0, 0, 0⟩), (.vdiv, .ext (ext 8 2 3 0 11 0 0 0 0)), (.vdiv, .base ⟨8, 2, 3, 0, 0⟩), (.vsqrt, .ext (ext 8 2 0 0 11 0 0 0 0)), (.vsqrt, .base ⟨8, 2, 0, 0, 0⟩), (.vrint, .ext (ext 8 2 0 0 11 0 0 0 0)), (.vrint, .base ⟨8, 2, 0, 0, 0⟩), (.vscale, .ext (ext 8 2 3 0 11 0 0 0 0)), (.vscale, .base ⟨8, 2, 3, 0, 0⟩), (.vexpo, .ext (ext 8 2 0 0 11 0 0 0 0)), (.vmant, .ext (ext 8 2 0 0 11 0 0 0 0)), (.vrcp, .ext (ext 8 2 0 0 11 0 0 0 0)), (.vrcp, .base ⟨8, 2, 0, 0, 0⟩), (.vrsqrt, .ext (ext 8 2 0 0 11 0 0 0 0)), (.vrsqrt, .base ⟨8, 2, 0, 0, 0⟩), (.vexp2, .ext (ext 8 2 0 0 11 0 0 0 0)), (.vexp2, .base ⟨8, 2, 0, 0, 0⟩), (.vlog2, .ext (ext 8 2 0 0 11 0 0 0 0)), (.vlog2, .base ⟨8, 2, 0, 0, 0⟩), (.vexp, .ext (ext 8 2 0 0 11 0 0 0 0)), (.vexp, .base ⟨8, 2, 0, 0, 0⟩), (.vlog, .ext (ext 8 2 0 0 11 0 0 0 0)), (.vlog, .base ⟨8, 2, 0, 0, 0⟩), (.vsin, .ext (ext 8 2 0 0 11 0 0 0 0)), (.vsin, .base ⟨8, 2, 0, 0, 0⟩), (.vcos, .ext (ext 8 2 0 0 11 0 0 0 0)), (.vcos, .base ⟨8, 2, 0, 0, 0⟩), (.vtanh, .ext (ext 8 2 0 0 11 0 0 0 0)), (.vtanh, .base ⟨8, 2, 0, 0, 0⟩), (.vsigm, .ext (ext 8 2 0 0 11 0 0 0 0)), (.vsigm, .base ⟨8, 2, 0, 0, 0⟩)] : List (Op × Word3)).all (fun p => meets (fun _ _ => true) (at10 .vector) p.1 p.2) = true := by decide +kernel

/-- For each clause of `ConversionsAndLanesComplete`: a group in front of the instruction that meets its condition. -/
theorem witness_conversions_and_lanes :
    ([(.vcvt, .ext (ext 8 2 0 0 9 0 0 0 8)), (.vquant, .ext (ext 8 2 3 0 2 0 0 0 0)), (.vdequant, .ext (ext 8 2 3 0 2 0 0 0 0)), (.vpack, .ext (ext 8 2 3 0 12 0 0 0 0)), (.vpack, .base ⟨8, 2, 3, 0, 0⟩), (.vunpack, .ext (ext 8 2 0 0 12 0 0 0 0)), (.vunpack, .base ⟨8, 2, 0, 0, 0⟩), (.vshfl, .ext (ext 8 2 3 0 9 0 0 0 0)), (.vshfl, .base ⟨8, 2, 3, 0, 0⟩), (.vbcast, .ext (ext 8 2 3 0 9 0 2 0 0)), (.vrot, .ext (ext 8 2 3 0 9 0 2 0 0)), (.vbfly, .ext (ext 8 2 3 0 9 0 2 0 0)), (.vscan, .ext (ext 8 2 0 0 9 0 0 0 0)), (.vins, .ext (ext 8 2 3 0 9 0 2 0 0)), (.vcmpS32, .ext (ext 0 2 3 0 9 0 0 0 0)), (.vcmpS32, .base ⟨0, 2, 3, 0, 0⟩), (.vcmpF32, .ext (ext 0 2 3 0 11 0 0 0 0)), (.vcmpF32, .base ⟨0, 2, 3, 0, 0⟩), (.vkop, .ext (ext 0 2 3 0 0 0 0 0 0)), (.vkop, .base ⟨0, 2, 3, 0, 0⟩)] : List (Op × Word3)).all (fun p => meets (fun _ _ => true) (at10 .vector) p.1 p.2) = true := by decide +kernel

/-- For each clause of `ScratchpadCompletes`: a group in front of the instruction that meets its condition. -/
theorem witness_scratchpad :
    meets (fun c s => spadCheck s c (spadAccs s c true) (accSize c.op c.f) false == none) (at10 .vector) .vlds (.ext (ext 8 2 3 0 9 0 0 0 0)) = true ∧
    meets (fun c s => spadCheck s c (spadAccs s c true) (accSize c.op c.f) false == none) (at10 .vector) .vlds (.base ⟨8, 2, 3, 0, 0⟩) = true ∧
    meets (fun c s => spadCheck s c (spadAccs s c true) (accSize c.op c.f) false == none) (at10 .vector) .vldsw (.ext (ext 8 2 3 2 9 0 0 2 0)) = true ∧
    meets (fun c s => spadCheck s c (spadAccs s c true) (accSize c.op c.f) true == none) (at10 .vector) .vsts (.ext (ext 8 2 3 0 9 0 0 0 0)) = true ∧
    meets (fun c s => spadCheck s c (spadAccs s c true) (accSize c.op c.f) true == none) (at10 .vector) .vsts (.base ⟨8, 2, 3, 0, 0⟩) = true ∧
    meets (fun c s => spadCheck s c (spadAccs s c true) (accSize c.op c.f) true == none) (at10 .vector) .vstsw (.ext (ext 8 2 3 2 9 0 0 2 0)) = true ∧
    meets (fun c s => spadCheck s c (maskAccs s c) 4 false == none) (at10 .vector) .vldk (.ext (ext 0 2 4 0 9 0 2 0 0)) = true ∧
    meets (fun c s => spadCheck s c (maskAccs s c) 4 true == none) (at10 .vector) .vstk (.ext (ext 0 2 4 0 9 0 2 0 0)) = true := by decide +kernel

/-- For each clause of `GlobalMemoryCompletes`: a group in front of the instruction that meets its condition. -/
theorem witness_global_memory :
    meets (fun c s => globalMis true c s == [] && !(releaseHolds (.load false) c s)) (at10 .vector) .vld (.ext (ext 8 2 3 0 9 0 0 0 0)) = true ∧
    meets (fun c s => globalMis true c s == [] && !(releaseHolds (.load false) c s)) (at10 .vector) .vld (.base ⟨8, 2, 3, 0, 0⟩) = true ∧
    meets (fun c s => globalMis true c s == [] && !(releaseHolds (.load false) c s)) (at10 .vector) .vldw (.ext (ext 8 2 3 2 9 0 0 2 0)) = true ∧
    meets (fun c s => globalMis false c s == [] && !(releaseHolds (.load false) c s)) (at10 .vector) .vldb (.ext (ext 8 2 4 0 9 0 2 0 0)) = true ∧
    meets (fun c s => globalMis true c s == [] && !(releaseHolds (.load true) c s)) (at10 .vector) .vldnf (.ext (ext 8 2 3 5 9 0 0 0 0)) = true ∧
    meets (fun c s => globalMis true c s == [] && !(releaseHolds .store c s)) (at10 .vector) .vst (.ext (ext 8 2 3 0 9 0 0 0 0)) = true ∧
    meets (fun c s => globalMis true c s == [] && !(releaseHolds .store c s)) (at10 .vector) .vst (.base ⟨8, 2, 3, 0, 0⟩) = true ∧
    meets (fun c s => globalMis true c s == [] && !(releaseHolds .store c s)) (at10 .vector) .vstw (.ext (ext 8 2 3 2 9 0 0 2 0)) = true ∧
    meets (fun c s => globalMis true c s == [] && !(releaseHolds .prefetch c s)) (at10 .vector) .vprf (.ext (ext 0 2 3 0 0 0 0 0 0)) = true ∧
    meets (fun c s => globalMis true c s == [] && !(releaseHolds .atomic c s)) (at10 .vector) .vaadd (.ext (ext 8 2 3 5 9 0 0 0 0)) = true ∧
    meets (fun c s => globalMis true c s == [] && !(releaseHolds .atomic c s)) (at10 .vector) .vaadd (.base ⟨8, 2, 3, 0, 0⟩) = true ∧
    meets (fun c s => globalMis true c s == [] && !(releaseHolds .atomic c s)) (at10 .vector) .vamin (.ext (ext 8 2 3 5 9 0 0 0 0)) = true ∧
    meets (fun c s => globalMis true c s == [] && !(releaseHolds .atomic c s)) (at10 .vector) .vamax (.ext (ext 8 2 3 5 9 0 0 0 0)) = true ∧
    meets (fun c s => globalMis true c s == [] && !(releaseHolds .atomic c s)) (at10 .vector) .vaand (.ext (ext 8 2 3 5 9 0 0 0 0)) = true ∧
    meets (fun c s => globalMis true c s == [] && !(releaseHolds .atomic c s)) (at10 .vector) .vaor (.ext (ext 8 2 3 5 9 0 0 0 0)) = true ∧
    meets (fun c s => globalMis true c s == [] && !(releaseHolds .atomic c s)) (at10 .vector) .vaxor (.ext (ext 8 2 3 5 9 0 0 0 0)) = true ∧
    meets (fun c s => globalMis true c s == [] && !(releaseHolds .atomic c s)) (at10 .vector) .vaxch (.ext (ext 8 2 3 5 9 0 0 0 0)) = true ∧
    meets (fun c s => globalMis true c s == [] && !(releaseHolds .atomic c s)) (at10 .vector) .vacas (.ext (ext 8 2 3 5 9 0 0 0 0)) = true ∧
    meets (fun c s => globalMis true c s == [] && !(releaseHolds .reduce c s)) (at10 .vector) .vradd (.ext (ext 8 2 3 0 9 0 0 0 0)) = true ∧
    meets (fun c s => globalMis true c s == [] && !(releaseHolds .reduce c s)) (at10 .vector) .vradd (.base ⟨8, 2, 3, 0, 0⟩) = true ∧
    meets (fun c s => globalMis true c s == [] && !(releaseHolds .reduce c s)) (at10 .vector) .vrmin (.ext (ext 8 2 3 0 9 0 0 0 0)) = true ∧
    meets (fun c s => globalMis true c s == [] && !(releaseHolds .reduce c s)) (at10 .vector) .vrmax (.ext (ext 8 2 3 0 9 0 0 0 0)) = true ∧
    meets (fun c s => globalMis true c s == [] && !(releaseHolds .reduce c s)) (at10 .vector) .vrbit (.ext (ext 8 2 3 0 9 0 0 2 0)) = true ∧
    meets (fun _ _ => true) (at10 .vector) .fence (.ext (ext 0 0 0 0 0 0 0 0 8)) = true := by decide +kernel

/-- For each clause of `SystemCompletes`: a group in front of the instruction that meets its condition. -/
theorem witness_system :
    ([(.trap, .ext (ext 0 2 0 0 0 0 0 0 0)), (.brk, .ext (ext 0 0 0 0 0 0 0 0 0)), (.mark, .ext (ext 0 2 0 0 0 0 0 0 0)), (.evt, .ext (ext 0 2 3 0 0 2 0 0 0)), (.opt, .ext (ext 0 2 0 0 0 2 0 0 0)), (.prio, .ext (ext 0 2 0 0 0 2 0 0 0)), (.launch, .ext (ext 8 2 0 0 0 0 0 0 0)), (.launchWait, .ext (ext 8 2 0 0 0 0 0 0 0))] : List (Op × Word3)).all (fun p => meets (fun _ _ => true) (at10 .vector) p.1 p.2) = true ∧
    meets (fun c _ => (match c.g.splits with | [sp] => sp.arms.isEmpty | _ => false)) (at10 .vector) .rgn (.ext (ext 0 0 0 0 0 0 0 0 0)) = true := by decide +kernel

/-- For each clause of `MatrixArrayCompletes`: a group in front of the instruction that meets its condition. -/
theorem witness_matrix_array :
    meets (fun c s => c.sel == 0xFFFFFFFF && slotHeld s c.g.core c.f.sa.toNat c.g.slot && slotHeld s c.g.core c.f.sb.toNat c.g.slot && (pairCheck s c).toOption == some (macBlocks s c) && macShape c (blocksOf (macBlocks s c)).1 (blocksOf (macBlocks s c)).2 == none && arrayRoom s c && (macSlots c.f (macBlocks s c)).all (fun o => slotHeld s c.g.core o c.g.slot && fdClear s c.g.core o)) (at10 .matrix) .mmac (.ext (ext 0 2 3 5 14 0 0 0 1)) = true ∧
    meets (fun c s => c.sel == 0xFFFFFFFF && arrayRoom s c && c.f.d != c.f.sa && c.f.d != c.f.sb) (at10 .matrix) .mmaci (.ext (ext 0 2 3 0 11 0 0 0 0)) = true ∧
    meets (fun c s => c.sel == 0xFFFFFFFF && arrayRoom s c && rangeCheck s c 4 true [((srcS s c 1).toNat, xferBytes c.f c.op)] == none) (at10 .matrix) .mcbload (.ext (ext 0 2 0 0 0 0 0 0 0)) = true ∧
    meets (fun c s => c.sel == 0xFFFFFFFF && arrayRoom s c && c.f.d.toNat / 2 == c.f.sa.toNat / 2 && c.f.d != c.f.sa) (at10 .matrix) .msmx (.ext (ext 3 2 3 0 11 0 0 0 0)) = true ∧
    meets (fun c s => c.sel == 0xFFFFFFFF && arrayRoom s c) (at10 .matrix) .msnorm (.ext (ext 0 0 0 0 11 0 0 0 0)) = true ∧
    meets (fun c s => c.sel == 0xFFFFFFFF && arrayRoom s c && rangeCheck s c 4 true [((srcS s c 1).toNat, xferBytes c.f c.op)] == none) (at10 .matrix) .mst (.ext (ext 0 2 3 0 11 0 0 0 0)) = true ∧
    meets (fun c s => c.sel == 0xFFFFFFFF && arrayRoom s c && rangeCheck s c 4 false [((srcS s c 1).toNat, xferBytes c.f c.op)] == none) (at10 .matrix) .mld (.ext (ext 0 2 0 0 11 0 0 0 0)) = true ∧
    meets (fun c s => c.sel == 0xFFFFFFFF && arrayRoom s c) (at10 .matrix) .mzero (.ext (ext 0 0 0 0 0 0 0 0 0)) = true ∧
    meets (fun c s => c.sel == 0xFFFFFFFF && arrayRoom s c) (at10 .matrix) .mscale (.ext (ext 0 2 0 0 11 0 0 0 0)) = true ∧
    meets (fun c s => c.sel == 0xFFFFFFFF && arrayRoom s c) (at10 .matrix) .mtrans (.ext (ext 0 2 0 0 11 0 0 0 0)) = true ∧
    meets (fun c s => c.sel == 0xFFFFFFFF && arrayRoom s c) (at10 .matrix) .mstat (.ext (ext 8 2 0 0 0 2 0 0 0)) = true ∧
    meets (fun c s => c.sel == 0xFFFFFFFF && arrayRoom s c) (at10 .matrix) .mcoef (.ext (ext 8 2 0 0 11 0 0 0 0)) = true := by decide +kernel

/-- For each clause of `MatrixClaimsAndGangsComplete`: a group in front of the instruction that meets its condition. -/
theorem witness_matrix_claims_and_gangs :
    meets (fun c _ => c.sel == 0xFFFFFFFF) (at10 .matrix) .mclaim (.ext (ext 0 2 0 0 0 2 0 0 0)) = true ∧
    meets (fun c s => c.sel == 0xFFFFFFFF && (claimMask c s == 0 || claimsHeld c s)) (at10 .matrix) .mrel (.ext (ext 0 2 0 0 0 2 0 0 0)) = true ∧
    meets (fun c s => c.sel == 0xFFFFFFFF && claimMask c s != 0 && claimsHeld c s) (at10 .matrix) .mrel (.ext (ext 0 3 0 0 0 2 0 0 0)) = true ∧
    meets (fun c s => c.sel == 0xFFFFFFFF && slotHeld s c.g.core c.f.d.toNat c.g.slot && feedBytes c s % 256 == 0 && decide (feedBytes c s ≤ 32768) && rangeCheck s c 4 false [((srcS s c 1).toNat, feedBytes c s)] == none && fdClear s c.g.core c.f.d.toNat && rdClear s c.g.core c.f.d.toNat) (at10 .matrix) .mfeed (.ext (ext 2 2 0 0 0 0 2 0 0)) = true ∧
    meets (fun c s => c.sel == 0xFFFFFFFF && slotHeld s c.g.core c.f.d.toNat c.g.slot && fdClear s c.g.core c.f.d.toNat && rdClear s c.g.core c.f.d.toNat) (at10 .matrix) .mfeeda (.ext (ext 2 2 0 0 12 0 0 0 0)) = true ∧
    meets (fun c s => c.sel == 0xFFFFFFFF && iterFault c s == none && inGang (matAt s c.g.core) == false && arrayRoom s c) (at10 .matrix) .mpoly (.ext (ext 0 2 3 0 11 0 2 0 0)) = true ∧
    meets (fun c s => c.sel == 0xFFFFFFFF && iterFault c s == none && inGang (matAt s c.g.core) == true && arrayRoom s c && latchLets c s) (inGangOf4 (at10 .matrix)) .mpoly (.ext (ext 0 2 3 0 11 0 2 0 0)) = true ∧
    meets (fun c s => c.sel == 0xFFFFFFFF && iterFault c s == none && inGang (matAt s c.g.core) == false && arrayRoom s c) (at10 .matrix) .miterG (.ext (ext 0 0 0 0 11 0 0 0 0)) = true ∧
    meets (fun c s => c.sel == 0xFFFFFFFF && iterFault c s == none && inGang (matAt s c.g.core) == true && arrayRoom s c && latchLets c s) (inGangOf4 (at10 .matrix)) .miterG (.ext (ext 0 0 0 0 11 0 0 0 0)) = true ∧
    meets (fun c s => c.sel == 0xFFFFFFFF && iterFault c s == none && inGang (matAt s c.g.core) == false && arrayRoom s c) (at10 .matrix) .miterS (.ext (ext 0 0 0 0 11 0 0 0 0)) = true ∧
    meets (fun c s => c.sel == 0xFFFFFFFF && iterFault c s == none && inGang (matAt s c.g.core) == true && arrayRoom s c && latchLets c s) (inGangOf4 (at10 .matrix)) .miterS (.ext (ext 0 0 0 0 11 0 0 0 0)) = true ∧
    meets (fun c s => c.sel == 0xFFFFFFFF && mgangFault c s == none && arrayRoom s c && latchLets c s) (withS 2 0x11018000 (besides (latched (at10 .matrix)))) .mgang (.ext (ext 0 2 0 0 0 0 0 0 0)) = true ∧
    meets (fun c s => c.sel == 0xFFFFFFFF && gangState s c == none && arrayRoom s c && latchLets c s) (inGangOf4 (at10 .matrix)) .mgleave (.ext (ext 0 0 0 0 0 0 0 0 0)) = true ∧
    meets (fun c s => c.sel == 0xFFFFFFFF && gangState s c == none && latchLets c s && (pairCheck s c).toOption == some (macBlocks s c) && macShape c (blocksOf (macBlocks s c)).1 (blocksOf (macBlocks s c)).2 == none && arrayRoom s c && (gangReads s c (macBlocks s c)).all (fun o => fdClear s (o / 16) (o % 16))) (inGangOf4 (at10 .matrix)) .mgmac (.ext (ext 0 2 3 5 14 0 0 0 1)) = true := by decide +kernel

/-- For each clause of `CopiesComplete`: a group in front of the instruction that meets its condition. -/
theorem witness_copies :
    meets (fun c s => copyFault c s == none && copyTotal c s != 0 && (pendFor s c (copyCmd c s)).isSome && cmdRoom s c (copyCmd c s) (copyGuards c s) []) (at10 .copy) .xcopy (.ext (ext 8 2 3 0 0 0 0 0 0)) = true ∧
    meets (fun c s => copyFault c s == none && copyTotal c s != 0 && (pendFor s c (copyCmd c s)).isSome && cmdRoom s c (copyCmd c s) (copyGuards c s) []) (withS 3 256 (withSpad [(256, 16), (260, 1)] (at10 .copy))) .xcopy2 (.ext (ext 8 2 3 0 0 0 0 0 0)) = true ∧
    meets (fun c s => copyFault c s == none && copyTotal c s != 0 && (pendFor s c (copyCmd c s)).isSome && cmdRoom s c (copyCmd c s) (copyGuards c s) []) (withS 3 256 (withSpad [(256, 16), (260, 1), (264, 1)] (at10 .copy))) .xcopy3 (.ext (ext 8 2 3 0 0 0 0 0 0)) = true ∧
    meets (fun c s => copyFault c s == none && copyTotal c s != 0 && (pendFor s c (copyCmd c s)).isSome && cmdRoom s c (copyCmd c s) (copyGuards c s) []) (withS 3 256 (withSpad [(256, 16), (260, 1)] (at10 .copy))) .xgath (.ext (ext 8 2 3 0 0 0 0 0 0)) = true ∧
    meets (fun c s => copyFault c s == none && copyTotal c s != 0 && (pendFor s c (copyCmd c s)).isSome && cmdRoom s c (copyCmd c s) (copyGuards c s) []) (withS 3 256 (withSpad [(256, 16), (260, 1)] (at10 .copy))) .xscat (.ext (ext 8 2 3 0 0 0 0 0 0)) = true ∧
    meets (fun c s => copyFault c s == none && copyTotal c s != 0 && (pendFor s c (copyCmd c s)).isSome && cmdRoom s c (copyCmd c s) (copyGuards c s) []) (at10 .copy) .xfill (.ext (ext 8 2 3 0 9 0 0 0 0)) = true ∧
    meets (fun c s => copyFault c s == none && copyTotal c s != 0 && (pendFor s c (copyCmd c s)).isSome && cmdRoom s c (copyCmd c s) (copyGuards c s) []) (at10 .copy) .xred (.ext (ext 8 2 3 0 9 0 0 0 0)) = true ∧
    meets (fun c s => copyFault c s == none && copyTotal c s == 0) (withS 3 0 (at10 .copy)) .xcopy (.ext (ext 8 2 3 0 0 0 0 0 0)) = true ∧
    meets (fun c s => copyFault c s == none && copyTotal c s == 0) (withS 3 0 (at10 .copy)) .xfill (.ext (ext 8 2 3 0 9 0 0 0 0)) = true ∧
    meets (fun c s => copyFault c s == none && copyTotal c s == 0) (withS 3 0 (at10 .copy)) .xred (.ext (ext 8 2 3 0 9 0 0 0 0)) = true ∧
    meets (fun c s => xslotFault c s == none && (pendFor s c (slotCmd c s)).isSome && cmdRoom s c (slotCmd c s) [] (slotSpan c s)) (at10 .copy) .xslot (.ext (ext 2 4 2 0 0 0 0 0 0)) = true ∧
    meets (fun c s => (srcS s c 2).toNat != 0 && decide ((srcS s c 2).toNat ≤ 16777215) && (pendFor s c (prfCmd c s)).isSome && cmdRoom s c (prfCmd c s) [] []) (at10 .copy) .xprf (.ext (ext 0 2 3 0 0 0 0 0 0)) = true ∧
    meets (fun c s => (pendFor s c (handCmd c s)).isSome && cmdRoom s c (handCmd c s) [] []) (at10 .copy) .xhand (.ext (ext 1 2 0 0 0 0 0 0 0)) = true ∧
    meets (fun _ _ => true) (at10 .copy) .xstat (.ext (ext 8 2 0 0 0 2 0 0 0)) = true ∧
    meets (fun _ _ => true) (at10 .copy) .xcancel (.ext (ext 0 0 0 0 0 0 0 0 0)) = true := by decide +kernel

/-- For each clause of `SpiralPromiseLinkComplete`: a group in front of the instruction that meets its condition. -/
theorem witness_spiral_promise_link :
    meets (fun c s => decide (spiralCount c s ≤ 1048576) && decide ((srcS s c 1).toNat + spiralCount c s ≤ 2 ^ 64) && decide (spiralSlot c s ≤ 2047)) (at10 .vector) .hdist (.ext (ext 8 2 0 0 0 0 0 0 0)) = true ∧
    meets (fun c s => decide (spiralCount c s ≤ 1048576) && decide ((srcS s c 1).toNat + spiralCount c s ≤ 2 ^ 64) && decide (spiralSlot c s ≤ 2047)) (at10 .vector) .hpin (.ext (ext 8 2 3 0 0 0 0 0 0)) = true ∧
    meets (fun c s => decide (spiralCount c s ≤ 1048576) && decide ((srcS s c 1).toNat + spiralCount c s ≤ 2 ^ 64) && decide (spiralSlot c s ≤ 2047)) (at10 .vector) .hunpin (.ext (ext 0 2 3 0 0 0 0 0 0)) = true ∧
    meets (fun c s => decide (spiralCount c s ≤ 1048576) && decide ((srcS s c 1).toNat + spiralCount c s ≤ 2 ^ 64) && decide (spiralSlot c s ≤ 2047)) (at10 .vector) .hpre (.ext (ext 0 2 3 5 0 0 0 0 0)) = true ∧
    meets (fun c s => decide (spiralCount c s ≤ 1048576) && decide ((srcS s c 1).toNat + spiralCount c s ≤ 2 ^ 64) && decide (spiralSlot c s ≤ 2047)) (at10 .vector) .hdemote (.ext (ext 0 2 3 0 0 0 0 0 0)) = true ∧
    meets (fun c s => decide (spiralCount c s ≤ 1048576) && decide ((srcS s c 1).toNat + spiralCount c s ≤ 2 ^ 64) && decide (spiralSlot c s ≤ 2047)) (at10 .vector) .hocc (.ext (ext 8 2 0 0 0 0 0 0 0)) = true ∧
    meets (fun c s => (promiseCells c s).all (fun x => decide (x < 2 ^ 48) && x % 16 == 0) && !(promiseHolds c s)) (at10 .vector) .pmake (.ext (ext 0 2 0 0 0 0 0 0 0)) = true ∧
    meets (fun c s => (promiseCells c s).all (fun x => decide (x < 2 ^ 48) && x % 16 == 0) && !(promiseHolds c s)) (at10 .vector) .pfill (.ext (ext 0 2 3 0 0 0 0 0 0)) = true ∧
    meets (fun c s => (promiseCells c s).all (fun x => decide (x < 2 ^ 48) && x % 16 == 0) && !(promiseHolds c s)) (withS 3 272 (at10 .vector)) .peq (.ext (ext 0 2 3 0 0 0 0 0 0)) = true ∧
    meets (fun c s => (promiseCells c s).all (fun x => decide (x < 2 ^ 48) && x % 16 == 0) && !(promiseHolds c s)) (at10 .vector) .pwait (.ext (ext 8 2 0 0 0 0 0 0 0)) = true ∧
    meets (fun c s => (promiseCells c s).all (fun x => decide (x < 2 ^ 48) && x % 16 == 0) && !(promiseHolds c s)) (at10 .vector) .ppoll (.ext (ext 8 2 0 5 0 0 0 0 0)) = true ∧
    meets (fun c s => (promiseCells c s).all (fun x => decide (x < 2 ^ 48) && x % 16 == 0) && !(promiseHolds c s)) (at10 .vector) .pfind (.ext (ext 8 2 0 0 0 0 0 0 0)) = true ∧
    meets (fun c s => linkCheck s c (srcS s c 1).toNat (sread c.g c.f.d.toNat).toNat (srcS s c 2) == none && linkCount c s != 0) (at10 .vector) .lput (.ext (ext 8 2 3 0 0 0 0 0 0)) = true ∧
    meets (fun c s => linkCheck s c (srcS s c 1).toNat (sread c.g c.f.d.toNat).toNat (srcS s c 2) == none && linkCount c s == 0) (withS 3 0 (at10 .vector)) .lput (.ext (ext 8 2 3 0 0 0 0 0 0)) = true ∧
    meets (fun c s => linkCheck s c (srcS s c 1).toNat (sread c.g c.f.d.toNat).toNat (srcS s c 2) == none && linkCount c s != 0) (at10 .vector) .lget (.ext (ext 8 2 3 0 0 0 0 0 0)) = true ∧
    meets (fun c s => linkCheck s c (srcS s c 1).toNat (sread c.g c.f.d.toNat).toNat (srcS s c 2) == none && linkCount c s == 0) (withS 3 0 (at10 .vector)) .lget (.ext (ext 8 2 3 0 0 0 0 0 0)) = true ∧
    meets (fun c s => linkCheck s c (srcS s c 1).toNat (sread c.g c.f.d.toNat).toNat (srcS s c 2) == none && linkCount c s != 0) (at10 .vector) .lallred (.ext (ext 8 2 3 0 9 0 0 0 0)) = true ∧
    meets (fun c s => linkCheck s c (srcS s c 1).toNat (sread c.g c.f.d.toNat).toNat (srcS s c 2) == none && linkCount c s == 0) (withS 3 0 (at10 .vector)) .lallred (.ext (ext 8 2 3 0 9 0 0 0 0)) = true ∧
    meets (fun c s => linkCheck s c (srcS s c 1).toNat (sread c.g c.f.d.toNat).toNat (srcS s c 2) == none && linkCount c s != 0) (at10 .vector) .lallgat (.ext (ext 8 2 3 0 0 0 0 0 0)) = true ∧
    meets (fun c s => linkCheck s c (srcS s c 1).toNat (sread c.g c.f.d.toNat).toNat (srcS s c 2) == none && linkCount c s == 0) (withS 3 0 (at10 .vector)) .lallgat (.ext (ext 8 2 3 0 0 0 0 0 0)) = true ∧
    meets (fun c s => linkCheck s c (srcS s c 1).toNat (sread c.g c.f.d.toNat).toNat (srcS s c 2) == none && linkCount c s != 0) (at10 .vector) .lredsc (.ext (ext 8 2 3 0 9 0 0 0 0)) = true ∧
    meets (fun c s => linkCheck s c (srcS s c 1).toNat (sread c.g c.f.d.toNat).toNat (srcS s c 2) == none && linkCount c s == 0) (withS 3 0 (at10 .vector)) .lredsc (.ext (ext 8 2 3 0 9 0 0 0 0)) = true ∧
    meets (fun c s => linkCheck s c (srcS s c 1).toNat (sread c.g c.f.d.toNat).toNat (srcS s c 2) == none && linkCount c s != 0) (at10 .vector) .lbcast (.ext (ext 8 2 3 0 0 0 0 0 0)) = true ∧
    meets (fun c s => linkCheck s c (srcS s c 1).toNat (sread c.g c.f.d.toNat).toNat (srcS s c 2) == none && linkCount c s == 0) (withS 3 0 (at10 .vector)) .lbcast (.ext (ext 8 2 3 0 0 0 0 0 0)) = true := by decide +kernel

/-- States and operands that meet the hypotheses of `UnassignedOpcodesTrap`. -/
theorem witness_unassigned_opcodes :
    ((parseWords [0#32]).any (fun p => p.1 == 0) && (opOfCode 0).isNone) = true ∧
    (decide (curPc (takeTurn turn0 (0, 0) []) = some (0, 0)) && (parseWords (fetchWords (takeTurn turn0 (0, 0) []) 0 0)).any (fun p => (opOfCode p.1).isNone) && (curSplit (takeTurn turn0 (0, 0) [])).any (fun p => delivered (bareCtx (takeTurn turn0 (0, 0) []) p.1 p.2))) = true := by decide +kernel

/-- States and operands that meet the hypotheses of `StepRunsTheDecodedInstruction`. -/
theorem witness_steps_run_decoded_instructions :
    (turn0.boot == .released && turn0.stage == 2 && turn0.issueQ == [(0, 0)]) = true ∧
    ((match decodeWords (fetchWords (takeTurn { turn0 with codes := [(0, ⟨[(0, 0x80)], [], none⟩)] } (0, 0) []) 0 0) with | .ok _ n => n == 4 | .bad _ => false)) = true ∧
    (({ State.reset with agenda := [⟨.ns 0, 0, .vdUnsuspend 0⟩] } : State).boot == .released && decide (State.reset.stage ≠ 2) && (pick { State.reset with agenda := [⟨.ns 0, 0, .vdUnsuspend 0⟩] }).isSome) = true ∧
    ((pick { State.reset with stage := 2 }).isNone && ({ State.reset with stage := 2 } : State).issueQ == []) = true ∧
    (turn0.soft == []) = true := by decide +kernel

/-- States and operands that meet the hypotheses of `NothingIsRefused`. -/
theorem witness_stops :
    ((match exec (.nop ⟨0, 0, 0, 0, 0⟩) State.reset with | .fault f => f == .noIssuingGroup | _ => false)) = true := by decide +kernel

/-- States and operands that meet the hypotheses of `HeldInstructionsChangeNothing`. -/
theorem witness_held :
    ((curSplit (withGroup (fun g => { g with lastIssue := 10 }) later10)).any (fun p => !delivered (ctxOf .nop (.base ⟨0, 0, 0, 0, 0⟩) (withGroup (fun g => { g with lastIssue := 10 }) later10) p.1 p.2))) = true ∧
    (offers later10 .nop (.base ⟨0, 0, 0, 0, 2⟩) false && offers (withGroup (fun g => { g with lastIssue := 9 }) later10) .nop (.base ⟨0, 0, 0, 0, 2⟩) true) = true := by decide +kernel

/-- States and operands that meet the hypotheses of `EmptySelectionDoesNothing`. -/
theorem witness_empty_selection :
    (offers later10 .sadd (.ext { ext 8 2 3 0 9 0 0 0 0 with pe := true }) false && (curSplit later10).any (fun p => (ctxOf .sadd (.ext { ext 8 2 3 0 9 0 0 0 0 with pe := true }) later10 p.1 p.2).sel == 0)) = true := by decide +kernel

/-- States and operands that meet the hypotheses of `DecodeChecksTrap`. -/
theorem witness_decode_checks :
    ((curSplit later10).any (fun p => delivered (ctxOf .sadd (.ext (ext 8 2 3 0 31 0 0 0 0)) later10 p.1 p.2)) && (illegalCause .sadd (.ext (ext 8 2 3 0 31 0 0 0 0))).isSome) = true ∧
    ((illegalCause .vaddS32 (.ext (ext 100 2 3 0 9 0 0 0 0))).isNone && cause6 later10 (grp .vector) .vaddS32 (fieldsOf .vaddS32 (.ext (ext 100 2 3 0 9 0 0 0 0))).e) = true := by decide +kernel

/-- States and operands that meet the hypotheses of `RoleAndRegisterFaults`. -/
theorem witness_role_and_register_faults :
    (offers (at10 .copy) .vaddS32 (.base ⟨8, 2, 3, 0, 0⟩) false && !roleAllows .copy .vaddS32) = true ∧
    (offers (withGroup (fun g => { g with owners := [(⟨.s, 2⟩, 7)] }) later10) .sadd (.ext { ext 8 2 3 0 9 0 0 0 0 with tra := true }) false && (trapRegs .sadd (fieldsOf .sadd (.ext { ext 8 2 3 0 9 0 0 0 0 with tra := true })).e).any (isEmptyReg (withGroup (fun g => { g with owners := [(⟨.s, 2⟩, 7)] }) later10 |>.groups.headD (grp .vector)))) = true := by decide +kernel

/-- States and operands that meet the hypotheses of `IssueKeepsRegisters` (and `IssueKeepsMemory`, `IssueKeepsLocalStores`). -/
theorem witness_issue_frames :
    ((match exec (.sadd ⟨8, 2, 3, 0, 0⟩) later10 with | .next _ => true | _ => false)) = true ∧
    ((curSplit later10).isSome && (match exec (.vldnf (ext 8 2 3 1 9 0 0 0 0)) later10 with | .next _ => true | _ => false)) = true ∧
    ((curSplit (withTrace later10)).isSome && (match exec (.mark (ext 0 2 3 0 9 0 0 0 0)) (withTrace later10) with | .next _ => true | _ => false)) = true ∧
    ((groupVd? (withTrace later10) (grp .vector)).any (fun v => decide ((vdAt (withTrace later10) v).trn ≠ 0 ∧ (0 : Nat) ≠ ((vdAt (withTrace later10) v).trbase + 32 * ((vdAt (withTrace later10) v).trcnt % (vdAt (withTrace later10) v).trn) + 31) % 2 ^ 48))) = true := by decide +kernel

/-- States and operands that meet the hypotheses of `CallFaults`. -/
theorem witness_call_faults :
    (meets (fun c _ => c.g.callee) (inCallee (at10 .vector)) .callv (.ext (ext 0 2 0 0 0 0 0 0 0))) = true ∧
    (meets (fun c s => !c.g.callee && (teamAt? s c.g.team).any (fun t => t.callees == [])) { at10 .vector with teams := [{ team .vector with callees := [] }] } .callv (.ext (ext 0 2 0 0 0 0 0 0 0))) = true ∧
    (meets (fun c _ => !c.g.callee) (at10 .vector) .retv (.ext (ext 0 0 0 0 0 0 0 0 0))) = true ∧
    (meets (fun c _ => c.g.callee) (inCallee (at10 .vector)) .exit (.base ⟨0, 0, 0, 0, 0⟩)) = true ∧
    (meets (fun c _ => c.g.callee) (inCallee (at10 .vector)) .exit (.ext (ext 0 0 0 0 0 0 0 0 0))) = true := by decide +kernel

/-- States and operands that meet the hypotheses of `BarrierFaults`. -/
theorem witness_barrier_faults :
    (meets (fun c s => barCheck s c == none && (bitsNow s c (barKey c)).arv == true) (withBits ⟨true, true, false⟩ (at10 .vector)) .barArrive (.base ⟨0, 0, 0, 0, 0⟩)) = true ∧
    (meets (fun c s => barCheck s c == none && (bitsNow s c (barKey c)).arv == true) (withBits ⟨true, true, false⟩ (at10 .vector)) .barArrive (.ext (ext 0 0 0 0 0 0 0 0 0))) = true ∧
    (meets (fun c s => barCheck s c == none && (bitsNow s c (barKey c)).arv == true) (withBits ⟨true, true, false⟩ (at10 .vector)) .barSync (.base ⟨0, 0, 0, 0, 0⟩)) = true ∧
    (meets (fun c s => barCheck s c == none && (bitsNow s c (barKey c)).arv == true) (withBits ⟨true, true, false⟩ (at10 .vector)) .barSync (.ext (ext 0 0 0 0 0 0 0 0 0))) = true ∧
    (meets (fun c s => barCheck s c == none && (bitsNow s c (barKey c)).arv == false) (at10 .vector) .barWait (.base ⟨0, 0, 0, 0, 0⟩)) = true ∧
    (meets (fun c s => barCheck s c == none && (bitsNow s c (barKey c)).arv == false) (at10 .vector) .barWait (.ext (ext 0 0 0 0 0 0 0 0 0))) = true ∧
    (meets (fun c _ => c.g.callee) (inCallee (at10 .vector)) .barArrive (.base ⟨0, 0, 0, 0, 0⟩)) = true ∧
    (meets (fun c _ => c.g.callee) (inCallee (at10 .vector)) .barArrive (.ext (ext 0 0 0 0 0 0 0 0 0))) = true ∧
    (meets (fun c _ => c.g.callee) (inCallee (at10 .vector)) .barSync (.base ⟨0, 0, 0, 0, 0⟩)) = true ∧
    (meets (fun c _ => c.g.callee) (inCallee (at10 .vector)) .barSync (.ext (ext 0 0 0 0 0 0 0 0 0))) = true ∧
    (meets (fun c _ => c.g.callee) (inCallee (at10 .vector)) .barWait (.base ⟨0, 0, 0, 0, 0⟩)) = true ∧
    (meets (fun c _ => c.g.callee) (inCallee (at10 .vector)) .barWait (.ext (ext 0 0 0 0 0 0 0 0 0))) = true ∧
    (meets (fun c _ => c.g.callee) (inCallee (at10 .vector)) .barDrop (.base ⟨0, 0, 0, 0, 0⟩)) = true ∧
    (meets (fun c _ => c.g.callee) (inCallee (at10 .vector)) .barDrop (.ext (ext 0 0 0 0 0 0 0 0 0))) = true ∧
    (meets (fun c _ => c.g.callee) (inCallee (at10 .vector)) .barTest (.ext (ext 8 0 0 0 0 0 0 0 0))) = true ∧
    (meets (fun c _ => c.g.callee) (inCallee (at10 .vector)) .barAdd (.ext (ext 0 2 0 0 0 0 0 0 0))) = true ∧
    (meets (fun c s => barCheck s c == none && (bitsNow s c (barKey c)).arv == false && (bitsNow s c (barKey c)).drop == true) (withBits ⟨false, true, true⟩ (at10 .vector)) .barArrive (.base ⟨0, 0, 0, 0, 0⟩)) = true ∧
    (meets (fun c s => barCheck s c == none && (bitsNow s c (barKey c)).arv == false && (bitsNow s c (barKey c)).drop == true) (withBits ⟨false, true, true⟩ (at10 .vector)) .barArrive (.ext (ext 0 0 0 0 0 0 0 0 0))) = true ∧
    (meets (fun c s => barCheck s c == none && (bitsNow s c (barKey c)).arv == false && (bitsNow s c (barKey c)).drop == true) (withBits ⟨false, true, true⟩ (at10 .vector)) .barSync (.base ⟨0, 0, 0, 0, 0⟩)) = true ∧
    (meets (fun c s => barCheck s c == none && (bitsNow s c (barKey c)).arv == false && (bitsNow s c (barKey c)).drop == true) (withBits ⟨false, true, true⟩ (at10 .vector)) .barSync (.ext (ext 0 0 0 0 0 0 0 0 0))) = true ∧
    (meets (fun c s => barCheck s c == none && (bitsNow s c (barKey c)).drop) (withBits ⟨false, true, true⟩ (at10 .vector)) .barDrop (.base ⟨0, 0, 0, 0, 0⟩)) = true ∧
    (meets (fun c s => barCheck s c == none && (bitsNow s c (barKey c)).drop) (withBits ⟨false, true, true⟩ (at10 .vector)) .barDrop (.ext (ext 0 0 0 0 0 0 0 0 0))) = true ∧
    ((groupAt? later10 0).isSome) = true := by decide +kernel

/-- States and operands that meet the hypotheses of `PartialMaskFaults`. -/
theorem witness_partial_mask_faults :
    (meets (fun c _ => c.sel != 0xFFFFFFFF) (withGroup (fun g => { g with splits := [⟨0, 0, 0xFFFF, 0, [], false, 0, none⟩] }) (at10 .matrix)) .mzero (.ext (ext 0 0 0 0 0 0 0 0 0))) = true ∧
    (meets (fun c _ => c.g.splits.length != 1) (withGroup (fun g => { g with splits := [⟨0, 0, 0xFFFF, 0, [], false, 0, none⟩, ⟨1, 0, 0xFFFF0000, 1, [], false, 0, none⟩] }) (at10 .vector)) .rgn (.ext (ext 0 0 0 0 0 0 0 0 0))) = true ∧
    (meets (fun c _ => (match c.g.splits with | [sp] => sp.arms != [] | _ => false)) (withGroup (fun g => { g with splits := [⟨0, 0, 0xFFFFFFFF, 0, [⟨0, 0, 0⟩], false, 0, none⟩] }) (at10 .vector)) .rgn (.ext (ext 0 0 0 0 0 0 0 0 0))) = true ∧
    (meets (fun c _ => c.g.splits.length != 1) (withGroup (fun g => { g with splits := [⟨0, 0, 0xFFFF, 0, [], false, 0, none⟩, ⟨1, 0, 0xFFFF0000, 1, [], false, 0, none⟩] }) (at10 .vector)) .migrate (.ext (ext 0 2 0 0 0 0 0 0 0))) = true ∧
    (meets (fun c _ => c.sp.arms != []) (withGroup (fun g => { g with splits := [⟨0, 0, 0xFFFFFFFF, 0, [⟨0, 0, 0⟩], false, 0, none⟩] }) (at10 .vector)) .migrate (.ext (ext 0 2 0 0 0 0 0 0 0))) = true := by decide +kernel

/-- States and operands that meet the hypotheses of `ValueFaults`. -/
theorem witness_value_faults :
    (meets (fun c s => c.f.d == 0x46 && !decide (1 ≤ (srcS s c 1).toNat ∧ (srcS s c 1).toNat ≤ 255)) (at10 .vector) .sspr (.ext (ext 0x46 2 0 0 0 0 0 0 0))) = true ∧
    (meets (fun c s => c.f.d == 0x46 && !decide (1 ≤ (srcS s c 1).toNat ∧ (srcS s c 1).toNat ≤ 255)) (withS 3 0 (at10 .vector)) .sspr (.ext (ext 0x46 3 0 0 0 0 0 0 0))) = true ∧
    (meets (fun c s => c.f.d == 0x47 && !resOk ((srcS s c 1).setWidth 32)) (withS 3 0x7F800000 (at10 .vector)) .sspr (.ext (ext 0x47 3 0 0 0 0 0 0 0))) = true ∧
    (meets (fun c s => !c.g.callee && decide ((teamBar s c.g.team c.f.d.toNat).pend + (teamBar s c.g.team c.f.d.toNat).delta + intOf true 32 (srcS s c 1).toNat < 0)) (withS 3 0xFFFFFFFF (at10 .vector)) .barAdd (.ext (ext 0 3 0 0 0 0 0 0 0))) = true ∧
    (meets (fun c s => !c.g.callee && decide (16777215 < (teamBar s c.g.team c.f.d.toNat).pend + (teamBar s c.g.team c.f.d.toNat).delta + intOf true 32 (srcS s c 1).toNat)) (withS 3 16777216 (at10 .vector)) .barAdd (.ext (ext 0 3 0 0 0 0 0 0 0))) = true ∧
    (meets (fun c s => (ringOf? s c.g.team c.f.d.toNat).any (fun r => decide (r.depth < (imm8 c.f.sb).toNat)) && !(s.cmds.any (fun x => x.uid == c.g.uid && x.op == .xhand && x.f.d.toNat == c.f.d.toNat))) (at10 .vector) .qpushn (.ext (ext 1 2 5 0 0 0 2 0 0))) = true ∧
    (meets (fun c s => (ringOf? s c.g.team c.f.sa.toNat).any (fun r => decide (r.depth < (imm8 c.f.sb).toNat))) (at10 .vector) .qpopn (.ext (ext 8 1 5 0 0 0 2 0 0))) = true := by decide +kernel

/-- States and operands that meet the hypotheses of `AccessFaults`. -/
theorem witness_access_faults :
    (meets (fun c s => globalMis true c s != []) (withS 2 257 (at10 .vector)) .vld (.base ⟨8, 2, 3, 0, 0⟩)) = true ∧
    (meets (fun c s => (spadCheck s c (spadAccs s c true) (accSize c.op c.f) (c.op == .vsts || c.op == .vstsw)).any (fun p => p.1 == 0x06)) (withS 2 257 (at10 .vector)) .vlds (.base ⟨8, 2, 3, 0, 0⟩)) = true ∧
    (meets (fun c s => (spadCheck s c (spadAccs s c true) (accSize c.op c.f) (c.op == .vsts || c.op == .vstsw)).any (fun p => p.1 == 0x05)) (withS 2 65536 (at10 .vector)) .vsts (.base ⟨8, 2, 3, 0, 0⟩)) = true ∧
    (meets (fun c s => (spadCheck s c (spadAccs s c true) (accSize c.op c.f) (c.op == .vsts || c.op == .vstsw)).any (fun p => p.1 == 0x07)) { at10 .vector with cores := [(0, { CoreSt.empty with guards := [⟨9, true, 1, 256, 260⟩] })] } .vsts (.base ⟨8, 2, 3, 0, 0⟩)) = true ∧
    (meets (fun c s => globalMis false c s != []) (withS 2 257 (at10 .vector)) .vldb (.ext (ext 8 2 4 0 9 0 2 0 0))) = true ∧
    (meets (fun c s => (spadCheck s c ((lanesOf c.sel).map (fun l => (l, spadAddr s c false 0))) 4 (c.op == .vstk)).any (fun p => p.1 == 0x06)) (withS 2 257 (at10 .vector)) .vldk (.ext (ext 0 2 4 0 9 0 2 0 0))) = true ∧
    (meets (fun c s => (spadCheck s c ((lanesOf c.sel).map (fun l => (l, spadAddr s c false 0))) 4 (c.op == .vstk)).any (fun p => p.1 == 0x05)) (withS 2 65536 (at10 .vector)) .vstk (.ext (ext 0 2 4 0 9 0 2 0 0))) = true := by decide +kernel

/-- States and operands that meet the hypotheses of `ScalarResults`. -/
theorem witness_scalar_results :
    (decide (8 ≤ 9 ∧ 3 < 8 ∧ -(2 ^ 8 : Int) ≤ -5 ∧ (-5 : Int) < 2 ^ 8 ∧ tyS8 ∈ [tyS8, tyS16, tyS32, tyS64] ∧ 7 < tyWidth tyS8 ∧ (3 : Int) ≠ 0)) = true := by decide +kernel

/-- States and operands that meet the hypotheses of `PendingWrites`. -/
theorem witness_pending_writes :
    ((groupAt? { later10 with pend := [⟨10, 0, .s 8 1⟩] } 0).any (fun g => coreDie g.core == 0) && [⟨10, 0, .s 8 1⟩] == ([] ++ [⟨10, 0, .s 8 1⟩] : List PendWrite)) = true ∧
    ([(⟨10, 0, .k 1 3 2⟩ : PendWrite)].all (fun p => p.uid == 0 && p.clk == 10)) = true ∧
    (decide (([(5, 0xFF, 0x12), (6, 0xFF, 0x13)] : List (Nat × Word × Word)) = [] ++ ((5, 0xFF, 0x12) :: [(6, 0xFF, 0x13)])) && ([(6, 0xFF, 0x13)] : List (Nat × Word × Word)).all (fun q => q.1 != 5)) = true ∧
    ([⟨10, 0, .v 8 [(5, 0xFF, 0x12)]⟩] == ([] ++ [⟨10, 0, .v 8 [(5, 0xFF, 0x12)]⟩] : List PendWrite)) = true ∧
    ([⟨10, 0, .sp 0x46 3⟩] == ([] ++ [⟨10, 0, .sp 0x46 3⟩] : List PendWrite)) = true := by decide +kernel

/-- States and operands that meet the hypotheses of `SelectedLanesOnly`. -/
theorem witness_selected_lanes :
    ((0xF : Word).getLsbD 0 && !(0xF : Word).getLsbD 31) = true := by decide +kernel

/-- States and operands that meet the hypotheses of `IssueTakesTheFlag` and `FlagsFollowTheirOwner`. -/
theorem witness_flags :
    (offers later10 .sadd (.ext { ext 8 2 3 0 9 0 0 0 0 with setf := 12 }) false) = true ∧
    (decide (0 < 12 ∧ 11 < 12 ∧ (BitVec.ofNat 4 12).toNat = 11 + 1)) = true := by decide +kernel

/-- States and operands that meet the hypotheses of `WordWritesReachTheLine`. -/
theorem witness_word_writes :
    (decide ([(3, 7), (4, 8)] = ([(3, 7)] ++ (4, 8) :: [] : List (Nat × Byte)) ∧ 128 * localLine (rq (.core 7 0) (.store []) .reply).line + 4 = 4)) = true ∧
    (([(3, 7), (4, 8)] : List (Nat × Byte)).all (fun b => 128 * localLine (rq (.core 7 0) (.store []) .reply).line + b.1 != 9)) = true := by decide +kernel

/-- States and operands that meet the hypotheses of `ScratchpadStoresWriteTheirBytes`. -/
theorem witness_scratchpad_stores :
    (later10.teams.any (fun x => x.id == 1) && (curSplit later10).any (fun p => (spadStored (ctxOf .vsts (.base ⟨8, 2, 3, 0, 0⟩) later10 p.1 p.2) later10).any (fun b => b.1 == 256) && (spadStored (ctxOf .vsts (.base ⟨8, 2, 3, 0, 0⟩) later10 p.1 p.2) later10).all (fun b => b.1 != 255))) = true ∧
    ((curSplit later10).any (fun p => passCount (wordsTouched (spadAccs later10 (ctxOf .vsts (.base ⟨8, 2, 3, 0, 0⟩) later10 p.1 p.2) true) 4) == 1)) = true ∧
    ((curSplit (withGroup (fun g => { g with v := [(97, 256)] }) later10)).any (fun p => decide (1 < passCount (wordsTouched (spadAccs (withGroup (fun g => { g with v := [(97, 256)] }) later10)
      (ctxOf .vsts (.base ⟨8, 2, 3, 0, 0⟩) (withGroup (fun g => { g with v := [(97, 256)] }) later10) p.1 p.2) true) 4)))) = true ∧
    ((flightAt? (withFlight { flt .vsts .spad with mems := [(0, 1)] } later10) 7).any (fun f => f.mems != [])) = true := by decide +kernel

/-- States and operands that meet the hypotheses of `FirstFaultOpensTheRecord`. -/
theorem witness_first_fault :
    ((groupAt? later10 0).any (fun g => g.stop.isNone)) = true ∧
    ((groupAt? { stopped 0 false later10 with dies := List.replicate 4 { DieSt.reset with clk := 1 } } 0).any (fun g => g.stop.any (fun r => r.clk == 1 && !r.delivered) && coreDie g.core == 0)) = true ∧
    ((groupAt? (stopped 0 false later10) 0).any (fun g => g.stop.any (fun r => r.clk != coreClk (stopped 0 false later10) g.core))) = true := by decide +kernel

/-- States and operands that meet the hypotheses of `ResumeActions`. -/
theorem witness_resume_actions :
    ((groupAt? (stopped 1 true later10) 0).any (fun g => g.stop.any (fun r => recKind r == 1 && r.nr))) = true ∧
    ((groupAt? (stopped 0 false later10) 0).any (fun g => g.stop.any (fun r => recKind r != 1))) = true := by decide +kernel

/-- States and operands that meet the hypotheses of `BarrierOpens`. -/
theorem witness_barriers_open :
    (decide ((⟨false, 2, 2, 0, 3, -3⟩ : TeamBar).count = 2 ∧ ((3 : Nat) : Int) + -3 = 0) && decide (0 ≤ ((0 : Nat) : Int) + 1)) = true := by decide +kernel

/-- States and operands that meet the hypotheses of `RingIsFirstInFirstOut`. -/
theorem witness_rings_are_fifo :
    (decide (0 < 4 ∧ 0 < 4 ∧ ringWait ⟨4, .vector, .vector, false, 0, false, 0, [], 0, 0, 0, false, false⟩ < 4) && decide (1 ≤ ringWait ⟨4, .vector, .vector, false, 0, true, 0, [(0, 1), (1, 2), (2, 3), (3, 4)], 4, 0, 0, false, false⟩)) = true := by decide +kernel

/-- States and operands that meet the hypotheses of `PlaceTableRefusals`. -/
theorem witness_place_table :
    ((vdOfCtx? (withVd later10) 0).isSome && (withVd later10).teams.any (fun t => t.ctx == 0) && decide (867 ≤ 867 ∧ 867 < 868)) = true ∧
    ((vdOfCtx? (withVd later10) 5).isNone && ({ later10 with boxFrozen := true } : State).boxFrozen) = true ∧
    (!(withVd later10).boxFrozen && decide ((withVd later10).box.length < 4096)) = true := by decide +kernel

/-- States and operands that meet the hypotheses of `StepsKeepMemoryCanonical`. -/
theorem witness_canonical :
    (canonical State.reset && (match step State.reset with | .next _ => true | _ => false)) = true := by decide +kernel

/-- States and operands that meet the hypotheses of `DecodeOfEncode` and `EncodeOfDecode`. -/
theorem witness_encoding :
    (wellFormed (.sadd ⟨8, 2, 3, 0, 0⟩) && (encode (.sadd ⟨8, 2, 3, 0, 0⟩)).isSome) = true ∧
    ((match decodeWords [0x08606A80#32] with | .ok _ _ => true | .bad _ => false)) = true := by decide +kernel

/-- States and operands that meet the hypotheses of `GroupStepsComplete`. -/
theorem witness_group_steps :
    (groupAt? (withGroup (fun g => { g with yieldUntil := 9 }) later10) 0 |>.any (fun g => decide (g.yieldUntil < coreClk later10 g.core))) = true ∧
    (groupAt? (withGroup (fun g => { g with sleep := some (1000, 7) }) later10) 0 |>.any (fun g => g.sleep.any (fun p => decide (p.1 ≤ timeNs later10)))) = true ∧
    ((withFlight (flt .callv (.callv 1 0xF 0xF)) later10).flights.any (isCallvOf 0 0)) = true ∧
    (fullestQueue (coreAt { later10 with cores := [(0, { CoreSt.empty with queues := [⟨0, 1, 0, [⟨0, 0, 7, []⟩]⟩] })] } 0).queues 1 |>.isSome) = true ∧
    ((withGroup (fun g => { g with callee := true, splits := [] }) later10).groups.all (fun g => g.callee && g.splits.isEmpty)) = true ∧
    ((withFlight { flt .migrate (.migrate 0) with vals := [0, 0, 1] } later10).flights.any (isMigrateOf 0)) = true ∧
    (migrateReady (withFlight { flt .migrate (.migrate 0) with vals := [0, 0, 1] } later10) (grp .vector)) = true ∧
    (!migrateDone later10 (flt .migrate (.migrate 0)) && migrateDone later10 { flt .migrate (.migrate 0) with uid := 3, at2 := 1 }) = true ∧
    (((List.range 6).map (fun k => physCore later10 0 0 0 1 k)).any (fun k => (freeSlot later10 k []).any (genFree later10 k) && regRoom later10 k 64)) = true ∧
    (arrivalReady (withFlight (flt .barArrive (.arrive 0)) later10) (flt .barArrive (.arrive 0))) = true ∧
    (arrivalReady (withFlight (flt .barArrive (.arrive 16)) later10) (flt .barArrive (.arrive 16))) = true ∧
    (groupOver (withGroup (fun g => { g with splits := [] }) later10) { grp .vector with splits := [] }) = true ∧
    (departureOver later10 { grp .vector with depart := some 0 }) = true ∧
    (launchWaitReady (withLaunch (fun l => { l with phase := .ended }) later10) (flt .launchWait (.launchWait 1))) = true := by decide +kernel

/-- States and operands that meet the hypotheses of `MemoryStepsComplete`. -/
theorem witness_memory_steps :
    (loadReplyReady (withReq (rq (.core 7 0) (.load []) .reply) later10) (rq (.core 7 0) (.load []) .reply)) = true ∧
    (!asksSpiral (.load [])) = true ∧
    ((flt .vlds .spad).vals.isEmpty && (flt .vlds .spad).mems.isEmpty) = true ∧
    ((flightAt? (withFlight { flt .vsts .spad with mems := [(0, 1)] } later10) 7).any (fun f => f.mems != [])) = true ∧
    (([0] : List Nat).all (fun l => lineModule l == later10.module) && lineModule (2 ^ 41) != later10.module) = true ∧
    (homeAcked later10 (rq (.core 7 0) (.store []) .reply)) = true ∧
    (!homeAcked later10 (rq (.core 7 0) (.store []) .done)) = true ∧
    (storeAckReady (withFlight { flt .vst .store with reqs := [5] } (withReq (rq (.core 7 0) (.store []) .done) later10)) (rq (.core 7 0) (.store []) .done)) = true ∧
    (fenceReady later10 (flt .fence .fence) && opxPol (flt .fence .fence).f != 3) = true ∧
    (fenceReady later10 { flt .fence .fence with f := ext 0 0 0 0 0 0 0 0 3 } && opxPol (ext 0 0 0 0 0 0 0 0 3) == 3) = true ∧
    (walkReady (withReq (rq (.walker 1) (.load []) .reply) later10) ⟨1, 0, 0, 0, 0, 5, [], []⟩) = true ∧
    ((match walkEntry { withVd later10 with owners := [(0, 128)] } 0 0 0 0x85 with | .leaf _ => true | _ => false)) = true := by decide +kernel

/-- States and operands that meet the hypotheses of `MatrixStepsComplete`. -/
theorem witness_matrix_steps :
    (releaseSlotsReady (withFlight (flt .mrel (.release 1)) later10) (flt .mrel (.release 1))) = true ∧
    (arrayStartReady (withFlight (flt .mzero .array) (withMat (fun m => { m with queue := [7] }) later10)) 0) = true ∧
    ((matAt (withFlight (flt .mzero .array) (withMat (fun m => { m with queue := [7], running := true }) later10)) 0).queue.head? == some 7) = true ∧
    ((matAt (withMat (fun m => { m with running := true }) later10) 0).running && !isIterOp .mzero && isIterOp .miterG) = true ∧
    ((matAt (withMat (fun m => { m with running := true, loop := { m.loop with kind := 1 } }) later10) 0).loop.kind != 0) = true ∧
    (latchReady (withMat (fun m => { m with arrival := some ⟨0, 0, 1, .mgang, ext 0 2 0 0 0 0 0 0 0, 0x8000, 0, []⟩ }) later10) 0) = true ∧
    (latchMismatch (withMat (fun m => { m with arrival := some ⟨0, 0, 1, .mgang, ext 0 2 0 0 0 0 0 0 0, 0x8000, 0, []⟩ }) later10) ((latchCores (withMat (fun m => { m with arrival := some ⟨0, 0, 1, .mgang, ext 0 2 0 0 0 0 0 0 0, 0x8000, 0, []⟩ }) later10) 0).filterMap (partner? (withMat (fun m => { m with arrival := some ⟨0, 0, 1, .mgang, ext 0 2 0 0 0 0 0 0 0, 0x8000, 0, []⟩ }) later10) .mgang)) == none) = true ∧
    (latchReady (withMat (fun m => { m with gang := ⟨2, 0, 1, 0, 0, 1, 0⟩, member := some 0, arrival := some ⟨0, 0, 1, .mgmac, ext 0 2 3 5 14 0 0 0 1, 512, 0, []⟩ }) later10) 0) = true ∧
    ((latchMismatch (withMat (fun m => { m with gang := ⟨2, 0, 1, 0, 0, 1, 0⟩, member := some 0, arrival := some ⟨0, 0, 1, .mgmac, ext 0 2 3 5 14 0 0 0 1, 512, 0, []⟩ }) later10)
      ((latchCores (withMat (fun m => { m with gang := ⟨2, 0, 1, 0, 0, 1, 0⟩, member := some 0, arrival := some ⟨0, 0, 1, .mgmac, ext 0 2 3 5 14 0 0 0 1, 512, 0, []⟩ }) later10) 0).filterMap
        (partner? (withMat (fun m => { m with gang := ⟨2, 0, 1, 0, 0, 1, 0⟩, member := some 0, arrival := some ⟨0, 0, 1, .mgmac, ext 0 2 3 5 14 0 0 0 1, 512, 0, []⟩ }) later10) .mgmac))).isSome) = true ∧
    (latchLate { withMat (fun m => { m with arrival := some ⟨0, 0, 0, .mgang, ext 0 2 0 0 0 0 0 0 0, 0x8000, 0, []⟩ }) later10 with dies := List.replicate 4 { DieSt.reset with clk := 65536 } } 0) = true := by decide +kernel

/-- States and operands that meet the hypotheses of `CopyStepsComplete`. -/
theorem witness_copy_steps :
    (cmdStartReady (withCmd (cmd .xcopy .waiting) later10) (cmd .xcopy .waiting)) = true ∧
    (nextBlock { withCmd (cmd .xcopy .started) later10 with tlb := [⟨0, 0, 16, 0, true, true, false, 0⟩] } 0 == some (cmd .xcopy .started)) = true ∧
    (blockMissing { withCmd (cmd .xcopy .started) later10 with tlb := [⟨0, 0, 16, 0, true, true, false, 0⟩] } (cmd .xcopy .started) == []) = true ∧
    ((cmdPages { withCmd (cmd .xcopy .started) later10 with tlb := [⟨0, 0, 16, 0, true, true, false, 0⟩] } (cmd .xcopy .started)).all (fun p => (pageFailed (cmd .xcopy .started) p.1).isNone && !pageForbids { withCmd (cmd .xcopy .started) later10 with tlb := [⟨0, 0, 16, 0, true, true, false, 0⟩] } (cmd .xcopy .started) p)) = true ∧
    (landingTurn { later10 with cores := [(0, { CoreSt.empty with landings := [⟨9, 0, [(0, 1)]⟩] })] } 0) = true ∧
    ((nextLanding { later10 with cores := [(0, { CoreSt.empty with landings := [⟨9, 0, [(0, 1)]⟩] })] } 0).isSome) = true ∧
    (cmdDone { cmd .xcopy .started with sent := 16, landed := 16 }) = true ∧
    (cmdDone { cmd .lallred .reading with sent := 16, landed := 16 } && (cmd .lallred .reading).phase == .reading) = true ∧
    (cmdDone { cmd .lallred .started with sent := 16, landed := 16 } && isLinkOp .lallred) = true ∧
    (xhandReady later10 { cmd .xhand .started with f := ext 1 2 0 0 0 0 0 0 0 }) = true ∧
    ((firstSplit (grp .vector)).isSome && ({ grp .vector with aborts := [(1, 0, 0, 0)] } : Machine.Group).aborts != []) = true := by decide +kernel

/-- States and operands that meet the hypotheses of `SpiralStepsComplete`. -/
theorem witness_spiral_steps :
    ((reqAt? (withReq (rq (.core 7 0) (.load []) .travel) later10) 5).any (fun r => ((armAt later10 r.arm).forwards.find? (fun f => f.block == localLine r.line / 512 && r.arm == r.home)).isNone)) = true ∧
    (awayReady later10 { rq (.core 7 0) (.load []) .travel with away := true, due := .ns 900 }) = true ∧
    ((tileAt? (armAt (withArm0 (fun a => { a with tiles := [tile0 false] }) later10) 0) 0).isSome) = true ∧
    (inMotion (armAt (landTile (withArm0 (fun a => { a with
      tiles := (List.range 2048).map (fun k => ⟨k + 1, 0, 0, false, 0, none, []⟩), removed := true, motion := [⟨0, .fetch 3 0 false, 0, 0⟩] }) later10) 0 0 3 0 false) 0) 0) = true ∧
    (inSlot (tile0 false) && !(armAt (withArm0 (fun a => { a with tiles := [tile0 false] }) later10) 0).removed) = true ∧
    (decide (0 / 3 = armDie 0) && !sharesAgain (withArm0 (fun a => { a with tiles := [tile0 false] }) later10) 0 0 0) = true ∧
    (!olderUpdate later10 ⟨1, 0, 5, 0, 2, [(0, 1)], 0, false, 0, false⟩) = true ∧
    (motionOf? (armAt (withArm0 (fun a => { a with motion := [⟨0, .travel 3, 0, 0⟩] }) later10) 0) 0 == some (.travel 3)) = true ∧
    (motionOf? (armAt (withArm0 (fun a => { a with motion := [⟨0, .fetch 3 0 false, 0, 0⟩] }) later10) 0) 0 == some (.fetch 3 0 false)) = true ∧
    (!inMotion (armAt (landTile (withArm0 (fun a => { a with motion := [⟨0, .fetch 3 0 false, 0, 0⟩] }) later10) 0 0 3 0 false) 0) 0) = true ∧
    (motionOf? (armAt (withArm0 (fun a => { a with tiles := [tile0 false], motion := [⟨0, .leave true 0, 0, 0⟩] }) later10) 0) 0 == some (.leave true 0)) = true ∧
    (motionOf? (armAt (withArm0 (fun a => { a with tiles := [tile0 false] }) later10) 0) 0 == none) = true ∧
    (!inMotion (armAt (withArm0 (fun a => { a with tiles := [tile0 true] }) later10) 0) 0 && (tileLine (tile0 true) 0).valid && tagNewer 2 (tileLine (tile0 true) 0).tag) = true ∧
    ((rq (.host 3) (.load []) .reply).src == .host 3) = true ∧
    (({ rq (.core 7 0) (.load []) .reply with lease := some 2000 } : Req).lease == some 2000) = true ∧
    ((tileLine (tile0 true) 0).expiry.any (fun e => decide (e ≤ timeNs later10 + guardNs later10 0))) = true ∧
    (homeArm later10 (mget 0 0 later10.owners % 16) 0 != 5 && decide ((armAt later10 (homeArm later10 (mget 0 0 later10.owners % 16) 0)).forwards.length < 64)) = true ∧
    (((armAt (withArm0 (fun a => { a with forwards := [⟨0, 5, []⟩] }) later10) 0).forwards.find? (fun f => f.block == 0)).isSome && blockTiles (withArm0 (fun a => { a with forwards := [⟨0, 5, []⟩] }) later10) 0 0 == [] && !inFlightAt later10 0 0) = true ∧
    ((reqAt? (withReq (rq (.core 7 0) (.load []) .wave) later10) 5).any (fun r => (tileAt? (armAt later10 r.arm) (r.line / 8)).isNone)) = true ∧
    (motionOf? (armAt (leaving false later10) 0) 0 == some (.leave false 2) && motionOf? (armAt (leaving false later10) 0) 1 == some (.fetch 3 0 false)) = true ∧
    (!(armAt (leaving false later10) 0).removed && !(armAt (leaving false later10) 0).inserted && (tileAt? (armAt (leaving false later10) 0) 0).isSome) = true ∧
    (dropsLeft (unshare { leaving false later10 with updates := [⟨1, 3, 5, 0, 2, [], 0, true, 0, false⟩] } 0 0 0) 0 0 && !(dropsLeft (unshare (leaving false later10) 0 0 0) 0 0)) = true ∧
    (!olderUpdate (sharing later10) ⟨1, 0, 0, 0, 2, [(0, 1)], 0, false, 0, false⟩ && !((sharing later10).reqs.any (fun r => copyUnderWay r 0 && r.sector == 0))) = true ∧
    ((tileAt? (armAt (sharing later10) 0) 0).any (fun t => t.copy && (tileLine t 0).valid && tagNewer 2 (tileLine t 0).tag) && !inMotion (armAt (sharing later10) 0) 0) = true ∧
    (!(rq (.host 3) (.load []) .reply).stay && (rq (.host 3) (.load []) .reply).words.isNone && (rq (.host 3) (.load []) .reply).renew.isNone && (mfind 0 later10.hostCopies).isNone) = true ∧
    ((reqAt? (withReq (rq (.core 7 0) (.load []) .reply) later10) 5).any (fun r => !r.stay && r.src == .core 7 0)) = true := by decide +kernel

/-- States and operands that meet the hypotheses of `PromiseStepsComplete`. -/
theorem witness_promise_steps :
    (promReady later10 (rq (.prom 7 0) (.visit 0) .reply) && (rq (.prom 7 0) (.visit 0) .reply).op == 7) = true ∧
    ((nextServed (withArm0 (fun a => { a with queue := [5] }) (withReq (rq (.prom 7 0) (.casParent 0 0 0) .queued) later10)) 0).any (fun x => x.id == 5)) = true ∧
    (lockFree { withReq (rq (.prom 7 0) (.lock 0) .queued) later10 with lockq := [(0, 5)] } 0) = true ∧
    (([⟨1, 0, 0, 0, 0, ⟨0, 0, 0, 0, 0, 0, 0⟩, 0, 0, false⟩] : List Wake).any (fun w => w.cell == 0 && !w.sent)) = true ∧
    (later10.groups.any (fun g => g.core == 0 && g.slot == 0 && groupCtx { later10 with wakes := [] } g == 0 && g.gen == 0)) = true ∧
    ((withFlight { flt .pwait .promise with step := .waiting } later10).flights.any (fun f => f.uid == 0 && f.op == .pwait && f.step == .waiting && f.at2 == 0 && f.gen == 0)) = true := by decide +kernel

/-- States and operands that meet the hypotheses of `FabricStepsComplete`. -/
theorem witness_fabric_steps :
    ((later10.links.getD 0 LinkSt.none_).up && (later10.links.getD 0 LinkSt.none_).rx == 0) = true ∧
    ((.again 3 : FrameBody) != .sample 0 0 && decide ((later10.links.getD 0 LinkSt.none_).resends < 16) &&
      decide ((later10.links.getD 0 LinkSt.none_).retries < 16)) = true ∧
    (collReady later10 coll0 && collVerdict later10 coll0 == none && !coll0.matched) = true ∧
    (collReady later10 { coll0 with matched := true, read := true } && collVerdict later10 { coll0 with matched := true } == none) = true ∧
    (collReady (withFlight (flt .lallred (.coll 1)) later10) { coll0 with fault := some (0x63, 3) } &&
      collVerdict later10 { coll0 with fault := some (0x63, 3) } == some (0x63, 3)) = true ∧
    (decide (collDeadline later10 0 0 0 + collGrace ≤ timeNs { later10 with ns := 1000000 }) && coll0.op.isSome && !coll0.matched && decide (([] : List Brought).length ≠ commNm1 later10 0 0 + 1)) = true ∧
    (collDone { coll0 with matched := true, read := true, written := true } && (flightAt? (withFlight (flt .lallred (.coll 1)) later10) 7).isSome) = true ∧
    (signalReady later10 { cmd .lput .started with f := ext 1 2 3 0 0 0 0 0 64, sent := 16, landed := 16 }) = true ∧
    (!later10.hostWaits.contains 3 && hostQuiet later10 3) = true ∧
    (signalsAt 128 && decide (128 % 128 ≠ 124)) = true ∧
    (signalsAt 124 && sigPages 124 == [124, 128]) = true := by decide +kernel

/-- States and operands that meet the hypotheses of `CommandStepsComplete`. -/
theorem witness_command_steps :
    (vdOfFe? (withVd later10) 0 == some 0) = true ∧
    (commandStatus (withVd (withRecord later10)) 0 (0x10000 * 2 ^ 448 + 1) == 0 && cmdField (0x10000 * 2 ^ 448 + 1) 7 0 == 1) = true ∧
    (recordStatus (withVd (withRecord later10)) 0 (directRead (withVd (withRecord later10)) 0x10000 512) == 0) = true ∧
    (commandStatus (withVd later10) 0 2 == 0 && cmdField 2 7 0 == 2 && commandStatus (withVd later10) 0 3 == 0 && cmdField 3 7 0 == 3) = true ∧
    (deviceLaunchReady { withFlight (flt .launch .launch) later10 with fes := [(0, { FrontEnd.reset with devq := [⟨7, 0, 0, 0, 0⟩] })] } 0) = true ∧
    (holdOver (withVd later10) { launch with phase := .held }) = true ∧
    (launchOver (withVd later10) { launch with live := 0 }) = true ∧
    (fenceOver (withVd later10) { launch with kind := 2, phase := .waiting }) = true ∧
    (invalidateOver (withVd later10) { launch with kind := 3, phase := .waiting }) = true ∧
    (pointDue (withVd later10) 0) = true ∧
    (loadReady (withVd later10) 0 { launch with record := smallRecord } && imageVictims (withVd later10) 0 (imageOf later10 smallRecord.code) == []) = true ∧
    (decide (9 ≤ dieClk later10 0)) = true ∧
    (imageVictims { withVd later10 with codes := [(0, ⟨[], [⟨0, 0, 1, []⟩], none⟩)] } 0 ⟨64, 0, 1, []⟩ != []) = true ∧
    (listingReady later10 { launch with phase := .listing } && listingReady later10 { launch with phase := .listing, drops := some [] }) = true ∧
    ((placeable { withVd later10 with codes := (List.range 8).map (fun k => (k, ⟨[], [⟨0x20000, 0, 1, []⟩], none⟩)) } { launch with record := smallRecord, placed := 0 }).isSome) = true ∧
    (teamOver { later10 with groups := [] } (team .vector)) = true := by decide +kernel

/-- States and operands that meet the hypotheses of `FaultAndSaveStepsComplete`. -/
theorem witness_fault_steps :
    (recordReady (stopped 0 false (withVd later10)) ((stopped 0 false (withVd later10)).groups.headD (grp .vector))) = true ∧
    ((groupAt? (stopped 0 false later10) 0).any (fun g => g.stop.any (fun r => recKind r != 1))) = true ∧
    ((groupAt? (stopped 1 false later10) 0).any (fun g => g.stop.any (fun r => recKind r == 1 && !r.nr))) = true ∧
    ((teamAt? (stopped 0 false later10) 1).isSome) = true ∧
    (later10.saves == [] && ({ later10 with saves := [emptySave] } : State).saves.any (fun v => v.ctx == 0 && v.whole && !v.done)) = true ∧
    (saveReady later10 emptySave) = true ∧
    ((evictCore? (withVd crowded) ({ launch with id := 2, vd := 0, ctx := 0, record := smallRecord, placed := 0 })).isSome) = true ∧
    ((restoreStatus later10 0).1 == 0x30) = true ∧
    (pageRoom later10 0 == some true) = true ∧
    (({ later10 with pageReqs := [⟨0, 0, 0, 0, false, 0, 0, true, false⟩] } : State).pageReqs.any (fun p => !p.taken && decide (p.fe < 16))) = true ∧
    ((cmdAt? (withCmd (cmd .xcopy .parked) later10) 9).any (fun c => c.phase == .parked)) = true ∧
    (restorable (heldSave (withVd later10)) 0) = true ∧
    ((restoreStatus (heldSave (withVd later10)) 0).1 == 0x30) = true ∧
    (!restorable later10 0 && !restorable (withVd later10) 0 && tableOk (withVd later10) 0 && !(tableOk { withVd later10 with places := [(0, 0x8001)] } 0)) = true ∧
    (later10.pageReqs.all (·.taken)) = true ∧
    (({ later10 with pageReqs := [⟨0, 0, 9, 0, true, 0, 0, true, true⟩] } : State).pageReqs.any (fun p => p.token == 9 && p.engine)) = true := by decide +kernel

/-- States and operands that meet the hypotheses of `SystemWritesComplete`. -/
theorem witness_system_writes :
    (vdStatus (withVd later10) 1 (625 * 8 * 2 ^ 64 + 2 ^ 96 + 2 ^ 33 + 1) == 0) = true ∧
    (decide (vdStatus (withVd later10) 1 (2 ^ 64 + 2 ^ 96 + 2 ^ 33 + 1) = 1)) = true ∧
    ((vdAt (withVd later10) 0).valid && !(vdAt (withVd later10) 0).susp) = true ∧
    (partStatus (withVd later10) 1 (2 ^ 173 + 0x8F08) == 0) = true ∧
    (serviceStatus (withVd { later10 with teams := [] }) 0 (4096 * 2 ^ 448 + 16 * 2 ^ 432) == 0) = true ∧
    ((vdOfCtx? (withVd { later10 with teams := [] }) 0).isSome) = true ∧
    (routesValid 0 (0 :: List.replicate 255 0x00040001)) = true ∧
    (!State.reset.timeSet && decide (timeNs State.reset ≤ 5)) = true ∧
    (decide (6 ≤ 6 ∧ 6 ≤ 16 ∧ (64 : BitVec 32).toNat = 2 ^ 6)) = true := by decide +kernel

/-- States and operands that meet the hypotheses of `DeviceStepsComplete`. -/
theorem witness_device_steps :
    ((bootFails [] 1).isSome && bootFails ({ later10 with flash := [] } : State).flash (beforeBoot { later10 with flash := [] } true).bootNo == some 1) = true ∧
    (({ later10 with boot := .recovery 1 } : State).boot == .recovery 1 && ConfigRec.shipped.image.length == 896) = true ∧
    (decide (targetPoint { later10 with dies := List.replicate 4 ⟨10, 0, 3, 0, 7, 0, none, 0, true⟩ } 0 < 3)) = true ∧
    (decide ((dieAt (withVd { later10 with launches := [{ launch with record := { smallRecord with oppt := 5 } }] }) 0).point < targetPoint (withVd { later10 with launches := [{ launch with record := { smallRecord with oppt := 5 } }] }) 0)) = true ∧
    (decide (later10.config.pwrlim < 3000)) = true ∧
    (!({ later10 with windows := [] } : State).windows.any (fun w => w.1 == 0 && decide (w.2.1 ≤ 0) && decide (0 < w.2.2))) = true ∧
    (later10.latent == [] && !lineInSpiral later10 0) = true ∧
    ((curSplit later10).any (fun p => delivered (bareCtx later10 p.1 p.2))) = true ∧
    ((List.range 4).any (fun d => decide (0 < (dieAt { later10 with dies := List.replicate 4 ⟨10, 0, 3, 7, 7, 0, none, 0, true⟩ } d).point))) = true ∧
    ((List.range 4).any (limited { withVd later10 with dies := List.replicate 4 ⟨10, 0, 3, 3, 7, 0, none, 0, true⟩, launches := [{ launch with record := { smallRecord with oppt := 5 } }] }) && decide (100 * 1000 < 95 * later10.config.pwrlim)) = true ∧
    (later10.agenda.any (fun d => d.ev == .patrolScrub) && ({ later10 with agenda := [] } : State).agenda.all (fun d => d.ev != .patrolScrub)) = true := by decide +kernel

/-! ### A save area that may be restored -/

/-- An area's header up to its tag: of context 0, the first save, of this module, STATE 1, version 1, 64 bytes long. -/
def areaLow : Nat := 2 ^ 64 + 2 ^ 128 + 2 ^ 256 + 2 ^ 264 + 64 * 2 ^ 320

/-- That header with a tag stands at the context's save address, and its save is held. -/
def withArea (tag : List Byte) : State :=
  { heldSave (withVd later10) with
    mem := (leBytes 48 areaLow ++ tag).zipIdx.map (fun p => (0x100000 + p.2, p.1)) }

theorem leNat_append (a b : List Byte) : leNat (a ++ b) = leNat a + 2 ^ (8 * a.length) * leNat b := by
  induction a with
  | nil => simp [leNat]
  | cons x a ih =>
    simp only [List.cons_append, leNat, ih, List.length_cons, Nat.mul_add, Nat.pow_add, Nat.mul_one]
    rw [show (2 : Nat) ^ 8 = 256 by decide, Nat.mul_comm (2 ^ (8 * a.length)) 256, Nat.mul_assoc]; omega

/-- A field below bit 384 does not depend on what stands above. -/
theorem bits_low (x y hi lo : Nat) (h : lo ≤ hi + 1) (h1 : hi < 384) : bits (x + 2 ^ 384 * y) hi lo = bits x hi lo := by
  have e : (2 : Nat) ^ 384 = 2 ^ lo * (2 ^ (hi + 1 - lo) * 2 ^ (383 - hi)) := by
    rw [← Nat.pow_add, ← Nat.pow_add]; congr 1; omega
  rw [bits, bits, e, Nat.mul_assoc, Nat.add_mul_div_left _ _ (Nat.two_pow_pos lo), Nat.mul_assoc, Nat.add_mul_mod_self_left]

/-- What the area holds. -/
theorem withArea_reads (tag : List Byte) (h : tag.length = 16) :
    directRead (withArea tag) 0x100000 64 = leBytes 48 areaLow ++ tag ∧
    directRead (withArea tag) (0x100000 + 48) 16 = tag ∧
    directRead (withArea tag) 0x100000 48 = leBytes 48 areaLow := by
  match tag, h with
  | [a, b, c, d, e, f, g, i, j, k, l, m, n, o, p, q], _ => exact ⟨rfl, rfl, rfl⟩

theorem withArea_bits (tag : List Byte) (h : tag.length = 16) (hi lo : Nat) (h0 : lo ≤ hi + 1) (h1 : hi < 384) :
    bits (areaHeader (withArea tag) 0x100000) hi lo = bits areaLow hi lo := by
  rw [areaHeader, (withArea_reads tag h).1, leNat_append, length_leBytes, bits_low _ _ _ _ h0 h1,
    show leNat (leBytes 48 areaLow) = areaLow by decide +kernel]

/-- The area's save is that of the state. -/
theorem withArea_save (tag : List Byte) (h : tag.length = 16) :
    saveOf? (withArea tag) 0 0x100000 = some { emptySave with done := true, held := true } := by
  simp only [saveOf?, withArea_bits tag h 127 64 (by decide) (by decide)]
  show List.find? _ [{ emptySave with done := true, held := true }] = _
  rw [List.find?_cons_of_pos (by decide +kernel)]

/-- With the right tag the restore's checks pass; with another they end in status 0x35 (R207). -/
theorem withArea_status (tag : List Byte) (h : tag.length = 16) :
    (restoreStatus (withArea tag) 0).1 =
      if tag = areaTag (withArea tag) 0 1 (leBytes 48 areaLow) [] then 0 else 0x35 := by
  have hs : (vdAt (withArea tag) 0).save = 0x100000 := rfl
  have hf : areaFoot (withArea tag) 0x100000 = [] := by
    rw [areaFoot, withArea_bits tag h 287 272 (by decide) (by decide)]
    rw [show bits areaLow 287 272 = 0 by decide +kernel]; rfl
  have ht : tableOk (withArea tag) (vdAt (withArea tag) 0).ctx = true := by
    exact (by decide +kernel : tableOk (heldSave (withVd later10)) 0 = true)
  have hr : restoreRoom (withArea tag) { emptySave with done := true, held := true } = true := rfl
  have he : areaError? (withArea tag) 0x100000 64 = none := by
    exact (by decide +kernel : areaError? (heldSave (withVd later10)) 0x100000 64 = none)
  have hb := fun hi lo h0 h1 => withArea_bits tag h hi lo h0 h1
  simp only [restoreStatus, hs, hf, ht, withArea_save tag h, hr, hb 257 256 (by decide) (by decide), hb 271 264 (by decide) (by decide),
    hb 191 128 (by decide) (by decide), hb 383 320 (by decide) (by decide), hb 319 288 (by decide) (by decide),
    hb 127 64 (by decide) (by decide), (withArea_reads tag h).2.1, (withArea_reads tag h).2.2,
    show bits areaLow 257 256 = 1 by decide +kernel, show bits areaLow 271 264 = 1 by decide +kernel,
    show bits areaLow 191 128 = 1 by decide +kernel, show bits areaLow 383 320 = 64 by decide +kernel,
    show bits areaLow 319 288 = 0 by decide +kernel, show bits areaLow 127 64 = 1 by decide +kernel, he]
  simp only [show (withArea tag).config.serial.toNat = 1 from rfl, show directRead (withArea tag) (0x100000 + 64) (64 - 64) = [] from rfl]
  generalize areaTag (withArea tag) 0 1 (leBytes 48 areaLow) [] = good
  by_cases hq : tag = good
  · subst hq; simp
  · rw [if_neg hq, bne_iff_ne.2 hq]; rfl

/-- A state in which a restore succeeds, and one in which its tag is wrong: the hypotheses of `FaultAndSaveStepsComplete` for statuses 0, 0x34 and 0x35. -/
theorem witness_restore :
    (∃ s v, restorable s 0 = true ∧ (restoreStatus s 0).1 = 0 ∧ saveOf? s 0 (vdAt s 0).save = some v) ∧
    (∃ s, restorable s 0 = true ∧ (restoreStatus s 0).1 = 0x35) ∧
    (∃ s, restorable s 0 = true ∧ (restoreStatus s 0).1 = 0x34) := by
  let good := areaTag (withArea []) 0 1 (leBytes 48 areaLow) []
  have hg : good.length = 16 := length_areaTag _ _ _ _ _
  have same : ∀ tag, areaTag (withArea tag) 0 1 (leBytes 48 areaLow) [] = good := fun _ => rfl
  refine ⟨⟨withArea good, _, rfl, ?_, withArea_save good hg⟩, ?_,
    ⟨{ withArea [] with poison := [0x2000] }, rfl, by decide +kernel⟩⟩
  · rw [withArea_status good hg, same, if_pos rfl]
  · refine ⟨withArea (xorBytes good (List.replicate 16 1)), rfl, ?_⟩
    have hx : (xorBytes good (List.replicate 16 1)).length = 16 := by rw [length_xorBytes, hg]; rfl
    rw [withArea_status _ hx, same, if_neg]
    intro e
    generalize good = g at *
    match g, hg with
    | b :: _, _ =>
      simp only [xorBytes, List.replicate, List.zipWith_cons_cons, List.cons.injEq] at e
      exact (by decide : ∀ b : Byte, b ^^^ 1 ≠ b) b e.1

/-! ### The assembler (R361, R368, R369) -/

/-- The kernel that 23_assembler.md assembles. -/
def add1 : List String := [".kernel add1",
  "        vshl.n32 v1, %lane, 2            ; v1 := lane*4",
  "        vld.s32 v2, [s0+v1]      !d1 !f0",
  "        vadd.s32 v2, v2, 1       !w0",
  "        vst.s32 [s0+v1], v2      !d1",
  "        exit",
  ".end"]

/-- What an image holds: code, wait-mask table, the header's CLEN, LOAD, ENTV, DLEN and TMPL, and its length. -/
def imageFacts (i : Asm.KernelImage) : List Nat × List Nat × List Nat :=
  let h := Asm.imageHeader i
  (i.code.map BitVec.toNat, i.wtab,
    [bits h 236 217, bits h 255 237, bits h 281 263, bits h 383 352, bits h 8 8, (Asm.imageBytes i).length])

/-- Words, table and header that 23_assembler.md gives for its kernel. -/
theorem test_assemble_add1 : (Asm.assemble add1).toOption.map (fun is => is.map imageFacts) =
    some [([0x00001382, 0x02400100, 0x09120000, 0x00202806, 0x01000200, 0x04000000, 0x02001002, 0x01020200,
      0x04100000, 0x08006884, 0x00000580], [0, 1, 0, 0, 0, 0, 0, 0], [44, 0, 0, 0, 0, 128])] := by decide +kernel

/-- The words of lines inside a kernel, or why it has none. -/
def assembled (ls : List String) : Except Asm.AsmStop (List Nat) :=
  (Asm.assemble ([".kernel t"] ++ ls ++ [".end"])).map (fun is => (is.map (fun i => i.code.map BitVec.toNat)).flatten)

/-- The sample lines of R361, and the counting loop of 06_group_control_isa.md. -/
theorem test_assemble_forms :
    (assembled ["vfma.f32 v8, v4, v5, v8 !d2", "vadd.s32 v2, v3, 200", "vmul.f32 v19, v16:t, v20 !w0"]).toOption =
      some [0x20415988, 0x08301001, 0xC8, 0, 0x02001902, 0x14101320, 0x0B000000] ∧
    ((assembled ["top: sadd.n64 s4, s4, s5", "sadd.n32 s6, s6, -1", "br.nz s6, top !d1"]).toOption.bind (·.getLast?)) =
      some 0x1BFF0204 := by decide +kernel

/-- Lines that R358, R360, R251 and R369 refuse. -/
theorem test_assemble_refuses :
    [assembled ["VADD.s32 v2, v3, v4"], assembled ["vadd.s32 v2, 300, 500"], assembled ["miter.g.f32 a0"],
      assembled ["br nowhere"], assembled ["nop !d1 !d2"]].all (fun x => x.toOption.isNone) = true := by decide +kernel

end Sys2Proof.Tests
end

section
/-!
What an instruction does of its own at its issue, by its opcode, and what that leaves alone.
-/
namespace Sys2Proof.Machine

/-- The own effect of an opcode's instruction: what its row of the opcode table hands to `issue` (`exec_word`). -/
def ownOf : Op → Ctx → State → Verdict
  | .nop => ownNop
  | .br => ownBr
  | .brZ => ownBrZ
  | .brNz => ownBrNz
  | .brLz => ownBrLz
  | .brGez => ownBrGez
  | .brx | .ret => ownIndirect
  | .call => ownCall
  | .callx => ownCallx
  | .exit => ownExit
  | .yield => ownYield
  | .split => ownSplit
  | .barArrive => ownArrive false
  | .barWait => ownBarWait
  | .barSync => ownArrive true
  | .barDrop => ownBarDrop
  | .qpush => ownQpush
  | .qpop => ownQpop
  | .sadd => ownSadd
  | .ssub => ownSsub
  | .smul => ownSmul
  | .sand => ownSand
  | .sor => ownSor
  | .sxor => ownSxor
  | .sshl => ownSshl
  | .sshr => ownSshr
  | .smin => ownSmin
  | .smax => ownSmax
  | .smov => ownSmov
  | .ssel => ownSsel
  | .sspr => ownSspr
  | .scmp => ownScmp
  | .slea => ownSlea
  | .sbfe => ownSbfe
  | .sbfi => ownSbfi
  | .sclz => ownSclz
  | .spopc => ownSpopc
  | .callv => ownCallv
  | .retv => ownRetv
  | .brAny => ownBrMask false
  | .brAll => ownBrMask true
  | .migrate => ownMigrate
  | .launch => ownLaunch
  | .launchWait => ownLaunchWait
  | .sleep => ownSleep
  | .smulh => ownSmulh
  | .sdiv => ownSdiv
  | .srem => ownSrem
  | .barTest => ownBarTest
  | .barAdd => ownBarAdd
  | .qpushn => ownQpushn
  | .qpopn => ownQpopn
  | .qlen => ownQlen
  | .qpeek => ownQpeek
  | .trap => ownTrap
  | .rgn => ownRgn
  | .brk => ownBrk
  | .mark => ownMark
  | .evt => ownEvt
  | .opt => ownOpt
  | .prio => ownPrio
  | .gstat => ownGstat
  | .vaddS32 => ownVaddInt
  | .vsubS32 => ownVsubInt
  | .vmulS32 => ownVmulInt
  | .vmad => ownVmad
  | .vand => ownVand
  | .vor => ownVor
  | .vxor => ownVxor
  | .vshl => ownVshl
  | .vshr => ownVshr
  | .vminS32 => ownVminInt
  | .vmaxS32 => ownVmaxInt
  | .vabsS32 => ownVabsInt
  | .vnegS32 => ownVnegInt
  | .vsel => ownVsel
  | .vmov => ownVmov
  | .vdot4 => ownVdot4
  | .vaddF32 => ownVaddF
  | .vsubF32 => ownVsubF
  | .vmulF32 => ownVmulF
  | .vfma => ownVfma
  | .vfms => ownVfms
  | .vfnma => ownVfnma
  | .vminF32 => ownVminF
  | .vmaxF32 => ownVmaxF
  | .vabsF32 => ownVabsF
  | .vnegF32 => ownVnegF
  | .vdiv => ownVdiv
  | .vsqrt => ownVsqrt
  | .vrsqrt => ownSpecial rsqrtF32
  | .vrcp => ownSpecial rcpF32
  | .vexp2 => ownSpecial (specialF32 .exp2)
  | .vlog2 => ownSpecial (specialF32 .log2)
  | .vexp => ownSpecial (specialF32 .exp)
  | .vlog => ownSpecial (specialF32 .log)
  | .vsin => ownSpecial (specialF32 .sin)
  | .vcos => ownSpecial (specialF32 .cos)
  | .vtanh => ownSpecial (specialF32 .tanh)
  | .vsigm => ownSpecial (specialF32 .sigm)
  | .vrint => ownVrint
  | .vscale => ownVscale
  | .vpack => ownVpack
  | .vunpack => ownVunpack
  | .vshfl => ownVshfl
  | .vbcast => ownVbcast
  | .vrot => ownVrot
  | .vbfly => ownVbfly
  | .vred => ownVred
  | .vballot => ownVballot
  | .vld | .vldw => ownVld
  | .vst | .vstw => ownVst
  | .vlds | .vldsw => ownSpadLoad
  | .vsts | .vstsw => ownSpadStore
  | .vldb => ownVldb
  | .fence => ownFence
  | .vaadd | .vamin | .vamax | .vaand | .vaor | .vaxor | .vaxch | .vacas => ownAtomic
  | .vradd | .vrmin | .vrmax | .vrbit => ownReduce
  | .vcmpS32 | .vcmpF32 => ownVcmp
  | .vkop => ownVkop
  | .vclz => ownVclz
  | .vpopc => ownVpopc
  | .vbfe => ownVbfe
  | .vbfi => ownVbfi
  | .vmulh => ownVmulh
  | .vadds => ownVadds
  | .vsubs => ownVsubs
  | .vcvt => ownVcvt
  | .vquant => ownVquant
  | .vdequant => ownVdequant
  | .vext => ownVext
  | .vins => ownVins
  | .scvt => ownScvt
  | .vmant => ownVmant
  | .vexpo => ownVexpo
  | .vscan => ownVscan
  | .vldnf => ownVldnf
  | .vldk => ownVldk
  | .vstk => ownVstk
  | .vprf => ownVprf
  | .mmac => ownMmac
  | .mgmac => ownMgmac
  | .mmaci => ownMmaci
  | .mcbload | .mst => ownXfer true
  | .msmx => ownMsmx
  | .msnorm | .mzero | .mscale | .mtrans | .mstat => ownPlainArray
  | .mclaim => ownMclaim
  | .mrel => ownMrel
  | .mfeed => ownMfeed
  | .mfeeda => ownMfeeda
  | .mld => ownXfer false
  | .mpoly | .miterG | .miterS => ownIter
  | .mgang => ownMgang
  | .mgleave => ownMgleave
  | .mcoef => ownMcoef
  | .xcopy | .xcopy2 | .xcopy3 | .xgath | .xscat | .xfill | .xred => ownCopy
  | .xslot => ownXslot
  | .xprf => ownXprf
  | .xstat => ownXstat
  | .xcancel => ownXcancel
  | .xhand => ownXhand
  | .hdist | .hpin | .hunpin | .hpre | .hdemote | .hocc => spiralOwn
  | .pmake | .pfill | .peq | .pwait | .ppoll | .pfind => promiseOwn
  | .lput | .lget | .lallred | .lallgat | .lredsc | .lbcast => linkOwn

/-- Row by row, an instruction of the opcode table is the shared skeleton of an issue with the own effect of its opcode. -/
theorem exec_word {i : Instr} {o : Op} {w : Word3} (hi : instrWord i = some (o, w)) (s : State) :
    exec i s = issue o w (ownOf o) s := by
  cases i <;> cases hi <;> rfl

/-- What the own effect of an opcode leaves alone: everything here, but for the instructions that are there to write
it at their issue. -/
structure OwnKeeps (o : Op) (s t : State) : Prop where
  regs : o ≠ .vldnf → sameRegs s t
  bytes : o ≠ .mark → sameBytes s t
  spads : o ≠ .vsts → o ≠ .vstsw → o ≠ .vstk → sameSpads s t
  engines : sameEngines s t

/-- The instructions that write none of it at their issue. -/
theorem OwnKeeps.of_all {o : Op} {s t : State} (h : sameRegs s t ∧ sameBytes s t ∧ sameSpads s t ∧ sameEngines s t) :
    OwnKeeps o s t := by
  obtain ⟨hr, hb, hs, he⟩ := h
  exact ⟨fun _ => hr, fun _ => hb, fun _ _ _ => hs, he⟩

/-- The scratchpad stores. -/
theorem OwnKeeps.of_spadStore {o : Op} {s t : State} (ho : o = .vsts ∨ o = .vstsw ∨ o = .vstk)
    (h : sameRegs s t ∧ sameBytes s t ∧ sameEngines s t) : OwnKeeps o s t := by
  obtain ⟨hr, hb, he⟩ := h
  refine ⟨fun _ => hr, fun _ => hb, fun h1 h2 h3 => ?_, he⟩
  rcases ho with ho | ho | ho
  · exact absurd ho h1
  · exact absurd ho h2
  · exact absurd ho h3

theorem ownOf_keeps {o : Op} {c : Ctx} {s t : State} (h : ownOf o c s = .act t) : OwnKeeps o s t := by
  cases o with
  | nop => exact .of_all (ownNop_keeps h)
  | br => exact .of_all (ownBr_keeps h)
  | brZ => exact .of_all (ownBrZ_keeps h)
  | brNz => exact .of_all (ownBrNz_keeps h)
  | brLz => exact .of_all (ownBrLz_keeps h)
  | brGez => exact .of_all (ownBrGez_keeps h)
  | brx | ret => exact .of_all (ownIndirect_keeps h)
  | call => exact .of_all (ownCall_keeps h)
  | callx => exact .of_all (ownCallx_keeps h)
  | exit => exact .of_all (ownExit_keeps h)
  | yield => exact .of_all (ownYield_keeps h)
  | split => exact .of_all (ownSplit_keeps h)
  | barArrive => exact .of_all (ownArrive_keeps h)
  | barWait => exact .of_all (ownBarWait_keeps h)
  | barSync => exact .of_all (ownArrive_keeps h)
  | barDrop => exact .of_all (ownBarDrop_keeps h)
  | qpush => exact .of_all (ownQpush_keeps h)
  | qpop => exact .of_all (ownQpop_keeps h)
  | sadd => exact .of_all (ownSadd_keeps h)
  | ssub => exact .of_all (ownSsub_keeps h)
  | smul => exact .of_all (ownSmul_keeps h)
  | sand => exact .of_all (ownSand_keeps h)
  | sor => exact .of_all (ownSor_keeps h)
  | sxor => exact .of_all (ownSxor_keeps h)
  | sshl => exact .of_all (ownSshl_keeps h)
  | sshr => exact .of_all (ownSshr_keeps h)
  | smin => exact .of_all (ownSmin_keeps h)
  | smax => exact .of_all (ownSmax_keeps h)
  | smov => exact .of_all (ownSmov_keeps h)
  | ssel => exact .of_all (ownSsel_keeps h)
  | sspr => exact .of_all (ownSspr_keeps h)
  | scmp => exact .of_all (ownScmp_keeps h)
  | slea => exact .of_all (ownSlea_keeps h)
  | sbfe => exact .of_all (ownSbfe_keeps h)
  | sbfi => exact .of_all (ownSbfi_keeps h)
  | sclz => exact .of_all (ownSclz_keeps h)
  | spopc => exact .of_all (ownSpopc_keeps h)
  | callv => exact .of_all (ownCallv_keeps h)
  | retv => exact .of_all (ownRetv_keeps h)
  | brAny => exact .of_all (ownBrMask_keeps h)
  | brAll => exact .of_all (ownBrMask_keeps h)
  | migrate => exact .of_all (ownMigrate_keeps h)
  | launch => exact .of_all (ownLaunch_keeps h)
  | launchWait => exact .of_all (ownLaunchWait_keeps h)
  | sleep => exact .of_all (ownSleep_keeps h)
  | smulh => exact .of_all (ownSmulh_keeps h)
  | sdiv => exact .of_all (ownSdiv_keeps h)
  | srem => exact .of_all (ownSrem_keeps h)
  | barTest => exact .of_all (ownBarTest_keeps h)
  | barAdd => exact .of_all (ownBarAdd_keeps h)
  | qpushn => exact .of_all (ownQpushn_keeps h)
  | qpopn => exact .of_all (ownQpopn_keeps h)
  | qlen => exact .of_all (ownQlen_keeps h)
  | qpeek => exact .of_all (ownQpeek_keeps h)
  | trap => exact .of_all (ownTrap_keeps h)
  | rgn => exact .of_all (ownRgn_keeps h)
  | brk => exact .of_all (ownBrk_keeps h)
  | mark =>
    obtain ⟨hr, hs, he⟩ := ownMark_keeps h
    exact ⟨fun _ => hr, fun hn => absurd rfl hn, fun _ _ _ => hs, he⟩
  | evt => exact .of_all (ownEvt_keeps h)
  | opt => exact .of_all (ownOpt_keeps h)
  | prio => exact .of_all (ownPrio_keeps h)
  | gstat => exact .of_all (ownGstat_keeps h)
  | vaddS32 => exact .of_all (ownVaddInt_keeps h)
  | vsubS32 => exact .of_all (ownVsubInt_keeps h)
  | vmulS32 => exact .of_all (ownVmulInt_keeps h)
  | vmad => exact .of_all (ownVmad_keeps h)
  | vand => exact .of_all (ownVand_keeps h)
  | vor => exact .of_all (ownVor_keeps h)
  | vxor => exact .of_all (ownVxor_keeps h)
  | vshl => exact .of_all (ownVshl_keeps h)
  | vshr => exact .of_all (ownVshr_keeps h)
  | vminS32 => exact .of_all (ownVminInt_keeps h)
  | vmaxS32 => exact .of_all (ownVmaxInt_keeps h)
  | vabsS32 => exact .of_all (ownVabsInt_keeps h)
  | vnegS32 => exact .of_all (ownVnegInt_keeps h)
  | vsel => exact .of_all (ownVsel_keeps h)
  | vmov => exact .of_all (ownVmov_keeps h)
  | vdot4 => exact .of_all (ownVdot4_keeps h)
  | vaddF32 => exact .of_all (ownVaddF_keeps h)
  | vsubF32 => exact .of_all (ownVsubF_keeps h)
  | vmulF32 => exact .of_all (ownVmulF_keeps h)
  | vfma => exact .of_all (ownVfma_keeps h)
  | vfms => exact .of_all (ownVfms_keeps h)
  | vfnma => exact .of_all (ownVfnma_keeps h)
  | vminF32 => exact .of_all (ownVminF_keeps h)
  | vmaxF32 => exact .of_all (ownVmaxF_keeps h)
  | vabsF32 => exact .of_all (ownVabsF_keeps h)
  | vnegF32 => exact .of_all (ownVnegF_keeps h)
  | vdiv => exact .of_all (ownVdiv_keeps h)
  | vsqrt => exact .of_all (ownVsqrt_keeps h)
  | vrsqrt => exact .of_all (ownSpecial_keeps h)
  | vrcp => exact .of_all (ownSpecial_keeps h)
  | vexp2 => exact .of_all (ownSpecial_keeps h)
  | vlog2 => exact .of_all (ownSpecial_keeps h)
  | vexp => exact .of_all (ownSpecial_keeps h)
  | vlog => exact .of_all (ownSpecial_keeps h)
  | vsin => exact .of_all (ownSpecial_keeps h)
  | vcos => exact .of_all (ownSpecial_keeps h)
  | vtanh => exact .of_all (ownSpecial_keeps h)
  | vsigm => exact .of_all (ownSpecial_keeps h)
  | vrint => exact .of_all (ownVrint_keeps h)
  | vscale => exact .of_all (ownVscale_keeps h)
  | vpack => exact .of_all (ownVpack_keeps h)
  | vunpack => exact .of_all (ownVunpack_keeps h)
  | vshfl => exact .of_all (ownVshfl_keeps h)
  | vbcast => exact .of_all (ownVbcast_keeps h)
  | vrot => exact .of_all (ownVrot_keeps h)
  | vbfly => exact .of_all (ownVbfly_keeps h)
  | vred => exact .of_all (ownVred_keeps h)
  | vballot => exact .of_all (ownVballot_keeps h)
  | vld | vldw => exact .of_all (ownVld_keeps h)
  | vst | vstw => exact .of_all (ownVst_keeps h)
  | vlds | vldsw => exact .of_all (ownSpadLoad_keeps h)
  | vsts | vstsw => exact .of_spadStore (by simp) (ownSpadStore_keeps h)
  | vldb => exact .of_all (ownVldb_keeps h)
  | fence => exact .of_all (ownFence_keeps h)
  | vaadd | vamin | vamax | vaand | vaor | vaxor | vaxch | vacas => exact .of_all (ownAtomic_keeps h)
  | vradd | vrmin | vrmax | vrbit => exact .of_all (ownReduce_keeps h)
  | vcmpS32 | vcmpF32 => exact .of_all (ownVcmp_keeps h)
  | vkop => exact .of_all (ownVkop_keeps h)
  | vclz => exact .of_all (ownVclz_keeps h)
  | vpopc => exact .of_all (ownVpopc_keeps h)
  | vbfe => exact .of_all (ownVbfe_keeps h)
  | vbfi => exact .of_all (ownVbfi_keeps h)
  | vmulh => exact .of_all (ownVmulh_keeps h)
  | vadds => exact .of_all (ownVadds_keeps h)
  | vsubs => exact .of_all (ownVsubs_keeps h)
  | vcvt => exact .of_all (ownVcvt_keeps h)
  | vquant => exact .of_all (ownVquant_keeps h)
  | vdequant => exact .of_all (ownVdequant_keeps h)
  | vext => exact .of_all (ownVext_keeps h)
  | vins => exact .of_all (ownVins_keeps h)
  | scvt => exact .of_all (ownScvt_keeps h)
  | vmant => exact .of_all (ownVmant_keeps h)
  | vexpo => exact .of_all (ownVexpo_keeps h)
  | vscan => exact .of_all (ownVscan_keeps h)
  | vldnf =>
    obtain ⟨hb, hs, he⟩ := ownVldnf_keeps h
    exact ⟨fun hn => absurd rfl hn, fun _ => hb, fun _ _ _ => hs, he⟩
  | vldk => exact .of_all (ownVldk_keeps h)
  | vstk => exact .of_spadStore (by simp) (ownVstk_keeps h)
  | vprf => exact .of_all (ownVprf_keeps h)
  | mmac => exact .of_all (ownMmac_keeps h)
  | mgmac => exact .of_all (ownMgmac_keeps h)
  | mmaci => exact .of_all (ownMmaci_keeps h)
  | mcbload | mst => exact .of_all (ownXfer_keeps h)
  | msmx => exact .of_all (ownMsmx_keeps h)
  | msnorm | mzero | mscale | mtrans | mstat => exact .of_all (ownPlainArray_keeps h)
  | mclaim => exact .of_all (ownMclaim_keeps h)
  | mrel => exact .of_all (ownMrel_keeps h)
  | mfeed => exact .of_all (ownMfeed_keeps h)
  | mfeeda => exact .of_all (ownMfeeda_keeps h)
  | mld => exact .of_all (ownXfer_keeps h)
  | mpoly | miterG | miterS => exact .of_all (ownIter_keeps h)
  | mgang => exact .of_all (ownMgang_keeps h)
  | mgleave => exact .of_all (ownMgleave_keeps h)
  | mcoef => exact .of_all (ownMcoef_keeps h)
  | xcopy | xcopy2 | xcopy3 | xgath | xscat | xfill | xred => exact .of_all (ownCopy_keeps h)
  | xslot => exact .of_all (ownXslot_keeps h)
  | xprf => exact .of_all (ownXprf_keeps h)
  | xstat => exact .of_all (ownXstat_keeps h)
  | xcancel => exact .of_all (ownXcancel_keeps h)
  | xhand => exact .of_all (ownXhand_keeps h)
  | hdist | hpin | hunpin | hpre | hdemote | hocc => exact .of_all (spiralOwn_keeps h)
  | pmake | pfill | peq | pwait | ppoll | pfind => exact .of_all (promiseOwn_keeps h)
  | lput | lget | lallred | lallgat | lredsc | lbcast => exact .of_all (linkOwn_keeps h)

/-- Only `mark` writes bytes of memory at its issue, and it keeps their canonical form. -/
theorem ownOf_canonical {o : Op} {c : Ctx} {s t : State} (hs : canonical s = true) (h : ownOf o c s = .act t) :
    canonical t = true := by
  by_cases ho : o = .mark
  · subst ho
    rw [← Verdict.act.inj h]
    exact canonical_of_wf hs traceMark_wf (traceMark_codes c s)
  · exact canonical_of_bytes hs ((ownOf_keeps h).bytes ho)

/-- An attempt to issue keeps the canonical form if the instruction's own effect does. -/
theorem issue_canonical {o : Op} {w : Word3} {own : Ctx → State → Verdict} {s t : State}
    (hown : ∀ c x y, canonical x = true → own c x = .act y → canonical y = true)
    (hs : canonical s = true) (h : issue o w own s = .next t) : canonical t = true := by
  rcases hc : curSplit s with _ | ⟨g, sp⟩
  · rw [issue_none hc] at h; cases h
  · rw [issue_cur hc] at h
    injection h with h
    subst h
    refine attempt_ends (canonical · = true) o w own s g sp ?held ?raise ?empty ?block ?arrive ?act
    case held => exact fun _ => canonical_of_bytes hs ⟨rfl, rfl⟩
    case raise => exact fun _ _ _ _ => canonical_of_bytes hs (raiseAt_bytes ..)
    case empty => exact canonical_of_bytes hs (by simp)
    case block => exact fun _ _ _ => canonical_of_bytes hs (by simp)
    case arrive => exact fun _ => canonical_of_bytes hs ⟨rfl, rfl⟩
    case act =>
      intro t ht
      have hbegin := canonical_of_bytes hs (beginIssue_bytes s (ctxOf o w s g sp))
      exact canonical_of_bytes (hown _ _ _ hbegin ht) (afterIssue_bytes ..)

theorem exec_word_canonical {i : Instr} {o : Op} {w : Word3} {s t : State} (hi : instrWord i = some (o, w))
    (hs : canonical s = true) (h : exec i s = .next t) : canonical t = true := by
  rw [exec_word hi] at h
  exact issue_canonical (fun _ _ _ => ownOf_canonical) hs h

end Sys2Proof.Machine
end

section
/-!
The steps of the machine that write no byte of device memory and of the code stores.
-/
namespace Sys2Proof.Machine

/-- `P` holds of the next state that an outcome gives, if it gives one. -/
def nextHolds (P : State → Prop) : Host.Outcome State Fault Refusal → Prop
  | .next t => P t
  | .fault _ => True
  | .refused _ => True

theorem nextHolds.of_next {P : State → Prop} {r : Host.Outcome State Fault Refusal} (h : nextHolds P r) {t : State}
    (ht : r = .next t) : P t := by
  subst ht; exact h

theorem next_sameBytes {s t : State} : nextHolds (sameBytes s) (.next t) ↔ t.mem = s.mem ∧ t.codes = s.codes := Iff.rfl

/-! ### The illegal-instruction trap (R79) -/

theorem illegalTrap_bytes (k : Nat) (s : State) : nextHolds (sameBytes s) (illegalTrap k s) := by
  unfold illegalTrap
  split
  · trivial
  · split
    · trivial
    · split
      · trivial
      · rw [next_sameBytes]; split <;> simp

/-! ### Groups, teams and memory accesses -/

theorem execYieldEnd_bytes (g : Nat) (s : State) : nextHolds (sameBytes s) (execYieldEnd g s) := by
  rw [execYieldEnd, next_sameBytes]; split <;> simp

theorem execCalleeTake_bytes (g : Nat) (s : State) : nextHolds (sameBytes s) (execCalleeTake g s) := by
  rw [execCalleeTake, next_sameBytes]; (repeat' split) <;> simp

theorem execMigrateMove_bytes (u : Nat) (s : State) : nextHolds (sameBytes s) (execMigrateMove u s) := by
  rw [execMigrateMove, next_sameBytes]; dsimp only; (repeat' split) <;> simp

theorem execArrivalCounted_bytes (op : Nat) (s : State) : nextHolds (sameBytes s) (execArrivalCounted op s) := by
  rw [execArrivalCounted, next_sameBytes]; (repeat' split) <;> simp

theorem execLoadReply_bytes (id : Nat) (s : State) : nextHolds (sameBytes s) (execLoadReply id s) := by
  rw [execLoadReply, next_sameBytes]; (repeat' split) <;> simp

theorem execSpadAccessComplete_bytes (op : Nat) (s : State) : nextHolds (sameBytes s) (execSpadAccessComplete op s) := by
  rw [execSpadAccessComplete, next_sameBytes]; split <;> simp

theorem execStoreAck_bytes (id : Nat) (s : State) : nextHolds (sameBytes s) (execStoreAck id s) := by
  rw [execStoreAck, next_sameBytes]; (repeat' split) <;> simp

theorem execFenceComplete_bytes (op : Nat) (s : State) : nextHolds (sameBytes s) (execFenceComplete op s) := by
  rw [execFenceComplete, next_sameBytes]; split <;> simp

theorem execGroupEnd_bytes (u : Nat) (s : State) : nextHolds (sameBytes s) (execGroupEnd u s) := by
  rw [execGroupEnd, next_sameBytes]; split <;> simp

theorem execTeamPlace_bytes (id : Nat) (s : State) : nextHolds (sameBytes s) (execTeamPlace id s) := by
  rw [execTeamPlace, next_sameBytes]; (repeat' split) <;> simp

theorem execTeamEnd_bytes (id : Nat) (s : State) : nextHolds (sameBytes s) (execTeamEnd id s) := by
  rw [execTeamEnd, next_sameBytes]; split <;> simp

/-! ### Resume actions, preemption and eviction -/

theorem execResumeContinue_bytes (u : Nat) (s : State) : nextHolds (sameBytes s) (execResumeContinue u s) :=
  withStop_bytes fun _ _ => by split <;> simp

theorem execResumeRerun_bytes (u : Nat) (s : State) : nextHolds (sameBytes s) (execResumeRerun u s) :=
  withStop_bytes fun _ _ => by (repeat' split) <;> simp

theorem execResumeEndGroup_bytes (u : Nat) (s : State) : nextHolds (sameBytes s) (execResumeEndGroup u s) :=
  withStop_bytes fun _ _ => by simp

theorem execResumeEndLaunch_bytes (u : Nat) (s : State) : nextHolds (sameBytes s) (execResumeEndLaunch u s) :=
  withStop_bytes fun _ _ => by split <;> simp

theorem execResumeInvalid_bytes (u action : Nat) (s : State) : nextHolds (sameBytes s) (execResumeInvalid u action s) :=
  withStop_bytes fun _ _ => ⟨rfl, rfl⟩

theorem execPreempt_bytes (ctx : Nat) (s : State) : nextHolds (sameBytes s) (execPreempt ctx s) := by
  rw [execPreempt, next_sameBytes]; simp

theorem execPartialEviction_bytes (launch core : Nat) (s : State) :
    nextHolds (sameBytes s) (execPartialEviction launch core s) := by
  rw [execPartialEviction, next_sameBytes]; (repeat' split) <;> simp

/-! ### The matrix engine -/

theorem execSlotRelease_bytes (op : Nat) (s : State) : nextHolds (sameBytes s) (execSlotRelease op s) := by
  rw [execSlotRelease, next_sameBytes]; (repeat' split) <;> simp

theorem execArrayStart_bytes (core : Nat) (s : State) : nextHolds (sameBytes s) (execArrayStart core s) := by
  rw [execArrayStart, next_sameBytes]; (repeat' split) <;> simp

theorem execArrayComplete_bytes (core : Nat) (s : State) : nextHolds (sameBytes s) (execArrayComplete core s) := by
  rw [execArrayComplete, next_sameBytes]; split <;> simp

theorem execMfeedComplete_bytes (op : Nat) (s : State) : nextHolds (sameBytes s) (execMfeedComplete op s) := by
  rw [execMfeedComplete, next_sameBytes]; split <;> simp

theorem execMfeedaComplete_bytes (op : Nat) (s : State) : nextHolds (sameBytes s) (execMfeedaComplete op s) := by
  rw [execMfeedaComplete, next_sameBytes]; split <;> simp

theorem execIterationPhaseEnd_bytes (core : Nat) (s : State) : nextHolds (sameBytes s) (execIterationPhaseEnd core s) := by
  rw [execIterationPhaseEnd, next_sameBytes]; split <;> simp

theorem execGangRendezvous_bytes (core : Nat) (s : State) : nextHolds (sameBytes s) (execGangRendezvous core s) := by
  rw [execGangRendezvous, next_sameBytes]; dsimp only; (repeat' split) <;> simp

theorem execGangTimeout_bytes (core : Nat) (s : State) : nextHolds (sameBytes s) (execGangTimeout core s) := by
  rw [execGangTimeout, next_sameBytes]; simp

/-! ### Copy engines -/

theorem execCopyCommandStart_bytes (id : Nat) (s : State) : nextHolds (sameBytes s) (execCopyCommandStart id s) := by
  rw [execCopyCommandStart, next_sameBytes]; split <;> simp

theorem execCopyBlock_bytes (eng : Nat) (s : State) : nextHolds (sameBytes s) (execCopyBlock eng s) := by
  rw [execCopyBlock, next_sameBytes]; (repeat' split) <;> simp

theorem execCopyLanding_bytes (core : Nat) (s : State) : nextHolds (sameBytes s) (execCopyLanding core s) := by
  rw [execCopyLanding, next_sameBytes]; split <;> simp

theorem execCopyComplete_bytes (id : Nat) (s : State) : nextHolds (sameBytes s) (execCopyComplete id s) := by
  rw [execCopyComplete, next_sameBytes]; split <;> simp

theorem execXhandPush_bytes (id : Nat) (s : State) : nextHolds (sameBytes s) (execXhandPush id s) := by
  rw [execXhandPush, next_sameBytes]; split <;> simp

theorem execCopyAbortFault_bytes (u : Nat) (s : State) : nextHolds (sameBytes s) (execCopyAbortFault u s) := by
  rw [execCopyAbortFault, next_sameBytes]; (repeat' split) <;> simp

/-! ### Fronts and spirals -/

theorem execFrontAccept_bytes (id : Nat) (s : State) : nextHolds (sameBytes s) (execFrontAccept id s) := by
  rw [execFrontAccept, next_sameBytes]; dsimp only; (repeat' split) <;> simp

theorem execWaveFind_bytes (id : Nat) (s : State) : nextHolds (sameBytes s) (execWaveFind id s) := by
  rw [execWaveFind, next_sameBytes]; (repeat' split) <;> simp

theorem execTileLand_bytes (arm tile : Nat) (s : State) : nextHolds (sameBytes s) (execTileLand arm tile s) := by
  rw [execTileLand, next_sameBytes]; split <;> simp

theorem execMemoryReply_bytes (arm tile id : Nat) (s : State) :
    nextHolds (sameBytes s) (execMemoryReply arm tile id s) := by
  rw [execMemoryReply, next_sameBytes]; split <;> simp

theorem execTileLeaveComplete_bytes (arm tile : Nat) (s : State) :
    nextHolds (sameBytes s) (execTileLeaveComplete arm tile s) := by
  rw [execTileLeaveComplete, next_sameBytes]; (repeat' split) <;> simp

theorem execSharerDropAck_bytes (arm line sector : Nat) (s : State) :
    nextHolds (sameBytes s) (execSharerDropAck arm line sector s) := by
  rw [execSharerDropAck, next_sameBytes]; split <;> simp

theorem execWriteUpdateWords_bytes (id : Nat) (s : State) : nextHolds (sameBytes s) (execWriteUpdateWords id s) := by
  rw [execWriteUpdateWords, next_sameBytes]; split <;> simp

theorem execCopyTileReply_bytes (id : Nat) (s : State) : nextHolds (sameBytes s) (execCopyTileReply id s) := by
  rw [execCopyTileReply, next_sameBytes]; (repeat' split) <;> simp

theorem execLeaseRenewal_bytes (id : Nat) (s : State) : nextHolds (sameBytes s) (execLeaseRenewal id s) := by
  rw [execLeaseRenewal, next_sameBytes]; split <;> simp

theorem execLeaseExpiry_bytes (arm line : Nat) (s : State) : nextHolds (sameBytes s) (execLeaseExpiry arm line s) := by
  rw [execLeaseExpiry, next_sameBytes]; (repeat' split) <;> simp

theorem execDepartureWindowEnd_bytes (u : Nat) (s : State) : nextHolds (sameBytes s) (execDepartureWindowEnd u s) := by
  rw [execDepartureWindowEnd, next_sameBytes]; split <;> simp

theorem execForwardEntryFree_bytes (arm block : Nat) (s : State) :
    nextHolds (sameBytes s) (execForwardEntryFree arm block s) := by
  rw [execForwardEntryFree, next_sameBytes]; split <;> simp

/-! ### Promise wakes, links, collectives and the host -/

theorem execPromiseWakeSend_bytes (cell : Nat) (s : State) : nextHolds (sameBytes s) (execPromiseWakeSend cell s) := by
  rw [execPromiseWakeSend, next_sameBytes]; split <;> simp

theorem execPromiseWakeArrive_bytes (id : Nat) (s : State) : nextHolds (sameBytes s) (execPromiseWakeArrive id s) := by
  rw [execPromiseWakeArrive, next_sameBytes]; dsimp only; (repeat' split) <;> simp

theorem execLinkFrameReceive_bytes (link : Nat) (f : LinkFrame) (s : State) :
    nextHolds (sameBytes s) (execLinkFrameReceive link f s) := by
  rw [execLinkFrameReceive, next_sameBytes]; (repeat' split) <;> simp

theorem execCollectiveMatch_bytes (id : Nat) (s : State) : nextHolds (sameBytes s) (execCollectiveMatch id s) := by
  rw [execCollectiveMatch, next_sameBytes]; (repeat' split) <;> simp

theorem execCollectiveTimeout_bytes (id : Nat) (s : State) : nextHolds (sameBytes s) (execCollectiveTimeout id s) := by
  rw [execCollectiveTimeout, next_sameBytes]; split <;> simp

theorem execCollectiveComplete_bytes (id : Nat) (s : State) : nextHolds (sameBytes s) (execCollectiveComplete id s) := by
  rw [execCollectiveComplete, next_sameBytes]; dsimp only; (repeat' split) <;> simp

theorem execLputSignal_bytes (op : Nat) (s : State) : nextHolds (sameBytes s) (execLputSignal op s) := by
  rw [execLputSignal, next_sameBytes]; dsimp only; (repeat' split) <;> simp

theorem execHostAccess_bytes (a : HostAcc) (s : State) : nextHolds (sameBytes s) (execHostAccess a s) := by
  rw [execHostAccess, next_sameBytes]; simp

theorem execHostBarrier_bytes (core : Nat) (s : State) : nextHolds (sameBytes s) (execHostBarrier core s) := by
  rw [execHostBarrier, next_sameBytes]; simp

/-- By induction, not `foldl_bytes`: the kernel would evaluate `hostReq` to compare the loop's body with that lemma's. -/
theorem foldl_hostReq_bytes (requester : Nat) (ls : List (Nat × Ask)) (s : State) :
    sameBytes s (ls.foldl (fun st p => hostReq st (.pcie requester) (blockPart st (128 * p.1)) 1 p.1 p.2) s) := by
  induction ls generalizing s with
  | nil => exact ⟨rfl, rfl⟩
  | cons p ls ih =>
    obtain ⟨hm, hc⟩ := hostReq_bytes s (.pcie requester) (blockPart s (128 * p.1)) 1 p.1 p.2
    obtain ⟨im, ic⟩ := ih (hostReq s (.pcie requester) (blockPart s (128 * p.1)) 1 p.1 p.2)
    exact ⟨im.trans hm, ic.trans hc⟩

theorem execPcieRead_bytes (requester addr len : Nat) (s : State) :
    nextHolds (sameBytes s) (execPcieRead requester addr len s) :=
  foldl_hostReq_bytes _ _ _

theorem execTimeAgreementLoss_bytes (s : State) : nextHolds (sameBytes s) (execTimeAgreementLoss s) := by
  rw [execTimeAgreementLoss, next_sameBytes]; simp

/-! ### Commands, launches and page requests -/

theorem execDeviceLaunchAccept_bytes (fe : Nat) (s : State) : nextHolds (sameBytes s) (execDeviceLaunchAccept fe s) := by
  rw [execDeviceLaunchAccept, next_sameBytes]; dsimp only; (repeat' split) <;> simp

theorem execLaunchHoldEnd_bytes (id : Nat) (s : State) : nextHolds (sameBytes s) (execLaunchHoldEnd id s) := by
  rw [execLaunchHoldEnd, next_sameBytes]; split <;> simp

theorem execLaunchEnd_bytes (id : Nat) (s : State) : nextHolds (sameBytes s) (execLaunchEnd id s) := by
  rw [execLaunchEnd, next_sameBytes]; split <;> simp

theorem execFenceEnd_bytes (id : Nat) (s : State) : nextHolds (sameBytes s) (execFenceEnd id s) := by
  rw [execFenceEnd, next_sameBytes]; split <;> simp

theorem execInvalidateEnd_bytes (id : Nat) (s : State) : nextHolds (sameBytes s) (execInvalidateEnd id s) := by
  rw [execInvalidateEnd, next_sameBytes]; split <;> simp

theorem execLaunchWaitDone_bytes (op : Nat) (s : State) : nextHolds (sameBytes s) (execLaunchWaitDone op s) := by
  rw [execLaunchWaitDone, next_sameBytes]; (repeat' split) <;> simp

theorem execSchedulingPoint_bytes (part : Nat) (s : State) : nextHolds (sameBytes s) (execSchedulingPoint part s) := by
  rw [execSchedulingPoint, next_sameBytes]; simp

theorem execPageRequestEnter_bytes (fe : Nat) (s : State) : nextHolds (sameBytes s) (execPageRequestEnter fe s) := by
  rw [execPageRequestEnter, next_sameBytes]; split <;> simp

theorem execPageRequestTake_bytes (s : State) : nextHolds (sameBytes s) (execPageRequestTake s) := by
  rw [execPageRequestTake, next_sameBytes]; dsimp only; split <;> simp

theorem execPageRequestRetry_bytes (token : Nat) (s : State) : nextHolds (sameBytes s) (execPageRequestRetry token s) := by
  rw [execPageRequestRetry, next_sameBytes]; split <;> simp

theorem execPageRequestAbort_bytes (token : Nat) (s : State) : nextHolds (sameBytes s) (execPageRequestAbort token s) := by
  rw [execPageRequestAbort, next_sameBytes]; split <;> simp

/-! ### System writes and the device -/

theorem execVdDescriptorWrite_bytes (v : Nat) (value : BitVec 256) (s : State) :
    nextHolds (sameBytes s) (execVdDescriptorWrite v value s) := by
  rw [execVdDescriptorWrite, next_sameBytes]; simp

theorem execPartitionWrite_bytes (p : Nat) (value : BitVec 512) (s : State) :
    nextHolds (sameBytes s) (execPartitionWrite p value s) := by
  rw [execPartitionWrite, next_sameBytes]; simp

theorem execServiceBlockWrite_bytes (v : Nat) (value : BitVec 512) (s : State) :
    nextHolds (sameBytes s) (execServiceBlockWrite v value s) := by
  rw [execServiceBlockWrite, next_sameBytes]; simp

theorem execPlaceTableWrite_bytes (ctx index : Nat) (v : BitVec 16) (s : State) :
    nextHolds (sameBytes s) (execPlaceTableWrite ctx index v s) := by
  rw [execPlaceTableWrite, next_sameBytes]; simp

theorem execOccupancyEntryWrite_bytes (arm entry : Nat) (v : BitVec 128) (s : State) :
    nextHolds (sameBytes s) (execOccupancyEntryWrite arm entry v s) := by
  rw [execOccupancyEntryWrite, next_sameBytes]; simp

theorem execRouteTableWrite_bytes (t : List (BitVec 32)) (s : State) : nextHolds (sameBytes s) (execRouteTableWrite t s) := by
  rw [execRouteTableWrite, next_sameBytes]; split <;> exact ⟨rfl, rfl⟩

theorem execTimeSet_bytes (t : Nat) (s : State) : nextHolds (sameBytes s) (execTimeSet t s) := by
  rw [execTimeSet, next_sameBytes]; simp

theorem execRegisterWrite_bytes (r : SysReg) (s : State) : nextHolds (sameBytes s) (execRegisterWrite r s) := by
  unfold execRegisterWrite; rw [next_sameBytes]; split <;> simp

theorem execRecoveryRecord_bytes (r : List (BitVec 8)) (s : State) : nextHolds (sameBytes s) (execRecoveryRecord r s) := by
  rw [execRecoveryRecord, next_sameBytes]; split <;> simp

theorem execOpptChange_bytes (die : Nat) (s : State) : nextHolds (sameBytes s) (execOpptChange die s) := by
  rw [execOpptChange, next_sameBytes]; dsimp only; (repeat' split) <;> simp

theorem execLimiterWindow_bytes (w : Nat) (s : State) : nextHolds (sameBytes s) (execLimiterWindow w s) := by
  rw [execLimiterWindow, next_sameBytes]; simp

theorem execFirmwareWriteDropped_bytes (die addr : Nat) (s : State) :
    nextHolds (sameBytes s) (execFirmwareWriteDropped die addr s) := by
  rw [execFirmwareWriteDropped, next_sameBytes]; simp

theorem execPatrolScrub_bytes (s : State) : nextHolds (sameBytes s) (execPatrolScrub s) := by
  rw [execPatrolScrub, next_sameBytes]; simp

end Sys2Proof.Machine
end

section
/-!
The steps of the machine that write bytes of device memory or of the code stores: each keeps their canonical form.
-/
namespace Sys2Proof.Machine

section
variable {s : State} (h : canonical s = true)
include h

theorem execTrapRecordAppend_canonical (u : Nat) : nextHolds (canonical ·) (execTrapRecordAppend u s) := by
  refine canonical_of_wf h (fun hm => ?_) ?_
  · (repeat' split) <;> simp [hm]
  · (repeat' split) <;> simp

theorem execBufferListProcessed_canonical (id : Nat) : nextHolds (canonical ·) (execBufferListProcessed id s) := by
  refine canonical_of_wf h (fun hm => ?_) ?_
  · (repeat' split) <;> simp [hm]
  · (repeat' split) <;> simp

theorem execSaveComplete_canonical (id : Nat) : nextHolds (canonical ·) (execSaveComplete id s) := by
  refine canonical_of_wf h (fun hm => ?_) ?_
  · (repeat' split) <;> simp [hm]
  · (repeat' split) <;> simp

theorem execContextRestore_canonical (vd : Nat) : nextHolds (canonical ·) (execContextRestore vd s) := by
  refine canonical_of_wf h (fun hm => ?_) ?_ <;> dsimp only
  · (repeat' split) <;> simp [hm]
  · (repeat' split) <;> simp

theorem execCmdLaunch_canonical (fe : Nat) (c : BitVec 512) : nextHolds (canonical ·) (execCmdLaunch fe c s) :=
  canonical_of_wf h (takeCommand_wf fun _ _ hm => by simp [hm]) (takeCommand_codes fun _ _ => by simp)

theorem execCmdFence_canonical (fe : Nat) (c : BitVec 512) : nextHolds (canonical ·) (execCmdFence fe c s) :=
  canonical_of_wf h (takeCommand_wf fun _ _ hm => by simp [hm]) (takeCommand_codes fun _ _ => by simp)

theorem execCmdTranslationInvalidate_canonical (fe : Nat) (c : BitVec 512) :
    nextHolds (canonical ·) (execCmdTranslationInvalidate fe c s) :=
  canonical_of_wf h (takeCommand_wf fun _ _ hm => by simp [hm]) (takeCommand_codes fun _ _ => by simp)

theorem execCmdInvalidKind_canonical (fe : Nat) (c : BitVec 512) :
    nextHolds (canonical ·) (execCmdInvalidKind fe c s) := by
  refine canonical_of_wf h (fun hm => ?_) ?_
  · split <;> simp [hm]
  · split <;> simp

/-- The only step besides the resets that writes a code store: it starts an image load, ends one, or makes room for one
(R348). -/
theorem execCodeStoreLoad_canonical (cluster launch : Nat) :
    nextHolds (canonical ·) (execCodeStoreLoad cluster launch s) := by
  unfold execCodeStoreLoad
  dsimp only [nextHolds]
  split
  · exact h
  · split
    · split
      · exact writeImage_canonical _ _ h
      · exact h
    · split
      · exact h
      · split
        · exact startLoad_canonical _ _ _ h
        · exact canonical_of_bytes h (evictTeams_bytes _ _)

theorem execFrontServe_canonical (arm : Nat) : nextHolds (canonical ·) (execFrontServe arm s) :=
  canonical_of_wf h (fun hm => by simp [hm]) (by simp)

theorem execHomeChange_canonical (block toArm : Nat) : nextHolds (canonical ·) (execHomeChange block toArm s) := by
  refine canonical_of_wf h (fun hm => ?_) ?_ <;> dsimp only
  · (repeat' split) <;> simp [hm]
  · (repeat' split) <;> simp

theorem execPageTableWalkComplete_canonical (id : Nat) :
    nextHolds (canonical ·) (execPageTableWalkComplete id s) := by
  refine canonical_of_wf h (fun hm => ?_) ?_ <;> dsimp only
  · (repeat' split) <;> simp [hm]
  · (repeat' split) <;> simp

theorem execPromiseVisit_canonical (op : Nat) : nextHolds (canonical ·) (execPromiseVisit op s) := by
  refine canonical_of_wf h (fun hm => ?_) ?_
  · split <;> simp [hm]
  · split <;> simp

theorem execPromiseCasParent_canonical (id : Nat) : nextHolds (canonical ·) (execPromiseCasParent id s) := by
  refine canonical_of_wf h (fun hm => ?_) ?_
  · (repeat' split) <;> simp [hm]
  · (repeat' split) <;> simp

theorem execPromiseLockGrant_canonical (cell : Nat) : nextHolds (canonical ·) (execPromiseLockGrant cell s) := by
  refine canonical_of_wf h (fun hm => ?_) ?_ <;> dsimp only
  · (repeat' split) <;> simp [hm]
  · (repeat' split) <;> simp

end

/-- A module reset leaves the memories empty (R370). -/
theorem execModuleReset_canonical (cold : Bool) (s : State) : nextHolds (canonical ·) (execModuleReset cold s) := by
  refine canonical_of_bytes (beforeBoot_canonical s cold) ?_
  dsimp only
  split <;> simp

/-- What leaves the bytes of a canonical state leaves it canonical. -/
theorem nextHolds_canonical {s : State} {r : Host.Outcome State Fault Refusal} (h : canonical s = true)
    (hr : nextHolds (sameBytes s) r) : nextHolds (canonical ·) r := by
  cases r with
  | next t => exact canonical_of_bytes h hr
  | fault _ => trivial
  | refused _ => trivial

/-- Every step that is no issue keeps the canonical form. -/
theorem exec_event_canonical {s : State} (h : canonical s = true) (e : Event) :
    nextHolds (canonical ·) (exec (instrOfEvent e) s) := by
  cases e with
  | splitPromote _ => exact canonical_of_bytes h ⟨rfl, rfl⟩
  | yieldEnd _ => exact nextHolds_canonical h (execYieldEnd_bytes ..)
  | sleepDeadline _ => exact canonical_of_bytes h ⟨rfl, rfl⟩
  | callvEnqueue _ _ => exact canonical_of_bytes h (enqueueCallv_bytes ..)
  | calleeTake _ => exact nextHolds_canonical h (execCalleeTake_bytes ..)
  | migrateMove _ => exact nextHolds_canonical h (execMigrateMove_bytes ..)
  | arrivalCounted _ => exact nextHolds_canonical h (execArrivalCounted_bytes ..)
  | loadReply _ => exact nextHolds_canonical h (execLoadReply_bytes ..)
  | spadAccessComplete _ => exact nextHolds_canonical h (execSpadAccessComplete_bytes ..)
  | storeAck _ => exact nextHolds_canonical h (execStoreAck_bytes ..)
  | fenceComplete _ => exact nextHolds_canonical h (execFenceComplete_bytes ..)
  | groupEnd _ => exact nextHolds_canonical h (execGroupEnd_bytes ..)
  | teamPlace _ => exact nextHolds_canonical h (execTeamPlace_bytes ..)
  | teamEnd _ => exact nextHolds_canonical h (execTeamEnd_bytes ..)
  | trapRecordAppend _ => exact execTrapRecordAppend_canonical h _
  | resumeContinue _ => exact nextHolds_canonical h (execResumeContinue_bytes ..)
  | resumeRerun _ => exact nextHolds_canonical h (execResumeRerun_bytes ..)
  | resumeEndGroup _ => exact nextHolds_canonical h (execResumeEndGroup_bytes ..)
  | resumeEndLaunch _ => exact nextHolds_canonical h (execResumeEndLaunch_bytes ..)
  | resumeInvalid u a => exact nextHolds_canonical h (execResumeInvalid_bytes u a s)
  | preempt _ => exact nextHolds_canonical h (execPreempt_bytes ..)
  | saveComplete _ => exact execSaveComplete_canonical h _
  | partialEviction _ _ => exact nextHolds_canonical h (execPartialEviction_bytes ..)
  | contextRestore _ => exact execContextRestore_canonical h _
  | slotClaimTake _ => exact canonical_of_bytes h (foldl_bytes takeClaim_bytes ..)
  | slotRelease _ => exact nextHolds_canonical h (execSlotRelease_bytes ..)
  | arrayStart _ => exact nextHolds_canonical h (execArrayStart_bytes ..)
  | arrayComplete _ => exact nextHolds_canonical h (execArrayComplete_bytes ..)
  | mfeedComplete _ => exact nextHolds_canonical h (execMfeedComplete_bytes ..)
  | mfeedaComplete _ => exact nextHolds_canonical h (execMfeedaComplete_bytes ..)
  | iterationPhaseEnd _ => exact nextHolds_canonical h (execIterationPhaseEnd_bytes ..)
  | gangRendezvous _ => exact nextHolds_canonical h (execGangRendezvous_bytes ..)
  | gangTimeout _ => exact nextHolds_canonical h (execGangTimeout_bytes ..)
  | copyCommandStart _ => exact nextHolds_canonical h (execCopyCommandStart_bytes ..)
  | copyBlock _ => exact nextHolds_canonical h (execCopyBlock_bytes ..)
  | copyLanding _ => exact nextHolds_canonical h (execCopyLanding_bytes ..)
  | copyComplete _ => exact nextHolds_canonical h (execCopyComplete_bytes ..)
  | xhandPush _ => exact nextHolds_canonical h (execXhandPush_bytes ..)
  | copyAbortFault _ => exact nextHolds_canonical h (execCopyAbortFault_bytes ..)
  | frontAccept _ => exact nextHolds_canonical h (execFrontAccept_bytes ..)
  | frontServe _ => exact execFrontServe_canonical h _
  | waveFind _ => exact nextHolds_canonical h (execWaveFind_bytes ..)
  | tileLand _ _ => exact nextHolds_canonical h (execTileLand_bytes ..)
  | memoryReply a b id => exact nextHolds_canonical h (execMemoryReply_bytes a b id s)
  | tileLeaveComplete _ _ => exact nextHolds_canonical h (execTileLeaveComplete_bytes ..)
  | sharerDropAck _ _ _ => exact nextHolds_canonical h (execSharerDropAck_bytes ..)
  | writeUpdateWords _ => exact nextHolds_canonical h (execWriteUpdateWords_bytes ..)
  | copyTileReply _ => exact nextHolds_canonical h (execCopyTileReply_bytes ..)
  | leaseRenewal _ => exact nextHolds_canonical h (execLeaseRenewal_bytes ..)
  | leaseExpiry _ _ => exact nextHolds_canonical h (execLeaseExpiry_bytes ..)
  | departureWindowEnd _ => exact nextHolds_canonical h (execDepartureWindowEnd_bytes ..)
  | homeChange _ _ => exact execHomeChange_canonical h _ _
  | forwardEntryFree _ _ => exact nextHolds_canonical h (execForwardEntryFree_bytes ..)
  | promiseVisit _ => exact execPromiseVisit_canonical h _
  | promiseCasParent _ => exact execPromiseCasParent_canonical h _
  | promiseLockGrant _ => exact execPromiseLockGrant_canonical h _
  | promiseWakeSend _ => exact nextHolds_canonical h (execPromiseWakeSend_bytes ..)
  | promiseWakeArrive _ => exact nextHolds_canonical h (execPromiseWakeArrive_bytes ..)
  | linkFrameReceive _ _ => exact nextHolds_canonical h (execLinkFrameReceive_bytes ..)
  | linkDown _ => exact canonical_of_bytes h (linkDown_bytes ..)
  | collectiveMatch _ => exact nextHolds_canonical h (execCollectiveMatch_bytes ..)
  | collectiveTimeout _ => exact nextHolds_canonical h (execCollectiveTimeout_bytes ..)
  | collectiveComplete _ => exact nextHolds_canonical h (execCollectiveComplete_bytes ..)
  | lputSignal _ => exact nextHolds_canonical h (execLputSignal_bytes ..)
  | hostAccess _ => exact nextHolds_canonical h (execHostAccess_bytes ..)
  | hostBarrier _ => exact nextHolds_canonical h (execHostBarrier_bytes ..)
  | pcieWrite _ _ _ => exact canonical_of_bytes h (queuePcie_bytes ..)
  | pcieRead _ _ _ => exact nextHolds_canonical h (execPcieRead_bytes ..)
  | pcieMsi _ _ _ => exact canonical_of_bytes h (queuePcie_bytes ..)
  | timeSample _ _ => exact canonical_of_bytes h (takeSample_bytes ..)
  | timeAgreementLoss => exact nextHolds_canonical h (execTimeAgreementLoss_bytes ..)
  | doorbell _ _ => exact canonical_of_bytes h ⟨rfl, rfl⟩
  | cmdLaunch _ _ => exact execCmdLaunch_canonical h _ _
  | cmdFence _ _ => exact execCmdFence_canonical h _ _
  | cmdTranslationInvalidate _ _ => exact execCmdTranslationInvalidate_canonical h _ _
  | cmdInvalidKind _ _ => exact execCmdInvalidKind_canonical h _ _
  | deviceLaunchAccept _ => exact nextHolds_canonical h (execDeviceLaunchAccept_bytes ..)
  | launchHoldEnd _ => exact nextHolds_canonical h (execLaunchHoldEnd_bytes ..)
  | launchEnd _ => exact nextHolds_canonical h (execLaunchEnd_bytes ..)
  | fenceEnd _ => exact nextHolds_canonical h (execFenceEnd_bytes ..)
  | invalidateEnd _ => exact nextHolds_canonical h (execInvalidateEnd_bytes ..)
  | bufferListProcessed _ => exact execBufferListProcessed_canonical h _
  | launchWaitDone _ => exact nextHolds_canonical h (execLaunchWaitDone_bytes ..)
  | schedulingPoint _ => exact nextHolds_canonical h (execSchedulingPoint_bytes ..)
  | codeStoreLoad _ _ => exact execCodeStoreLoad_canonical h _ _
  | pageRequestEnter _ => exact nextHolds_canonical h (execPageRequestEnter_bytes ..)
  | pageRequestTake => exact nextHolds_canonical h (execPageRequestTake_bytes ..)
  | pageRequestRetry _ => exact nextHolds_canonical h (execPageRequestRetry_bytes ..)
  | pageRequestAbort _ => exact nextHolds_canonical h (execPageRequestAbort_bytes ..)
  | vdDescriptorWrite _ _ => exact nextHolds_canonical h (execVdDescriptorWrite_bytes ..)
  | vdSuspend _ => exact canonical_of_bytes h (suspendVd_bytes ..)
  | vdUnsuspend _ => exact canonical_of_bytes h (unsuspendVd_bytes ..)
  | partitionWrite _ _ => exact nextHolds_canonical h (execPartitionWrite_bytes ..)
  | serviceBlockWrite _ _ => exact nextHolds_canonical h (execServiceBlockWrite_bytes ..)
  | placeTableWrite _ _ _ => exact nextHolds_canonical h (execPlaceTableWrite_bytes ..)
  | occupancyEntryWrite _ _ _ => exact nextHolds_canonical h (execOccupancyEntryWrite_bytes ..)
  | routeTableWrite _ => exact nextHolds_canonical h (execRouteTableWrite_bytes ..)
  | communicatorWrite _ _ _ => exact canonical_of_bytes h ⟨rfl, rfl⟩
  | timeSet _ => exact nextHolds_canonical h (execTimeSet_bytes ..)
  | registerWrite _ => exact nextHolds_canonical h (execRegisterWrite_bytes ..)
  | partitionReset _ => exact canonical_of_wf h resetPart_wf (resetPart_codes ..)
  | moduleReset _ => exact execModuleReset_canonical _ s
  | recoveryRecord _ => exact nextHolds_canonical h (execRecoveryRecord_bytes ..)
  | opptChange _ => exact nextHolds_canonical h (execOpptChange_bytes ..)
  | limiterWindow _ => exact nextHolds_canonical h (execLimiterWindow_bytes ..)
  | firmwareWriteDropped _ _ => exact nextHolds_canonical h (execFirmwareWriteDropped_bytes ..)
  | patrolScrub => exact nextHolds_canonical h (execPatrolScrub_bytes ..)
  | powerLoss => exact canonical_of_bytes (beforeBoot_canonical s true) ⟨rfl, rfl⟩
  | unassignedOpcode _ => exact nextHolds_canonical h (illegalTrap_bytes 1 s)
  | pageTableWalkComplete _ => exact execPageTableWalkComplete_canonical h _
  | moduleFatalError => exact canonical_of_bytes h ⟨rfl, rfl⟩

end Sys2Proof.Machine
end

section
/-!
One step of the machine keeps the canonical form of the byte memories (O60): an instruction that issues, an event, a
stage that ends, a tick.
-/
namespace Sys2Proof.Machine

theorem scanGroup_bytes (m : Meanings) (s : State) (u : Nat) : sameBytes s (scanGroup m s u) := by
  unfold scanGroup
  split
  · exact ⟨rfl, rfl⟩
  · split
    · exact ⟨rfl, rfl⟩
    · exact foldl_fst_bytes (fun x pl => by (repeat' split) <;> simp) _ _

/-- A tick writes memory only as clks start: instructions that were kept from sending go on, and a promise operation among
them may write (R166). -/
theorem tick_canonical {s : State} (h : canonical s = true) : canonical (tick s) = true := by
  have hends (ds : List Nat) : sameBytes s (ds.foldl endClk s) := foldl_bytes endClk_bytes ds s
  refine canonical_of_wf h (fun hm => ?_) ?_
  · have hstart (ds : List Nat) (x : State) (hx : x.mem = s.mem) : Memory.wf (ds.foldl startClk x).mem = true :=
      foldl_wf (fun _ _ => startClk_wf) ds (by rw [hx]; exact hm)
    simp [tick, hstart, (hends _).1]
  · simp [tick, (hends _).2]

theorem advance_canonical (m : Meanings) {s : State} (h : canonical s = true) : canonical (advance m s) = true := by
  unfold advance
  split
  · exact canonical_of_bytes h (foldl_bytes (scanGroup_bytes m) _ s)
  · exact canonical_of_bytes h ⟨rfl, rfl⟩
  · exact canonical_of_bytes h ⟨rfl, rfl⟩
  · exact canonical_of_bytes h ⟨rfl, rfl⟩
  · exact canonical_of_bytes h ⟨rfl, rfl⟩
  · exact tick_canonical h

/-- The event that comes next is taken from the agenda or is ready as it stands. -/
theorem pick_bytes {s t : State} {e : Event} (h : pick s = some (e, t)) : sameBytes s t := by
  have hready {o : Option Event} (ho : o.map (fun e => (e, s)) = some (e, t)) : sameBytes s t := by
    obtain ⟨_, _, he⟩ := Option.map_eq_some_iff.mp ho
    cases he
    exact ⟨rfl, rfl⟩
  simp only [pick] at h
  split at h
  · rcases (Option.orElse_eq_some _ _ _).mp h with hd | ⟨_, hr⟩
    · exact takeDue_bytes s 0 hd
    · exact hready hr
  · exact hready h
  · cases h
  · exact hready h
  · exact hready h
  · rcases (Option.orElse_eq_some _ _ _).mp h with hr | ⟨_, h⟩
    · exact hready hr
    · rcases (Option.orElse_eq_some _ _ _).mp h with hd | ⟨_, hr⟩
      · exact takeDue_bytes s 3 hd
      · exact hready hr

theorem meanings_word_canonical {o : Op} {w : Word3} {s t : State} (hs : canonical s = true)
    (h : meanings.word o w s = .next t) : canonical t = true := by
  simp only [meanings] at h
  split at h
  next i hi => exact exec_word_canonical (instrWord_of o w i hi) hs h
  next => exact canonical_of_bytes hs ((illegalTrap_bytes _ s).of_next h)

theorem runCur_canonical {s t : State} (hs : canonical s = true) (h : runCur meanings s = .next t) :
    canonical t = true := by
  simp only [runCur] at h
  split at h
  · cases h
  · split at h
    · exact canonical_of_bytes hs ((illegalTrap_bytes 7 s).of_next h)
    · split at h
      · exact canonical_of_bytes hs ((illegalTrap_bytes 1 s).of_next h)
      · exact meanings_word_canonical hs h

theorem runIssue_canonical {s t : State} (hs : canonical s = true) (h : runIssue meanings s = .next t) :
    canonical t = true := by
  unfold runIssue at h
  split at h
  next x hx =>
    cases h
    exact canonical_of_bytes (runCur_canonical hs hx) (noteHurt_bytes s x)
  next hx => exact absurd h (hx t)

theorem stepRunning_canonical {s t : State} (hs : canonical s = true) (h : stepRunning meanings s = .next t) :
    canonical t = true := by
  unfold stepRunning at h
  split at h
  next u rest _ _ => exact runIssue_canonical (s := takeTurn s u rest) (canonical_of_bytes hs ⟨rfl, rfl⟩) h
  next =>
    split at h
    next e x hp => exact (exec_event_canonical (canonical_of_bytes hs (pick_bytes hp)) e).of_next h
    next => cases h; exact advance_canonical meanings hs

theorem stepReset_canonical {s t : State} (hs : canonical s = true) (h : stepReset meanings s = .next t) :
    canonical t = true := by
  unfold stepReset at h
  split at h
  next e x hd =>
    have hx := canonical_of_bytes hs (takeDue_bytes s 3 hd)
    split at h
    · exact (exec_event_canonical hx e).of_next h
    · cases h; exact hx
  next => cases h; exact canonical_of_bytes hs (timeTick_bytes s)

/-- Settles O60: a step of a module that runs is an issue, an event or the end of a stage, a step of one that is held in
reset an event or the passing of time, and each of them keeps the canonical form. -/
theorem stepsKeepMemoryCanonical : Obligations.StepsKeepMemoryCanonical := by
  intro s t hs h
  unfold step stepWith at h
  split at h
  · exact stepRunning_canonical hs h
  · exact stepReset_canonical hs h

end Sys2Proof.Machine
end

section
/-!
A ring (R19, R25, R26): what its header says of the entries that wait, and what one push and one pop do to it.
-/
namespace Sys2Proof.Machine

/-- The slot after slot `i` of a ring of `d` entries (R25). -/
theorem wrap_eq_mod {i d : Nat} (h : i < d) : (if i + 1 = d then 0 else i + 1) = (i + 1) % d := by
  split
  next hw => rw [hw, Nat.mod_self]
  next hw => exact (Nat.mod_eq_of_lt (by omega)).symm

/-- The entry `k` places behind the oldest one of a ring. -/
def ringEntry (r : Ring) (k : Nat) : Word := mget 0 ((r.popix + k) % r.depth) r.ents

@[simp] theorem ringPush_depth (r : Ring) (x : Word) : (ringPush r x).depth = r.depth := rfl
@[simp] theorem ringPush_popix (r : Ring) (x : Word) : (ringPush r x).popix = r.popix := rfl
@[simp] theorem ringPush_popph (r : Ring) (x : Word) : (ringPush r x).popph = r.popph := rfl
@[simp] theorem ringPush_ents (r : Ring) (x : Word) : (ringPush r x).ents = mset 0 r.pushix x r.ents := rfl
@[simp] theorem ringPush_pushph (r : Ring) (x : Word) :
    (ringPush r x).pushph = if r.pushix + 1 = r.depth then !r.pushph else r.pushph := rfl
theorem ringPush_pushix (r : Ring) (x : Word) :
    (ringPush r x).pushix = if r.pushix + 1 = r.depth then 0 else r.pushix + 1 := rfl

@[simp] theorem ringPop_value (r : Ring) : (ringPop r).1 = mget 0 r.popix r.ents := rfl
@[simp] theorem ringPop_depth (r : Ring) : (ringPop r).2.depth = r.depth := rfl
@[simp] theorem ringPop_pushix (r : Ring) : (ringPop r).2.pushix = r.pushix := rfl
@[simp] theorem ringPop_pushph (r : Ring) : (ringPop r).2.pushph = r.pushph := rfl
@[simp] theorem ringPop_ents (r : Ring) : (ringPop r).2.ents = r.ents := rfl
@[simp] theorem ringPop_popph (r : Ring) :
    (ringPop r).2.popph = if r.popix + 1 = r.depth then !r.popph else r.popph := rfl
theorem ringPop_popix (r : Ring) : (ringPop r).2.popix = if r.popix + 1 = r.depth then 0 else r.popix + 1 := rfl

theorem ringPops_succ (n : Nat) (r : Ring) : (ringPops (n + 1) r).1 = (ringPop r).1 :: (ringPops n (ringPop r).2).1 := rfl

/-- The phases of a sound ring agree where its waiting entries do not pass its last slot. -/
theorem ringSound_iff (r : Ring) : ringSound r ↔ r.pushix < r.depth ∧ r.popix < r.depth ∧
    (if r.popph = r.pushph then r.popix ≤ r.pushix else r.pushix ≤ r.popix) := by
  unfold ringSound
  split
  next hp => simp only [hp, ne_eq, not_true_eq_false, imp_false, implies_true, true_and, Nat.not_lt]
  next hp => simp only [hp, ne_eq, not_false_eq_true, imp_false, implies_true, and_true, Nat.not_lt]

/-- The entries that wait in a sound ring, by its phases (R26). -/
theorem ringWait_of_sound {r : Ring} (h : ringSound r) :
    ringWait r = if r.popph = r.pushph then r.pushix - r.popix else r.pushix + r.depth - r.popix := by
  obtain ⟨hpush, hpop, hix⟩ := (ringSound_iff r).mp h
  unfold ringWait
  by_cases he : r.popix = r.pushix
  · simp [he]
  · rw [if_neg he]
    split at hix
    next hp =>
      rw [if_pos hp, show r.pushix + r.depth - r.popix = r.pushix - r.popix + r.depth by omega, Nat.add_mod_right]
      exact Nat.mod_eq_of_lt (by omega)
    next hp =>
      rw [if_neg hp]
      exact Nat.mod_eq_of_lt (by omega)

/-- The waiting entries of a sound ring reach from its pop index to its push index. -/
theorem popix_add_ringWait {r : Ring} (h : ringSound r) : (r.popix + ringWait r) % r.depth = r.pushix := by
  obtain ⟨hpush, hpop, hix⟩ := (ringSound_iff r).mp h
  rw [ringWait_of_sound h]
  split at hix
  next hp => rw [if_pos hp, Nat.add_sub_cancel' hix, Nat.mod_eq_of_lt hpush]
  next hp => rw [if_neg hp, Nat.add_sub_cancel' (by omega), Nat.add_mod_right, Nat.mod_eq_of_lt hpush]

/-- In a ring that is not full the push index is the slot of no waiting entry. -/
theorem waiting_slot_ne_pushix {r : Ring} {k : Nat} (h : ringSound r) (hw : ringWait r < r.depth) (hk : k < ringWait r) :
    (r.popix + k) % r.depth ≠ r.pushix := by
  intro he
  rw [← popix_add_ringWait h] at he
  exact Nat.ne_of_lt hk ((Nat.ModEq.add_left_cancel' r.popix he).eq_of_lt_of_lt (hk.trans hw) hw)

/-- A pop moves every entry behind the oldest one place forward. -/
theorem ringEntry_ringPop {r : Ring} (h : r.popix < r.depth) (k : Nat) : ringEntry (ringPop r).2 k = ringEntry r (k + 1) := by
  simp only [ringEntry, ringPop_popix, ringPop_depth, ringPop_ents, wrap_eq_mod h, Nat.mod_add_mod]
  rw [Nat.add_assoc, Nat.add_comm 1]

theorem ringPop_popix_lt {r : Ring} (h : r.popix < r.depth) : (ringPop r).2.popix < (ringPop r).2.depth := by
  rw [ringPop_popix, ringPop_depth, wrap_eq_mod h]
  exact Nat.mod_lt _ (by omega)

/-- Pops give the entries of a ring from the oldest on. -/
theorem ringPops_eq_map {r : Ring} (h : r.popix < r.depth) (n : Nat) : (ringPops n r).1 = (List.range n).map (ringEntry r) := by
  induction n generalizing r with
  | zero => rfl
  | succ n ih =>
    have hfirst : (ringPop r).1 = ringEntry r 0 := by simp [ringEntry, Nat.mod_eq_of_lt h]
    rw [ringPops_succ, ih (ringPop_popix_lt h), List.range_succ_eq_map, List.map_cons, List.map_map, hfirst]
    exact congrArg _ (List.map_congr_left fun k _ => ringEntry_ringPop h k)

section
variable {r : Ring} (h : ringSound r)
include h

/-- A push leaves the waiting entries where they are. -/
theorem ringEntry_ringPush_of_lt {k : Nat} (hw : ringWait r < r.depth) (hk : k < ringWait r) (x : Word) :
    ringEntry (ringPush r x) k = ringEntry r k :=
  mget_mset_ne 0 x r.ents (waiting_slot_ne_pushix h hw hk)

/-- A push puts its entry behind all that wait. -/
theorem ringEntry_ringPush_last (x : Word) : ringEntry (ringPush r x) (ringWait r) = x := by
  simp only [ringEntry, ringPush_popix, ringPush_depth, ringPush_ents, popix_add_ringWait h]
  exact mget_mset 0 x r.ents

/-- First in, first out (R19). -/
theorem ringPops_ringPush (hw : ringWait r < r.depth) (x : Word) :
    (ringPops (ringWait r + 1) (ringPush r x)).1 = (ringPops (ringWait r) r).1 ++ [x] := by
  have hpop : r.popix < r.depth := h.2.1
  have hold : (List.range (ringWait r)).map (ringEntry (ringPush r x)) = (List.range (ringWait r)).map (ringEntry r) :=
    List.map_congr_left fun k hk => ringEntry_ringPush_of_lt h hw (List.mem_range.mp hk) x
  rw [ringPops_eq_map (r := ringPush r x) hpop, ringPops_eq_map hpop, List.range_succ, List.map_append, hold]
  simp [ringEntry_ringPush_last h]

/-- Room in a sound ring, by its phases. -/
theorem room_of_ringWait_lt (hw : ringWait r < r.depth) : r.popph ≠ r.pushph → r.pushix < r.popix := by
  intro hp
  rw [ringWait_of_sound h, if_neg hp] at hw
  omega

/-- A waiting entry of a sound ring, by its phases. -/
theorem entry_of_ringWait_pos (hw : 1 ≤ ringWait r) : r.popph = r.pushph → r.popix < r.pushix := by
  intro hp
  rw [ringWait_of_sound h, if_pos hp] at hw
  omega

/-- A push into a ring that has room wraps only where the phases agree. -/
theorem phases_agree_of_push_wraps (hw : ringWait r < r.depth) (hl : r.pushix + 1 = r.depth) : r.popph = r.pushph := by
  by_contra hp
  have hroom := room_of_ringWait_lt h hw hp
  have hpop : r.popix < r.depth := h.2.1
  omega

/-- A pop from a ring that holds an entry wraps only where the phases differ. -/
theorem phases_differ_of_pop_wraps (hw : 1 ≤ ringWait r) (hl : r.popix + 1 = r.depth) : r.popph ≠ r.pushph := by
  intro hp
  have hentry := entry_of_ringWait_pos h hw hp
  have hpush : r.pushix < r.depth := h.1
  omega

theorem ringSound_ringPush (hw : ringWait r < r.depth) (x : Word) : ringSound (ringPush r x) := by
  have hroom := room_of_ringWait_lt h hw
  have hwrap := phases_agree_of_push_wraps h hw
  obtain ⟨hpush, hpop, hix⟩ := (ringSound_iff r).mp h
  rw [ringSound_iff]
  simp only [ringPush_depth, ringPush_popix, ringPush_popph, ringPush_pushph, ringPush_pushix]
  by_cases hl : r.pushix + 1 = r.depth
  · simp [hl, hwrap hl, hpop, Nat.zero_lt_of_lt hpop]
  · simp only [hl, if_false]
    refine ⟨by omega, hpop, ?_⟩
    split at hix
    next hp => rw [if_pos hp]; omega
    next hp => rw [if_neg hp]; exact hroom hp

theorem ringWait_ringPush (hw : ringWait r < r.depth) (x : Word) : ringWait (ringPush r x) = ringWait r + 1 := by
  have hwrap := phases_agree_of_push_wraps h hw
  obtain ⟨hpush, hpop, hix⟩ := (ringSound_iff r).mp h
  rw [ringWait_of_sound (ringSound_ringPush h hw x), ringWait_of_sound h]
  simp only [ringPush_depth, ringPush_popix, ringPush_popph, ringPush_pushph, ringPush_pushix]
  by_cases hl : r.pushix + 1 = r.depth
  · rw [if_pos (hwrap hl)] at hix
    simp only [hl, hwrap hl, if_true, Bool.eq_not_self, if_false]
    omega
  · simp only [hl, if_false]
    split at hix
    next hp => simp only [hp, if_true]; omega
    next hp => simp only [hp, if_false]; omega

theorem ringSound_ringPop (hw : 1 ≤ ringWait r) : ringSound (ringPop r).2 := by
  have hentry := entry_of_ringWait_pos h hw
  have hwrap := phases_differ_of_pop_wraps h hw
  obtain ⟨hpush, hpop, hix⟩ := (ringSound_iff r).mp h
  rw [ringSound_iff]
  simp only [ringPop_depth, ringPop_popix, ringPop_popph, ringPop_pushph, ringPop_pushix]
  by_cases hl : r.popix + 1 = r.depth
  · have hflip : (!r.popph) = r.pushph := Bool.not_eq.mpr (hwrap hl)
    simp [hl, hflip, hpush, Nat.zero_lt_of_lt hpush]
  · simp only [hl, if_false]
    refine ⟨hpush, by omega, ?_⟩
    split at hix
    next hp => rw [if_pos hp]; exact hentry hp
    next hp => rw [if_neg hp]; omega

theorem ringWait_ringPop (hw : 1 ≤ ringWait r) : ringWait (ringPop r).2 + 1 = ringWait r := by
  have hentry := entry_of_ringWait_pos h hw
  have hwrap := phases_differ_of_pop_wraps h hw
  obtain ⟨hpush, hpop, hix⟩ := (ringSound_iff r).mp h
  rw [ringWait_of_sound (ringSound_ringPop h hw), ringWait_of_sound h]
  simp only [ringPop_depth, ringPop_popix, ringPop_popph, ringPop_pushph, ringPop_pushix]
  by_cases hl : r.popix + 1 = r.depth
  · have hflip : (!r.popph) = r.pushph := Bool.not_eq.mpr (hwrap hl)
    simp only [hl, hflip, hwrap hl, if_true, if_false]
    omega
  · simp only [hl, if_false]
    split at hix
    next hp => have := hentry hp; simp only [hp, if_true]; omega
    next hp => simp only [hp, if_false]; omega

end

/-- Settles O56: the entries that wait lie from the pop index to the push index, a push writes the slot behind them and a
pop takes the first of them. -/
theorem ringIsFirstInFirstOut : Obligations.RingIsFirstInFirstOut := by
  constructor
  · intro r x h hw
    exact ⟨ringPops_ringPush h hw x, ringWait_ringPush h hw x, ringSound_ringPush h hw x, wrap_eq_mod h.1, rfl, rfl, rfl⟩
  · intro r h hw
    exact ⟨ringWait_ringPop h hw, ringSound_ringPop h hw, wrap_eq_mod h.2.1, rfl, rfl, rfl, rfl⟩

end Sys2Proof.Machine
end

section
/-!
The partial-mask fault (R18, R101, R140).
-/
namespace Sys2Proof.Machine

/-- A matrix instruction's own effect acts for the whole group (R18). -/
theorem ownOf_matrix {o : Op} (h : isMatrixOp o = true) (c : Ctx) (s : State) : ∃ k, ownOf o c s = wholeGroup c k := by
  cases o with
  | mmac | mgmac | mmaci | mcbload | msmx | msnorm | mclaim | mrel | mfeed | mfeeda | mst | mld | mzero | mpoly | miterG
  | miterS | mgang | mgleave | mcoef | mscale | mtrans | mstat => exact ⟨_, rfl⟩
  | _ => exact absurd h (by decide)

theorem wholeGroup_partial {c : Ctx} (h : c.sel ≠ 0xFFFFFFFF) (k : Verdict) : wholeGroup c k = .raise 0x04 0 c.sel 0 :=
  if_pos (bne_iff_ne.mpr h)

theorem ownOf_matrix_partial {o : Op} {c : Ctx} (ho : isMatrixOp o = true) (h : c.sel ≠ 0xFFFFFFFF) (s : State) :
    ownOf o c s = .raise 0x04 0 c.sel 0 := by
  obtain ⟨k, hk⟩ := ownOf_matrix ho c s
  rw [hk, wholeGroup_partial h]

/-- `rgn` in a group with several splits or deferred arms (R140). -/
theorem ownRgn_partial {c : Ctx} (h : c.g.splits.length ≠ 1 ∨ ∃ sp, c.g.splits = [sp] ∧ sp.arms ≠ []) (s : State) :
    ownRgn c s = .raise 0x04 0 c.sel 0 := by
  unfold ownRgn
  rcases h with h | ⟨sp, hsp, harms⟩
  · split
    next sp hsp => rw [hsp] at h; exact absurd rfl h
    next => rfl
  · rw [hsp]
    exact if_pos (by simpa using harms)

/-- `migrate` unless one split holds all 32 lanes with no deferred arm (R101). -/
theorem ownMigrate_partial {c : Ctx} (h : c.g.splits.length ≠ 1 ∨ c.sp.mask ≠ 0xFFFFFFFF ∨ c.sp.arms ≠ []) (s : State) :
    ownMigrate c s = .raise 0x04 0 c.sel 0 :=
  if_pos (by simpa [or_assoc] using h)

/-- An instruction whose own effect raises a precise fault of the selected lanes raises it where it passes the checks before. -/
theorem raises_of_own {o : Op} {w : Word3} {i : Instr} {ok : Ctx → State → Prop} {code detail : Nat}
    (hi : instrWord i = some (o, w)) (hown : ∀ c s, ok c s → ownOf o c s = .raise code detail c.sel 0) :
    Raises o w i ok code detail := by
  intro s g sp hp hok
  rw [exec_word hi]
  exact issue_raise hp (hown _ _ hok)

/-- Settles O43: the own effects of the matrix instructions, of `rgn` and of `migrate` begin with the check. -/
theorem partialMaskFaults : Obligations.PartialMaskFaults := by
  refine ⟨?matrix, fun f => ?rgn, fun f => ?migrate⟩
  case matrix =>
    intro i o w s g sp hi ho hp hsel
    exact raises_of_own (ok := fun c _ => c.sel ≠ 0xFFFFFFFF) hi (fun _ s h => ownOf_matrix_partial ho h s) s g sp hp hsel
  case rgn => exact raises_of_own rfl (fun _ s h => ownRgn_partial h s)
  case migrate => exact raises_of_own rfl (fun _ s h => ownMigrate_partial h s)

end Sys2Proof.Machine
end

section
/-!
Completion flags (R28): who owns one, and what issuing an instruction does to the flags, the split and the registers of its
group (R64).
-/
namespace Sys2Proof.Machine

theorem getLsbD_flagBit (n m : Nat) : (flagBit n).getLsbD m = (decide (m < 12) && decide (n = m)) := by
  rw [flagBit, BitVec.getLsbD_ofNat, Nat.testBit_two_pow]

/-- Issuing the instruction that names flag `n` clears that flag alone. -/
theorem takeFlag_getLsbD (n op m : Nat) (g : Group) :
    (takeFlag n op g).flags.getLsbD m = (g.flags.getLsbD m && !decide (n = m)) := by
  by_cases hm : m < 12
  · simp only [takeFlag, BitVec.getLsbD_and, BitVec.getLsbD_not, getLsbD_flagBit, hm, decide_true, Bool.true_and]
  · simp [BitVec.getLsbD_of_ge _ m (Nat.le_of_not_lt hm)]

theorem takeFlag_owner (n op : Nat) (g : Group) : mfind n (takeFlag n op g).flagOwner = some op := find_mput g.flagOwner

/-- The completion of a flag's owner sets that flag alone. -/
theorem doneFlag_getLsbD {n op : Nat} {g : Group} (h : mfind n g.flagOwner = some op) (m : Nat) :
    (doneFlag n op g).flags.getLsbD m = (g.flags.getLsbD m || (decide (m < 12) && decide (n = m))) := by
  rw [doneFlag, if_pos h, BitVec.getLsbD_or, getLsbD_flagBit]

/-- The completion of an instruction that does not own the flag is not seen. -/
theorem doneFlag_of_not_owner {n op : Nat} {g : Group} (h : mfind n g.flagOwner ≠ some op) : doneFlag n op g = g := if_neg h

theorem doneFlag_getLsbD_ne {n m : Nat} (h : m ≠ n) (op : Nat) (g : Group) :
    (doneFlag n op g).flags.getLsbD m = g.flags.getLsbD m := by
  by_cases ho : mfind n g.flagOwner = some op
  · simp [doneFlag_getLsbD ho, Ne.symm h]
  · rw [doneFlag_of_not_owner ho]

theorem regsOf_of_numRegs {a b : Group} (h : numRegs a = numRegs b) : regsOf a = regsOf b := congrArg Prod.snd h

/-- Settles O49: the owner of a flag is the last instruction that took it, and only its completion sets the flag. -/
theorem flagsFollowTheirOwner : Obligations.FlagsFollowTheirOwner := by
  intro g n op hn
  have owner := takeFlag_owner n op g
  refine ⟨?cleared, ?set, ?earlier, fun m hm => ⟨?_, fun op' => doneFlag_getLsbD_ne hm op' g⟩, fun op' => ⟨rfl, ?_⟩⟩
  case cleared => simp [takeFlag_getLsbD]
  case set => simp [doneFlag_getLsbD owner, hn]
  case earlier =>
    intro op' hop
    exact doneFlag_of_not_owner (by rw [owner]; exact fun h => hop (Option.some.inj h).symm)
  · simp [takeFlag_getLsbD, Ne.symm hm]
  · exact regsOf_of_numRegs (doneFlag_regs n op' g)

/-- The flag that the SETF field names, if it names one (R62), is taken. -/
def takeSetf (setf : BitVec 4) (op : Nat) (g : Group) : Group := if setf = 0 then g else takeFlag (setf.toNat - 1) op g

/-- A word that names flag `n` takes it. -/
theorem takeSetf_of_named {setf : BitVec 4} {n : Nat} (h : setf.toNat = n + 1) (op : Nat) (g : Group) :
    takeSetf setf op g = takeFlag n op g := by
  have hs : setf ≠ 0 := by rintro rfl; simp at h
  rw [takeSetf, if_neg hs, h, Nat.add_sub_cancel]

/-- A flag that the word does not name stays as it is. -/
theorem takeSetf_getLsbD_ne {setf : BitVec 4} {m : Nat} (h : setf.toNat ≠ m + 1) (op : Nat) (g : Group) :
    (takeSetf setf op g).flags.getLsbD m = g.flags.getLsbD m := by
  unfold takeSetf
  split
  next => rfl
  next hs =>
    have hn : setf.toNat - 1 ≠ m := by
      have : setf.toNat ≠ 0 := fun h0 => hs (BitVec.eq_of_toNat_eq h0)
      omega
    simp [takeFlag_getLsbD, hn]

/-- What booking an issue does to the registers, splits and flags of the issuing group, whether or not a pending `bar.sync` is
matched with it (R129). -/
theorem beginIssue_group {s : State} {c : Ctx} {g : Group} (hg : groupAt? s c.g.uid = some g) :
    ∃ g', groupAt? (beginIssue s c) c.g.uid = some g' ∧ numRegs g' = numRegs g ∧
      g'.splits = (updSplit g c.sp.place (fun sp => { sp with pc := c.next })).splits ∧
      g'.flags = (takeSetf c.f.setf c.id g).flags ∧ g'.flagOwner = (takeSetf c.f.setf c.id g).flagOwner := by
  refine ⟨_, groupAt_updGroup_some hg fun x => ?uid, ?rest⟩
  case uid => dsimp only; split <;> split <;> rfl
  case rest =>
    unfold takeSetf
    dsimp only
    split <;> split <;> exact ⟨rfl, rfl, rfl, rfl⟩

theorem splitAt_updSplit {g : Group} {pl : Nat} {f : Split → Split} (hf : ∀ sp, (f sp).place = sp.place) :
    splitAt? (updSplit g pl f) pl = (splitAt? g pl).map f := by
  unfold splitAt? updSplit
  dsimp only
  induction g.splits with
  | nil => rfl
  | cons sp l ih =>
    by_cases h : sp.place = pl
    · simp [h, hf]
    · simp [h, ih]

/-- Settles O50: booking an issue takes the flag of SETF and moves the split, and touches no register. -/
theorem issueTakesTheFlag : Obligations.IssueTakesTheFlag := by
  intro o w s g sp h
  obtain ⟨hg, hsp⟩ := curSplit_stands h.cur
  obtain ⟨g', hg', hregs, hsplits, hflags, howner⟩ := beginIssue_group (c := ctxOf o w s g sp) hg
  refine ⟨g', hg', regsOf_of_numRegs hregs, ?pc, fun n hn _ => ?named, fun m hm => ?others⟩
  case pc =>
    have : splitAt? g' sp.place = (splitAt? g sp.place).map (fun x => { x with pc := (ctxOf o w s g sp).next }) := by
      rw [← splitAt_updSplit (f := fun x => { x with pc := (ctxOf o w s g sp).next }) fun _ => rfl]
      exact congrArg (List.find? _) hsplits
    rw [this, hsp]
    rfl
  case named =>
    rw [hflags, howner, takeSetf_of_named hn]
    exact ⟨by simp [takeFlag_getLsbD], takeFlag_owner n _ g⟩
  case others => rw [hflags, takeSetf_getLsbD_ne hm]

end Sys2Proof.Machine
end

section
/-!
The role fault (R23, R26) and the empty-register fault (R75).
-/
namespace Sys2Proof.Machine

section
variable {o : Op}

/-- Instructions of the matrix engine are for the matrix role alone (R23). -/
theorem roleAllows_matrix (h : isMatrixOp o = true) (r : Role) : roleAllows r o = true ↔ r = .matrix := by
  simp [roleAllows, h]

/-- Instructions of the copy engines are for the copy role alone (R23). -/
theorem roleAllows_copy (h : isMatrixOp o = false ∧ isCopyOp o = true) (r : Role) : roleAllows r o = true ↔ r = .copy := by
  simp [roleAllows, h]

/-- Spiral and link instructions are for the vector and the copy role (R23). -/
theorem roleAllows_spiral_link (h : isMatrixOp o = false ∧ isCopyOp o = false ∧ (isSpiralOp o || isLinkOp o) = true) (r : Role) :
    roleAllows r o = true ↔ r = .vector ∨ r = .copy := by
  obtain ⟨hm, hx, hl⟩ := h
  rw [roleAllows, hm, hx, hl]
  simp

/-- Promise and vector instructions, `callv` and `migrate` are for the vector role alone (R23). -/
theorem roleAllows_vector (h : isMatrixOp o = false ∧ isCopyOp o = false ∧ (isSpiralOp o || isLinkOp o) = false ∧
    (isPromiseOp o || isVectorOp o || o == .callv || o == .migrate) = true) (r : Role) : roleAllows r o = true ↔ r = .vector := by
  obtain ⟨hm, hx, hl, hv⟩ := h
  rw [roleAllows, hm, hx, hl, hv]
  simp

/-- Every role issues the scalar and control instructions (R23). -/
theorem roleAllows_common (h : isMatrixOp o = false ∧ isCopyOp o = false ∧ (isSpiralOp o || isLinkOp o) = false ∧
    (isPromiseOp o || isVectorOp o || o == .callv || o == .migrate) = false) (r : Role) : roleAllows r o = true := by
  obtain ⟨hm, hx, hl, hv⟩ := h
  rw [roleAllows, hm, hx, hl, hv]
  simp

end

/-- Settles O26: the two checks stand in this order before all that an issue does, and each instruction listed is of the
class that R23's table gives it. -/
theorem roleAndRegisterFaults : Obligations.RoleAndRegisterFaults := by
  refine ⟨?role, ?empty, fun r o ho => roleAllows_common ?common r, fun r o ho => roleAllows_vector ?vector r,
    fun r o ho => roleAllows_matrix ?matrix r, fun r o ho => roleAllows_copy ?copy r,
    fun r o ho => roleAllows_spiral_link ?spiral r⟩
  case role =>
    intro i o w s g sp hi hready hsel hrole
    rw [exec_word hi, issue_role hready hsel hrole]
  case empty =>
    intro i o w s g sp hi hready hsel hrole hempty
    rw [exec_word hi, issue_trapEmpty hready hsel hrole hempty]
  all_goals revert o; decide

end Sys2Proof.Machine
end

section
/-!
Operand values out of range (R29, R127, R133, R135).
-/
namespace Sys2Proof.Machine

section
variable {c : Ctx} {s : State}

/-- `sspr` of %mcap takes 1 to 255 (R127). -/
theorem ownSspr_mcap_outside (hd : c.f.d = 0x46) (hx : ¬ (1 ≤ (srcS s c 1).toNat ∧ (srcS s c 1).toNat ≤ 255)) :
    ownSspr c s = .raise 0x10 0 c.sel 0 := by
  rw [ownSspr, hd]
  exact if_neg hx

/-- `sspr` of %mres takes a zero or a positive finite number (R127). -/
theorem ownSspr_mres_outside (hd : c.f.d = 0x47) (hx : resOk ((srcS s c 1).setWidth 32) = false) :
    ownSspr c s = .raise 0x10 0 c.sel 0 := by
  rw [ownSspr, hd]
  exact if_neg (by rw [hx]; exact Bool.false_ne_true)

/-- Bytes that would take PEND out of its 24 bits are not added (R29). -/
theorem addPend_outside {team b : Nat} {n : Int}
    (h : (teamBar s team b).pend + (teamBar s team b).delta + n < 0 ∨
      16777215 < (teamBar s team b).pend + (teamBar s team b).delta + n) : addPend s team b n = none :=
  if_pos (by simpa using h)

theorem ownBarAdd_outside (hc : c.g.callee = false)
    (h : addPend s c.g.team c.f.d.toNat (intOf true 32 (srcS s c 1).toNat) = none) : ownBarAdd c s = .raise 0x0B 0 c.sel 0 := by
  simp [ownBarAdd, hc, h]

/-- A push of more entries than the ring has, with no `xhand` of the group to it under way (R135, R269). -/
theorem pushValues_beyond_depth {r : Ring} {xs : List Word} (hr : ringOf? s c.g.team c.f.d.toNat = some r)
    (hn : r.depth < xs.length)
    (hx : s.cmds.any (fun x => x.uid == c.g.uid && x.op == .xhand && x.f.d.toNat == c.f.d.toNat) = false) :
    pushValues c s xs = .raise 0x0F 0 c.sel 0 := by
  simp only [pushValues, hr, hx, hn, if_true, Bool.false_eq_true, if_false]

/-- A pop of more entries than the ring has (R135). -/
theorem popValues_beyond_depth {r : Ring} {n : Nat} (hr : ringOf? s c.g.team c.f.sa.toNat = some r) (hn : r.depth < n) :
    popValues c s n = .raise 0x0F 0 c.sel 0 := by
  simp only [popValues, hr, hn, if_true]

end

/-- Settles O44: the own effect of each instruction tests its value before it acts. -/
theorem valueFaults : Obligations.ValueFaults := by
  refine ⟨fun f => raises_of_own rfl ?mcap, fun f => raises_of_own rfl ?mres, fun f => raises_of_own rfl ?pending,
    fun f => raises_of_own rfl ?push, fun f => raises_of_own rfl ?pop⟩
  case mcap => exact fun c s ⟨hd, hx⟩ => ownSspr_mcap_outside hd hx
  case mres => exact fun c s ⟨hd, hx⟩ => ownSspr_mres_outside hd hx
  case pending => exact fun c s ⟨hc, hp⟩ => ownBarAdd_outside hc (addPend_outside hp)
  case push => exact fun c s ⟨r, hr, hn, hx⟩ => pushValues_beyond_depth hr (by simpa using hn) hx
  case pop => exact fun c s ⟨r, hr, hn⟩ => popValues_beyond_depth hr hn

end Sys2Proof.Machine
end

section
/-!
The end of a clk at a team barrier (R29, R129).
-/
namespace Sys2Proof.Machine

/-- Every arrival made and no byte pending: the barrier opens. -/
theorem openBar_opens {b : TeamBar} (he : b.exp ≠ 0) (hc : b.count = b.exp) (hp : (b.pend : Int) + b.delta = 0) :
    openBar b = ⟨!b.phase, b.exp - b.drops, 0, 0, 0, 0⟩ :=
  if_pos (by simp [he, hc, hp])

/-- A barrier that still waits for an arrival or a byte, or that no group is left to reach, takes the changes of PEND alone. -/
theorem openBar_waits {b : TeamBar} (h : b.count ≠ b.exp ∨ 0 < (b.pend : Int) + b.delta ∨ b.exp = 0) :
    openBar b = { b with pend := ((b.pend : Int) + b.delta).toNat, delta := 0 } := by
  refine if_neg fun hopen => ?_
  simp only [Bool.and_eq_true, decide_eq_true_eq, bne_iff_ne, ne_eq] at hopen
  obtain ⟨⟨hc, hp⟩, he⟩ := hopen
  omega

/-- Settles O55: the barrier opens in the one case and takes PEND's changes in the other. -/
theorem barrierOpens : Obligations.BarrierOpens := by
  refine ⟨fun b => openBar_opens, fun b hp hwait => ?waits, fun b he => ?dropped⟩
  case waits =>
    rw [openBar_waits (by omega)]
    exact ⟨rfl, rfl, rfl, rfl, Int.toNat_of_nonneg hp, rfl⟩
  case dropped =>
    rw [openBar_waits (.inr (.inr he))]
    exact ⟨rfl, he⟩

end Sys2Proof.Machine
end

section
/-!
An instruction with an empty selected set (R63, R64).
-/
namespace Sys2Proof.Machine

/-- Settles O24: the test of the selected set stands before the checks of role, registers and unit and before the
instruction's own effect. -/
theorem emptySelectionDoesNothing : Obligations.EmptySelectionDoesNothing := by
  intro i o w s g sp hi hready hsel
  rw [exec_word hi, issue_empty hready hsel]

end Sys2Proof.Machine
end

section
/-!
Completion (R73): an instruction whose own effect always acts completes with it, and what the shared own effects of the
vector instructions write (R142, R148, R150).
-/
namespace Sys2Proof.Machine

section
variable {o : Op} {ok : Ctx → State → Prop} {eff : Ctx → State → State}

/-- An instruction whose own effect acts where `ok` holds completes with that effect. -/
theorem completes_of_own {w : Word3} {i : Instr} (hi : instrWord i = some (o, w))
    (hown : ∀ c s, ok c s → ownOf o c s = .act (eff c s)) : Completes o w i ok eff := by
  intro s g sp hp hok
  rw [exec_word hi]
  exact issue_act hp (hown _ _ hok)

theorem completesExt_of_own {mk : ExtWord → Instr} (hi : ∀ f, instrWord (mk f) = some (o, .ext f))
    (hown : ∀ c s, ok c s → ownOf o c s = .act (eff c s)) : CompletesExt o mk ok eff :=
  fun f => completes_of_own (hi f) hown

theorem completesBoth_of_own {mkB : BaseWord → Instr} {mkX : XWord → Instr}
    (hb : ∀ f, instrWord (mkB f) = some (o, .base f)) (hx : ∀ f, instrWord (mkX f) = some (o, f.toWord3))
    (hown : ∀ c s, ok c s → ownOf o c s = .act (eff c s)) : CompletesBoth o mkB mkX ok eff :=
  ⟨fun f => completes_of_own (hb f) hown, fun f => completes_of_own (hx f) hown⟩

end

section
variable {own : Verdict} {lat : Nat} {c : Ctx} {s : State}

/-- An operation on the elements of one source writes each element of each selected lane (R142). -/
theorem act_of_vec1 {op : Ctx → Nat → Nat → Nat → Nat} (h : own = vec1 lat (op c) c s) :
    own = .act (elem1Eff lat op c s) := h

theorem act_of_vec2 {op : Ctx → Nat → Nat → Nat → Nat → Nat} (h : own = vec2 lat (op c) c s) :
    own = .act (elem2Eff lat op c s) := h

theorem act_of_vec3 {op : Ctx → Nat → Nat → Nat → Nat → Nat → Nat} (h : own = vec3 lat (op c) c s) :
    own = .act (elem3Eff lat op c s) := h

/-- An operation on the exact value of one source, whose exact result is rounded once (R148). -/
theorem act_of_fltOp1 {op : Xr → Xr} (h : own = fltOp1 lat (fun l e a => vRound c (vTy c) l e (op a)) c s) :
    own = .act (vflt1 lat op c s) :=
  act_of_vec1 (op := fun c l e a => vRound c (vTy c) l e (op (elemValue (vTy c) a))) h

theorem act_of_fltOp2 {op : Ctx → Xr → Xr → Xr} (h : own = fltOp2 lat (op c) c s) : own = .act (vflt2 lat op c s) :=
  act_of_vec2 (op := fun c l e a b => vRound c (vTy c) l e (op c (elemValue (vTy c) a) (elemValue (vTy c) b))) h

theorem act_of_fltOp3 {op : Ctx → Xr → Xr → Xr → Xr} (h : own = fltOp3 (op c) c s) : own = .act (vflt3 op c s) :=
  act_of_vec3 (op := fun c l e a b d =>
    vRound c (vTy c) l e (op c (elemValue (vTy c) a) (elemValue (vTy c) b) (elemValue (vTy c) d))) h

/-- A special function of R56 gives each element its value. -/
theorem act_of_special {fn : Word → Word} (h : own = ownSpecial fn c s) :
    own = .act (elem1Eff 10 (fun _ _ _ a => (fn (BitVec.ofNat 32 a)).toNat) c s) :=
  act_of_vec1 (op := fun _ _ _ a => (fn (BitVec.ofNat 32 a)).toNat) h

end

/-- Settles O8: the own effect of each floating-point vector instruction is an operation on the exact values of the elements,
whose result is rounded once, or a special function; those of R150 give each element's pattern themselves. -/
theorem vectorFloatsComplete : Obligations.VectorFloatsComplete := by
  refine ⟨?vadd, ?vsub, ?vmul, ?vfma, ?vfms, ?vfnma, ?vmin, ?vmax, ?vabs, ?vneg, ?vdiv, ?vsqrt, ?vrint, ?vscale, ?vexpo,
    ?vmant, ?vrcp, ?vrsqrt, ?vexp2, ?vlog2, ?vexp, ?vlog, ?vsin, ?vcos, ?vtanh, ?vsigm⟩
  case vabs | vneg | vsqrt => exact completesBoth_of_own (fun _ => rfl) (fun _ => rfl) fun _ _ _ => act_of_fltOp1 rfl
  case vadd | vsub | vmul | vmin | vmax | vdiv =>
    exact completesBoth_of_own (fun _ => rfl) (fun _ => rfl) fun _ _ _ => act_of_fltOp2 rfl
  case vfma | vfms | vfnma =>
    exact completesBoth_of_own (fun _ => rfl) (fun _ => rfl) fun _ _ _ => act_of_fltOp3 rfl
  case vrint => exact completesBoth_of_own (fun _ => rfl) (fun _ => rfl) fun _ _ _ => act_of_vec1 rfl
  case vexpo | vmant => exact completesExt_of_own (fun _ => rfl) fun _ _ _ => act_of_vec1 rfl
  case vscale => exact completesBoth_of_own (fun _ => rfl) (fun _ => rfl) fun _ _ _ => rfl
  case vrcp | vrsqrt | vexp2 | vlog2 | vexp | vlog | vsin | vcos | vtanh | vsigm =>
    exact completesBoth_of_own (fun _ => rfl) (fun _ => rfl) fun _ _ _ => act_of_special rfl

end Sys2Proof.Machine
end

section
/-!
Decoding and encoding are inverse to each other on the words that no decode check refuses (R58, R60, R62, R79).
-/
namespace Sys2Proof

/-- Decoding answers with an instruction exactly where the words begin with a word of an assigned opcode that no check of R79
refuses, and the instruction is the one that this word stands for. -/
theorem decodeWords_eq_ok_iff {ws : List (BitVec 32)} {i : Instr} {n : Nat} :
    decodeWords ws = .ok i n ↔
      ∃ o w, parseWords ws = some (opCode o, w) ∧ illegalCause o w = none ∧ instrWord i = some (o, w) ∧ n = word3Bytes w := by
  constructor
  · intro h
    unfold decodeWords at h
    split at h
    next => cases h
    next m w hp =>
      split at h
      next => cases h
      next o ho =>
        split at h
        next => cases h
        next hc =>
          split at h
          next => cases h
          next hi =>
            cases h
            exact ⟨o, w, by rw [hp, opCode_of m o ho], hc, instrWord_of o w i hi, rfl⟩
  · rintro ⟨o, w, hp, hc, hi, rfl⟩
    simp only [decodeWords, hp, opOfCode_opCode, hc, instrOfWord_of i o w hi]

theorem wellFormed_iff {i : Instr} {o : Op} {w : Word3} (hi : instrWord i = some (o, w)) :
    wellFormed i = true ↔ illegalCause o w = none := by
  simp only [wellFormed, wellFormedCause, hi, Option.isNone_iff_eq_none]

theorem encode_eq_some_iff {i : Instr} {ws : List (BitVec 32)} :
    encode i = some ws ↔ ∃ o w, instrWord i = some (o, w) ∧ ws = encodeWord o w := by
  unfold encode
  split
  next h => simp [h]
  next o w h => simp [h, eq_comm]

/-- A word has the length that R58 gives it. -/
theorem word3Bytes_eq (o : Op) (w : Word3) : word3Bytes w = 4 * (encodeWord o w).length := by
  cases w with
  | base f => rfl
  | lit f l => rfl
  | ext e => cases h : e.lit <;> simp [word3Bytes, encodeWord, encLit, h]

/-- Settles O18: the words parse back to the opcode and the fields that were encoded. -/
theorem decodeOfEncode : Obligations.DecodeOfEncode := by
  intro i ws rest hwf he
  obtain ⟨o, w, hi, rfl⟩ := encode_eq_some_iff.mp he
  exact decodeWords_eq_ok_iff.mpr
    ⟨o, w, parse_encode i o w hi rest, (wellFormed_iff hi).mp hwf, hi, (word3Bytes_eq o w).symm⟩

/-- Settles O19: encoding joins the fields that parsing has cut the words into. -/
theorem encodeOfDecode : Obligations.EncodeOfDecode := by
  intro ws i n h
  obtain ⟨o, w, hp, hc, hi, rfl⟩ := decodeWords_eq_ok_iff.mp h
  obtain ⟨k, hlen, hk, hw⟩ := encode_parse ws (opCode o) w o hp rfl
  exact ⟨(wellFormed_iff hi).mpr hc, k, hlen, hk, encode_eq_some_iff.mpr ⟨o, w, hi, hw.symm⟩⟩

end Sys2Proof
end

section
/-!
The words that the encoding tables write out.
-/
namespace Sys2Proof

/-- Settles O17: the words are closed terms, which decoding evaluates. -/
theorem writtenWordsDecode : Obligations.WrittenWordsDecode := by
  unfold Obligations.WrittenWordsDecode
  decide +kernel

end Sys2Proof
end

section
/-!
One step of a module that runs (R58, R104), and the trap of an opcode that the map leaves unassigned (R78).
-/
namespace Sys2Proof.Machine

/-- A step at a group's turn runs the instruction at the program counter, with the error that it may have read (R159). -/
theorem step_turn {s : State} {u : Nat × Nat} {rest : List (Nat × Nat)} (hb : s.boot = .released) (hst : s.stage = 2)
    (hq : s.issueQ = u :: rest) : step s = runIssue meanings (takeTurn s u rest) := by
  simp only [step, stepWith, hb, stepRunning, hst, hq, takeTurn]

/-- A step with no turn to take is an event or the end of a stage. -/
theorem step_between {s : State} (hb : s.boot = .released) (hq : s.stage ≠ 2 ∨ s.issueQ = []) :
    step s = match pick s with
      | some (e, t) => exec (instrOfEvent e) t
      | none => .next (advance meanings s) := by
  simp only [step, stepWith, hb, stepRunning]
  split
  next hst hq' => simp [hst, hq'] at hq
  next => rfl

/-- The group and split that `cur` names run the instruction that decoding finds at their program counter. -/
theorem runCur_decoded {s : State} {core pc n : Nat} {i : Instr} (hpc : curPc s = some (core, pc))
    (hd : decodeWords (fetchWords s core pc) = .ok i n) : runCur meanings s = exec i s := by
  obtain ⟨o, w, hp, -, hi, -⟩ := decodeWords_eq_ok_iff.mp hd
  simp only [runCur, hpc, hp, opOfCode_opCode, meanings, instrOfWord_of i o w hi]

/-- A word of an unassigned opcode runs the illegal-instruction trap (R78). -/
theorem runCur_unassigned {s : State} {core pc n : Nat} {w : Word3} (hpc : curPc s = some (core, pc))
    (hp : parseWords (fetchWords s core pc) = some (n, w)) (hn : opOfCode n = none) :
    runCur meanings s = illegalTrap 1 s := by
  simp only [runCur, hpc, hp, hn]
  rfl

/-- With no error in the stores nothing is added to an issue. -/
theorem noteHurt_of_soft_nil {s t : State} (h : s.soft = []) : noteHurt s t = t := by
  simp [noteHurt, h]

/-- An attempt that did not issue has read nothing (R81). -/
theorem noteHurt_of_not_issued {s t : State} (h : t.turn ≠ .issued) : noteHurt s t = t := by
  simp [noteHurt, h]

theorem runIssue_of_runCur {s t : State} (h : runCur meanings s = .next t) :
    runIssue meanings s = .next (noteHurt s t) := by
  simp only [runIssue, h]

/-- Settles O21: a step of a module that runs takes a turn to issue, else an event, else the next stage, and a turn runs what
decoding finds at the program counter. -/
theorem stepRunsTheDecodedInstruction : Obligations.StepRunsTheDecodedInstruction := by
  refine ⟨?turn, ?event, ?stage⟩
  case turn =>
    intro u rest s core pc i n hb hst hq hpc hd
    have hstep : step s = match exec i (takeTurn s u rest) with
        | .next t => .next (noteHurt (takeTurn s u rest) t)
        | o => o := by
      rw [step_turn hb hst hq, runIssue, runCur_decoded hpc hd] <;> rfl
    refine ⟨hstep, fun hsoft => ?_⟩
    rw [hstep]
    split
    next t ht => rw [noteHurt_of_soft_nil (s := takeTurn s u rest) hsoft, ht]
    next => rfl
  case event => exact fun s e t hb hq hp => by rw [step_between hb hq, hp]
  case stage => exact fun s hb hq hp => by rw [step_between hb hq, hp]

/-- The opcode map, number by number (R77, R78). -/
theorem opOfCode_eq_none_iff : ∀ n, n < 512 → (opOfCode n = none ↔ n = 0 ∨ 0x06D ≤ n ∧ n ≤ 0x07F ∨ 0x09E ≤ n ∧ n ≤ 0x09F ∨
    0x0AA ≤ n ∧ n ≤ 0x0BF ∨ 0x0D6 ≤ n ∧ n ≤ 0x0DF ∨ 0x0EC ≤ n ∧ n ≤ 0x0EF ∨ 0x0F6 ≤ n ∧ n ≤ 0x0F7 ∨
    0x0FE ≤ n ∧ n ≤ 0x0FF ∨ 0x106 ≤ n ∧ n ≤ 0x107 ∨ 0x110 ≤ n) := by
  decide +kernel

/-- Settles O20: the opcode map is read off number by number; a word of an unassigned opcode has no meaning but the trap, and an
attempt that traps has read nothing. -/
theorem unassignedOpcodesTrap : Obligations.UnassignedOpcodesTrap := by
  refine ⟨opOfCode_eq_none_iff, ?decode, ?trap⟩
  case decode => exact fun ws n w hp hn => by simp only [decodeWords, hp, hn]
  case trap =>
    intro u rest s core pc n w g sp hb hst hq hpc hp hn hcur hdel
    have htrap := (runCur_unassigned hpc hp hn).trans (illegalTrap_at hcur hdel)
    rw [step_turn hb hst hq, runIssue_of_runCur htrap, noteHurt_of_not_issued (by simp [raiseAt])]

end Sys2Proof.Machine
end

section
/-!
Attempts that end before the instruction's own effect (R72, R79).
-/
namespace Sys2Proof.Machine

/-- Settles O23: both tests stand before all that an issue does. -/
theorem heldInstructionsChangeNothing : Obligations.HeldInstructionsChangeNothing := by
  intro i o w s g sp hi
  rw [exec_word hi]
  exact ⟨issue_undelivered, issue_notReady⟩

/-- Settles O25: the decode checks stand before the test of the selected set and before all that an issue does. -/
theorem decodeChecksTrap : Obligations.DecodeChecksTrap := by
  intro i o w s g sp hi hcur hdel
  rw [exec_word hi]
  exact ⟨fun k => issue_illegal hcur hdel, issue_cause6 hcur hdel⟩

end Sys2Proof.Machine
end

section
/-!
What an instruction and a step answer (R79, R98): a next state, but where no group and split stand to issue.
-/
namespace Sys2Proof.Machine

/-- The answer is a next state, or the stop of a machine in which no group and split stand to issue. -/
def answers (s : State) (r : Host.Outcome State Fault Refusal) : Prop :=
  (∃ t, r = .next t) ∨ r = .fault .noIssuingGroup ∧ curSplit s = none

theorem answers.ne_refused {s : State} {r : Host.Outcome State Fault Refusal} (h : answers s r) (x : Refusal) :
    r ≠ .refused x := by
  rintro rfl
  obtain ⟨t, ht⟩ | ⟨hf, -⟩ := h
  · cases ht
  · cases hf

theorem answers.of_fault {s : State} {f : Fault} (h : answers s (.fault f)) : f = .noIssuingGroup ∧ curSplit s = none := by
  obtain ⟨t, ht⟩ | ⟨hf, hc⟩ := h
  · cases ht
  · cases hf; exact ⟨rfl, hc⟩

theorem issue_answers (o : Op) (w : Word3) (own : Ctx → State → Verdict) (s : State) : answers s (issue o w own s) := by
  rcases hc : curSplit s with _ | ⟨g, sp⟩
  · exact .inr ⟨issue_none hc, hc⟩
  · exact .inl (issue_next hc)

/-- Where no group and split stand, the illegal-instruction trap has none to stop. -/
theorem illegalTrap_none {s : State} (h : curSplit s = none) (k : Nat) : illegalTrap k s = .fault .noIssuingGroup := by
  unfold curSplit at h
  unfold illegalTrap
  rcases hc : s.cur with _ | ⟨u, pl⟩
  · rfl
  · simp only [hc] at h
    rcases hg : groupAt? s u with _ | g
    · simp [hg]
    · rcases hp : splitAt? g pl with _ | sp
      · simp [hg, hp]
      · simp [hg, hp] at h

/-- The illegal-instruction trap has a next state where a group and split stand. -/
theorem illegalTrap_next {s : State} {g : Group} {sp : Split} (h : curSplit s = some (g, sp)) (k : Nat) :
    ∃ t, illegalTrap k s = .next t := by
  unfold curSplit at h
  unfold illegalTrap
  rcases hc : s.cur with _ | ⟨u, pl⟩
  · simp [hc] at h
  · simp only [hc, Option.bind_eq_some_iff, Option.map_eq_some_iff] at h
    obtain ⟨g', hg, sp', hs, -⟩ := h
    simp only [hg, hs]
    exact ⟨_, rfl⟩

theorem illegalTrap_answers (k : Nat) (s : State) : answers s (illegalTrap k s) := by
  rcases hc : curSplit s with _ | ⟨g, sp⟩
  · exact .inr ⟨illegalTrap_none hc k, hc⟩
  · exact .inl (illegalTrap_next hc k)

/-- Every step of the machine between two instructions has a next state, but for the trap of an unassigned opcode. -/
theorem exec_step_next {i : Instr} (hi : instrWord i = none) (hu : ∀ x, i ≠ .unassignedOpcode x) (s : State) :
    ∃ t, exec i s = .next t := by
  cases i
  case unassignedOpcode x => exact absurd rfl (hu x)
  all_goals simp only [instrWord, reduceCtorEq] at hi
  all_goals exact ⟨_, rfl⟩

theorem exec_answers (i : Instr) (s : State) : answers s (exec i s) := by
  cases hi : instrWord i with
  | some p =>
    obtain ⟨o, w⟩ := p
    rw [exec_word hi]
    exact issue_answers o w (ownOf o) s
  | none =>
    by_cases hu : ∃ x, i = .unassignedOpcode x
    · obtain ⟨x, rfl⟩ := hu
      exact illegalTrap_answers 1 s
    · exact .inl (exec_step_next hi (fun x hx => hu ⟨x, hx⟩) s)

theorem meanings_word_answers (o : Op) (w : Word3) (s : State) : answers s (meanings.word o w s) := by
  simp only [meanings]
  split
  · exact exec_answers _ s
  · exact illegalTrap_answers _ s

theorem runCur_ne_refused (s : State) (r : Refusal) : runCur meanings s ≠ .refused r := by
  unfold runCur
  split
  · simp
  · dsimp only
    split
    · exact (illegalTrap_answers 7 s).ne_refused r
    · split
      · exact (illegalTrap_answers 1 s).ne_refused r
      · exact (meanings_word_answers _ _ s).ne_refused r

theorem stepRunning_ne_refused (s : State) (r : Refusal) : stepRunning meanings s ≠ .refused r := by
  unfold stepRunning
  split
  · unfold runIssue
    split
    · simp
    · exact runCur_ne_refused _ r
  · split
    · exact (exec_answers _ _).ne_refused r
    · simp

theorem stepReset_ne_refused (s : State) (r : Refusal) : stepReset meanings s ≠ .refused r := by
  unfold stepReset
  split
  · split
    · exact (exec_answers _ _).ne_refused r
    · simp
  · simp

/-- Settles O22: an instruction of the opcode table is the skeleton of an issue, which always ends in a state where a group and
split stand, and every other step has a next state. -/
theorem nothingIsRefused : Obligations.NothingIsRefused := by
  refine ⟨fun i s => (exec_answers i s).ne_refused, fun s r => ?step, fun i s f h => answers.of_fault (h ▸ exec_answers i s)⟩
  case step =>
    unfold step stepWith
    split
    · exact stepRunning_ne_refused s r
    · exact stepReset_ne_refused s r

end Sys2Proof.Machine
end

section
/-!
Writes of fixed latency (R73): what one write does to the registers of its group, and the writes of one clk in their order.
-/
namespace Sys2Proof.Machine

theorem sread_swrite (g : Group) (r : Nat) (x : DWord) : sread (swrite g r x) r = x := mget_mset 0 x g.s

theorem sread_swrite_ne {r r' : Nat} (h : r' ≠ r) (g : Group) (x : DWord) : sread (swrite g r x) r' = sread g r' :=
  mget_mset_ne 0 x g.s h

theorem kread_kwrite (g : Group) (r : Nat) (m x : Word) :
    kread (kwrite g r m x) r = (kread g r &&& ~~~m) ||| (x &&& m) := mget_mset 0 _ g.k

theorem kread_kwrite_ne {r r' : Nat} (h : r' ≠ r) (g : Group) (m x : Word) : kread (kwrite g r m x) r' = kread g r' :=
  mget_mset_ne 0 _ g.k h

theorem vread_vwrite (g : Group) (r l : Nat) (m x : Word) :
    vread (vwrite g r l m x) r l = (vread g r l &&& ~~~m) ||| (x &&& m) := mget_mset 0 _ g.v

/-- A vector register holds its lanes at 32 times its number. -/
theorem vread_vwrite_ne {r r' l l' : Nat} (h : 32 * r + l ≠ 32 * r' + l') (g : Group) (m x : Word) :
    vread (vwrite g r l m x) r' l' = vread g r' l' := mget_mset_ne 0 _ g.v (Ne.symm h)

/-- What a write under a mask leaves of the bits of the mask. -/
theorem masked_and_mask (a x m : Word) : ((a &&& ~~~m) ||| (x &&& m)) &&& m = x &&& m := by
  ext i
  cases h : m[i] <;> simp [h]

/-- A write of vector elements changes no field of the group but its vector registers. -/
theorem applyWrite_v_eq (r : Nat) (ls : List (Nat × Word × Word)) (g : Group) :
    applyWrite g (.v r ls) = { g with v := (applyWrite g (.v r ls)).v } := by
  simp only [applyWrite]
  induction ls generalizing g with
  | nil => rfl
  | cons q ls ih =>
    have h := ih (vwrite g r q.1 q.2.1 q.2.2)
    exact h

theorem applyWrite_v_cons (r : Nat) (q : Nat × Word × Word) (ls : List (Nat × Word × Word)) (g : Group) :
    applyWrite g (.v r (q :: ls)) = applyWrite (vwrite g r q.1 q.2.1 q.2.2) (.v r ls) := rfl

theorem applyWrite_v_append (r : Nat) (xs ys : List (Nat × Word × Word)) (g : Group) :
    applyWrite g (.v r (xs ++ ys)) = applyWrite (applyWrite g (.v r xs)) (.v r ys) := List.foldl_append

/-- An element that is written at no lane of the list stays as it is. -/
theorem vread_applyWrite_v_ne {k r l : Nat} {ls : List (Nat × Word × Word)} (h : ∀ q ∈ ls, 32 * k + q.1 ≠ 32 * r + l)
    (g : Group) : vread (applyWrite g (.v k ls)) r l = vread g r l := by
  induction ls generalizing g with
  | nil => rfl
  | cons q ls ih =>
    rw [applyWrite_v_cons, ih (fun p hp => h p (List.mem_cons_of_mem _ hp)), vread_vwrite_ne (h q List.mem_cons_self)]

/-- Of the writes to one lane the last stands. -/
theorem vread_applyWrite_v_last {r l : Nat} {m x : Word} {pre suf : List (Nat × Word × Word)} (h : ∀ q ∈ suf, q.1 ≠ l)
    (g : Group) : vread (applyWrite g (.v r (pre ++ (l, m, x) :: suf))) r l &&& m = x &&& m := by
  rw [applyWrite_v_append, applyWrite_v_cons, vread_applyWrite_v_ne fun q hq he => h q hq (Nat.add_left_cancel he),
    vread_vwrite, masked_and_mask]

/-! ### What a write leaves unchanged -/

/-- A write of a special register is one of %seed, %mcap, %mres and %rgn. -/
theorem applyWrite_sp (c : Nat) (x : DWord) (g : Group) : applyWrite g (.sp c x) =
    if c = 0x49 then { g with seed := x } else if c = 0x46 then { g with mcap := x.toNat % 256 }
    else if c = 0x47 then { g with mres := x.setWidth 32 } else { g with rgn := x } := by
  unfold applyWrite
  split <;> simp_all

/-- No write of fixed latency changes what a group is, what it owns or where it stands. -/
theorem applyWrite_keeps (w : WriteTo) (g : Group) :
    (applyWrite g w).uid = g.uid ∧ (applyWrite g w).owners = g.owners ∧ (applyWrite g w).splits = g.splits := by
  cases w with
  | v r ls => rw [applyWrite_v_eq]; exact ⟨rfl, rfl, rfl⟩
  | s | k | seedStep => exact ⟨rfl, rfl, rfl⟩
  | sp c x => rw [applyWrite_sp]; (repeat' split) <;> exact ⟨rfl, rfl, rfl⟩
  | flag n op => rw [applyWrite, doneFlag]; (repeat' split) <;> exact ⟨rfl, rfl, rfl⟩

/-- The completion of a flag is no write of a register. -/
theorem applyWrite_flag_regs (n op : Nat) (g : Group) : regsOf (applyWrite g (.flag n op)) = regsOf g :=
  regsOf_of_numRegs (doneFlag_regs n op g)

theorem sread_applyWrite {w : WriteTo} {r : Nat} (h : ∀ x, w ≠ .s r x) (g : Group) :
    sread (applyWrite g w) r = sread g r := by
  cases w with
  | v k ls => rw [applyWrite_v_eq]; rfl
  | s k x => exact sread_swrite_ne (fun hk : r = k => h x (by rw [hk])) g x
  | k | seedStep => rfl
  | sp c x => rw [applyWrite_sp]; (repeat' split) <;> rfl
  | flag n op => exact congrArg (fun p => mget 0 r p.2.1) (applyWrite_flag_regs n op g)

theorem kread_applyWrite {w : WriteTo} {r : Nat} (h : ∀ m x, w ≠ .k r m x) (g : Group) :
    kread (applyWrite g w) r = kread g r := by
  cases w with
  | v k ls => rw [applyWrite_v_eq]; rfl
  | k k m x => exact kread_kwrite_ne (fun hk : r = k => h m x (by rw [hk])) g m x
  | s | seedStep => rfl
  | sp c x => rw [applyWrite_sp]; (repeat' split) <;> rfl
  | flag n op => exact congrArg (fun p => mget 0 r p.2.2.1) (applyWrite_flag_regs n op g)

theorem vread_applyWrite {w : WriteTo} {r l : Nat}
    (h : ∀ k ls, w = .v k ls → ∀ q ∈ ls, 32 * k + q.1 ≠ 32 * r + l) (g : Group) :
    vread (applyWrite g w) r l = vread g r l := by
  cases w with
  | v k ls => exact vread_applyWrite_v_ne (h k ls rfl) g
  | s | k | seedStep => rfl
  | sp c x => rw [applyWrite_sp]; (repeat' split) <;> rfl
  | flag n op => exact congrArg (fun p => mget 0 (32 * r + l) p.1) (applyWrite_flag_regs n op g)

theorem seed_applyWrite {w : WriteTo} (h : w ≠ .seedStep ∧ ∀ x, w ≠ .sp 0x49 x) (g : Group) :
    (applyWrite g w).seed = g.seed := by
  obtain ⟨hstep, hsp⟩ := h
  cases w with
  | v k ls => rw [applyWrite_v_eq]
  | s | k => rfl
  | seedStep => exact absurd rfl hstep
  | sp c x =>
    have hc : c ≠ 0x49 := fun hc => hsp x (hc ▸ rfl)
    rw [applyWrite_sp, if_neg hc]
    (repeat' split) <;> rfl
  | flag n op => exact congrArg (fun p => p.2.2.2.2.2.2) (applyWrite_flag_regs n op g)

theorem mcap_applyWrite {w : WriteTo} (h : ∀ x, w ≠ .sp 0x46 x) (g : Group) : (applyWrite g w).mcap = g.mcap := by
  cases w with
  | v k ls => rw [applyWrite_v_eq]
  | s | k | seedStep => rfl
  | sp c x =>
    have hc : c ≠ 0x46 := fun hc => h x (hc ▸ rfl)
    rw [applyWrite_sp, if_neg hc]
    (repeat' split) <;> rfl
  | flag n op => exact congrArg (fun p => p.2.2.2.2.1) (applyWrite_flag_regs n op g)

theorem mres_applyWrite {w : WriteTo} (h : ∀ x, w ≠ .sp 0x47 x) (g : Group) : (applyWrite g w).mres = g.mres := by
  cases w with
  | v k ls => rw [applyWrite_v_eq]
  | s | k | seedStep => rfl
  | sp c x =>
    have hc : c ≠ 0x47 := fun hc => h x (hc ▸ rfl)
    rw [applyWrite_sp, if_neg hc]
    (repeat' split) <;> rfl
  | flag n op => exact congrArg (fun p => p.2.2.2.2.2.1) (applyWrite_flag_regs n op g)

theorem rgn_applyWrite {w : WriteTo} (h : ∀ c x, w = .sp c x → c ∈ [0x49, 0x46, 0x47]) (g : Group) :
    (applyWrite g w).rgn = g.rgn := by
  cases w with
  | v k ls => rw [applyWrite_v_eq]
  | s | k | seedStep => rfl
  | sp c x =>
    have hc : c = 0x49 ∨ c = 0x46 ∨ c = 0x47 := by simpa using h c x rfl
    obtain rfl | rfl | rfl := hc <;> rfl
  | flag n op => exact congrArg (fun p => p.2.2.2.1) (applyWrite_flag_regs n op g)

/-! ### The writes that fall due in one clk -/

/-- The writes of a list to one group, in their order. -/
def applyWrites (g : Group) (ps : List PendWrite) : Group := ps.foldl (fun g p => applyWrite g p.dst) g

/-- Whether the end of clk `n` of die `d` takes a pending write from the list. -/
def takenBy (s : State) (d n : Nat) (p : PendWrite) : Bool :=
  match groupAt? s p.uid with
  | some g => coreDie g.core == d && decide (p.clk ≤ n)
  | none => true

/-- What every write of a list keeps, the list keeps. -/
theorem applyWrites_keeps {α : Type} (view : Group → α) {ps : List PendWrite}
    (h : ∀ p ∈ ps, ∀ g, view (applyWrite g p.dst) = view g) (g : Group) : view (applyWrites g ps) = view g := by
  unfold applyWrites
  induction ps generalizing g with
  | nil => rfl
  | cons p ps ih =>
    rw [List.foldl_cons, ih (fun q hq => h q (List.mem_cons_of_mem _ hq)), h p List.mem_cons_self]

/-- Writes of many groups reach each of them in their order. -/
theorem groupAt_foldl_applyWrite (ps : List PendWrite) (s : State) (u : Nat) :
    groupAt? (ps.foldl (fun st p => updGroup st p.uid (fun g => applyWrite g p.dst)) s) u =
      (groupAt? s u).map (fun g => applyWrites g (ps.filter (fun p => p.uid == u))) := by
  induction ps generalizing s with
  | nil => simp [applyWrites]
  | cons p ps ih =>
    have huid : ∀ x : Group, (applyWrite x p.dst).uid = x.uid := fun x => (applyWrite_keeps p.dst x).1
    rw [List.foldl_cons, ih]
    by_cases hp : p.uid = u
    · subst hp
      rw [groupAt_updGroup huid, Option.map_map, List.filter_cons_of_pos (by simp)]
      rfl
    · rw [groupAt_updGroup_ne huid (Ne.symm hp), List.filter_cons_of_neg (by simp [hp])]

/-- The end of a clk applies to a group its writes that are taken from the list, in the order in which they were issued. -/
theorem groupAt_applyPend (s : State) (d n u : Nat) : groupAt? (applyPend s d n) u =
    (groupAt? s u).map (fun g => applyWrites g ((s.pend.filter (takenBy s d n)).filter (fun p => p.uid == u))) :=
  groupAt_foldl_applyWrite (s.pend.filter (takenBy s d n)) s u

section
variable {s : State} {d n u : Nat} {g : Group}

/-- A write that was issued last and is due is the last to be applied. -/
theorem groupAt_applyPend_last {w : WriteTo} {ps : List PendWrite} (hg : groupAt? s u = some g) (hd : coreDie g.core = d)
    (hp : s.pend = ps ++ [⟨n, u, w⟩]) : ∃ g0, groupAt? (applyPend s d n) u = some (applyWrite g0 w) := by
  have hlast : takenBy s d n ⟨n, u, w⟩ = true := by simp [takenBy, hg, hd]
  refine ⟨applyWrites g ((ps.filter (takenBy s d n)).filter (fun p => p.uid == u)), ?_⟩
  rw [groupAt_applyPend, hg, hp, List.filter_append, List.filter_append]
  simp [hlast, applyWrites]

/-- The end of a clk applies to a group writes of its own from the pending list. -/
theorem groupAt_applyPend_some (d n : Nat) (hg : groupAt? s u = some g) :
    ∃ ps, (∀ p ∈ ps, p ∈ s.pend ∧ p.uid = u) ∧ groupAt? (applyPend s d n) u = some (applyWrites g ps) := by
  refine ⟨_, fun p hp => ?_, by rw [groupAt_applyPend, hg]; rfl⟩
  simp only [List.mem_filter, beq_iff_eq] at hp
  exact ⟨hp.1.1, hp.2⟩

end

/-- Settles O47: the writes that are due reach their group in the order of the list, and each leaves alone what it does not
name. -/
theorem pendingWrites : Obligations.PendingWrites := by
  refine ⟨fun s core uid lat w => rfl, ?scalar, ?mask, ?vector, ?special, ?others⟩
  case scalar =>
    intro s d n u g r x ps hg hd hp
    obtain ⟨g0, h0⟩ := groupAt_applyPend_last hg hd hp
    exact ⟨_, h0, sread_swrite g0 r x⟩
  case mask =>
    intro s d n u g r m x ps hg hd hp
    obtain ⟨g0, h0⟩ := groupAt_applyPend_last hg hd hp
    exact ⟨_, h0, (congrArg (· &&& m) (kread_kwrite g0 r m x)).trans (masked_and_mask _ _ _)⟩
  case vector =>
    intro s d n u g r ls l m x pre suf ps hg hd hp hls hsuf
    obtain ⟨g0, h0⟩ := groupAt_applyPend_last hg hd hp
    subst hls
    exact ⟨_, h0, vread_applyWrite_v_last hsuf g0⟩
  case special =>
    intro s d n u g k x ps hg hd hp
    obtain ⟨g0, h0⟩ := groupAt_applyPend_last hg hd hp
    refine ⟨_, h0, ?_, ?_, ?_, fun hk => ?_⟩
    · rintro rfl; rfl
    · rintro rfl; rfl
    · rintro rfl; rfl
    · simp only [List.mem_cons, List.not_mem_nil, or_false, not_or] at hk
      obtain ⟨hseed, hmcap, hmres⟩ := hk
      rw [applyWrite_sp, if_neg hseed, if_neg hmcap, if_neg hmres]
  case others =>
    intro s d n u g hg
    obtain ⟨ps, hps, h0⟩ := groupAt_applyPend_some d n hg
    refine ⟨_, h0, fun r h => ?_, fun r h => ?_, fun r l h => ?_, fun h => ?_, fun h => ?_, fun h => ?_, fun h => ?_, ?_, ?_⟩
    · exact applyWrites_keeps (sread · r) (fun p hp => sread_applyWrite (h p (hps p hp).1 (hps p hp).2)) g
    · exact applyWrites_keeps (kread · r) (fun p hp => kread_applyWrite (h p (hps p hp).1 (hps p hp).2)) g
    · exact applyWrites_keeps (vread · r l) (fun p hp => vread_applyWrite (h p (hps p hp).1 (hps p hp).2)) g
    · exact applyWrites_keeps Group.seed (fun p hp => seed_applyWrite (h p (hps p hp).1 (hps p hp).2)) g
    · exact applyWrites_keeps Group.mcap (fun p hp => mcap_applyWrite (h p (hps p hp).1 (hps p hp).2)) g
    · exact applyWrites_keeps Group.mres (fun p hp => mres_applyWrite (h p (hps p hp).1 (hps p hp).2)) g
    · exact applyWrites_keeps Group.rgn (fun p hp => rgn_applyWrite (h p (hps p hp).1 (hps p hp).2)) g
    · exact applyWrites_keeps Group.owners (fun p _ x => (applyWrite_keeps p.dst x).2.1) g
    · exact applyWrites_keeps Group.splits (fun p _ x => (applyWrite_keeps p.dst x).2.2) g

end Sys2Proof.Machine
end

section
/-!
Results of an instruction reach its selected lanes alone (R63, R142, R146).
-/
namespace Sys2Proof.Machine

theorem mem_lanesOf {m : Word} {l : Nat} : l ∈ lanesOf m ↔ l < 32 ∧ m.getLsbD l = true := by
  simp [lanesOf]

/-- The lanes of a mask that is made from a list. -/
theorem maskOf_getLsbD (ls : List Nat) {l : Nat} (h : l < 32) : (maskOf ls).getLsbD l = decide (l ∈ ls) := by
  have hfold (m : Word) : (ls.foldl (fun m l => m ||| BitVec.ofNat 32 (2 ^ l)) m).getLsbD l = (m.getLsbD l || decide (l ∈ ls)) := by
    induction ls generalizing m with
    | nil => simp
    | cons k ls ih =>
      have hbit : (BitVec.ofNat 32 (2 ^ k)).getLsbD l = decide (l = k) := by
        rw [BitVec.getLsbD_ofNat, Nat.testBit_two_pow]
        simp [h, eq_comm]
      rw [List.foldl_cons, ih, BitVec.getLsbD_or, hbit, Bool.or_assoc]
      simp
  rw [maskOf, hfold]
  simp

/-- A selected lane has its bit in a comparison's mask where its comparison holds. -/
theorem cmpMask_getLsbD {c : Ctx} {l : Nat} (s : State) (h : l < 32) (hsel : c.sel.getLsbD l = true) : (cmpMask c s).getLsbD l =
    cmpElem (c.f.opx.toNat % 8) (vTy c) (srcV s c (vTy c) 1 l) (srcV s c (vTy c) 2 l) := by
  rw [cmpMask, maskOf_getLsbD _ h]
  simp [mem_lanesOf, h, hsel]

theorem kwrite_getLsbD (g : Group) (r : Nat) (m x : Word) (l : Nat) : (kread (kwrite g r m x) r).getLsbD l =
    if m.getLsbD l then x.getLsbD l else (kread g r).getLsbD l := by
  rw [kread_kwrite, BitVec.getLsbD_or, BitVec.getLsbD_and, BitVec.getLsbD_and, BitVec.getLsbD_not]
  by_cases hl : l < 32
  · cases m.getLsbD l <;> simp [hl]
  · simp [BitVec.getLsbD_of_ge _ l (Nat.le_of_not_lt hl)]

/-- A whole word replaces a lane. -/
theorem vread_vwrite_whole (g : Group) (r l : Nat) (x : Word) : vread (vwrite g r l 0xFFFFFFFF x) r l = x := by
  have hones : (0xFFFFFFFF : Word) = BitVec.allOnes 32 := rfl
  rw [vread_vwrite, hones, BitVec.not_allOnes, BitVec.and_zero, BitVec.zero_or, BitVec.and_allOnes]

/-- The last of the writes of whole words decides a lane, and every write of a lane has the same word. -/
theorem vread_applyWrite_wholeLanes (r l : Nat) (f : Nat → Word) (ls : List Nat) (g : Group) :
    vread (applyWrite g (.v r (wholeLanes ls f))) r l = if l ∈ ls then f l else vread g r l := by
  unfold wholeLanes
  induction ls generalizing g with
  | nil => rfl
  | cons k ls ih =>
    rw [List.map_cons, applyWrite_v_cons, ih]
    by_cases hm : l ∈ ls
    · simp [hm]
    · by_cases hk : l = k
      · subst hk; rw [if_neg hm, if_pos List.mem_cons_self, vread_vwrite_whole]
      · rw [if_neg hm, if_neg (by simp [hm, hk]), vread_vwrite_ne (by omega)]

theorem vread_applyWrite_wholeLanes_ne {r r' l : Nat} {m : Word} (hr : r' ≠ r) (hl : l < 32) (f : Nat → Word) (g : Group) :
    vread (applyWrite g (.v r (wholeLanes (lanesOf m) f))) r' l = vread g r' l := by
  refine vread_applyWrite_v_ne (fun q hq => ?_) g
  obtain ⟨k, hk, rfl⟩ := List.mem_map.mp hq
  have := (mem_lanesOf.mp hk).1
  dsimp only
  omega

/-- Settles O48: both kinds of result are written under the selected set. -/
theorem selectedLanesOnly : Obligations.SelectedLanesOnly := by
  refine ⟨fun c s g l hl => ⟨fun hsel => ?holds, fun hsel => ?kept, fun r hr => kread_kwrite_ne hr g _ _⟩,
    fun c g f l hl => ⟨fun hsel => ?written, fun hsel => ?unwritten, fun r hr => vread_applyWrite_wholeLanes_ne hr hl f g⟩⟩
  case holds => rw [applyWrite, kwrite_getLsbD, if_pos hsel, cmpMask_getLsbD s hl hsel]
  case kept => rw [applyWrite, kwrite_getLsbD, if_neg (by simp [hsel])]
  case written => rw [vread_applyWrite_wholeLanes, if_pos (mem_lanesOf.mpr ⟨hl, hsel⟩)]
  case unwritten => rw [vread_applyWrite_wholeLanes, if_neg (by simp [mem_lanesOf, hsel])]

end Sys2Proof.Machine
end

section
/-!
Registers at an issue (R73, R74): no instruction but `vldnf` writes one, and `vldnf` writes its own destinations alone (R167).
-/
namespace Sys2Proof.Machine

/-- A group has kept its scalar and special registers, and of the vector and mask registers all that are not in a list. -/
structure KeepsBut (ds : List Reg) (g g' : Group) : Prop where
  s : g'.s = g.s
  rgn : g'.rgn = g.rgn
  mcap : g'.mcap = g.mcap
  mres : g'.mres = g.mres
  seed : g'.seed = g.seed
  k : ∀ r, ⟨.k, r⟩ ∉ ds → kread g' r = kread g r
  v : ∀ r l, l < 32 → ⟨.v, r⟩ ∉ ds → vread g' r l = vread g r l

section
variable {ds : List Reg} {g g' g'' : Group}

theorem KeepsBut.of_regsOf (h : regsOf g' = regsOf g) : KeepsBut ds g g' := by
  simp only [regsOf, Prod.mk.injEq] at h
  obtain ⟨hv, hs, hk, hrgn, hmcap, hmres, hseed⟩ := h
  exact ⟨hs, hrgn, hmcap, hmres, hseed, fun r _ => by rw [kread, hk]; rfl, fun r l _ _ => by rw [vread, hv]; rfl⟩

theorem KeepsBut.trans (h : KeepsBut ds g g') (h' : KeepsBut ds g' g'') : KeepsBut ds g g'' where
  s := h'.s.trans h.s
  rgn := h'.rgn.trans h.rgn
  mcap := h'.mcap.trans h.mcap
  mres := h'.mres.trans h.mres
  seed := h'.seed.trans h.seed
  k := fun r hr => (h'.k r hr).trans (h.k r hr)
  v := fun r l hl hr => (h'.v r l hl hr).trans (h.v r l hl hr)

theorem KeepsBut.foldl {α : Type} {f : Group → α → Group} {l : List α} (h : ∀ a ∈ l, ∀ g, KeepsBut ds g (f g a)) (g : Group) :
    KeepsBut ds g (l.foldl f g) := by
  induction l generalizing g with
  | nil => exact .of_regsOf rfl
  | cons a l ih =>
    exact (h a List.mem_cons_self g).trans (ih (fun b hb => h b (List.mem_cons_of_mem _ hb)) (f g a))

/-- A lane of a listed vector register is written. -/
theorem KeepsBut.vwrite {r l : Nat} (hr : ⟨.v, r⟩ ∈ ds) (hl : l < 32) (g : Group) (m x : Word) :
    KeepsBut ds g (vwrite g r l m x) where
  s := rfl
  rgn := rfl
  mcap := rfl
  mres := rfl
  seed := rfl
  k := fun _ _ => rfl
  v := fun r' l' hl' hr' => vread_vwrite_ne (fun he => hr' (by rwa [show r' = r by omega])) g m x

/-- A listed mask register is written. -/
theorem KeepsBut.kwrite {r : Nat} (hr : ⟨.k, r⟩ ∈ ds) (g : Group) (m x : Word) : KeepsBut ds g (kwrite g r m x) where
  s := rfl
  rgn := rfl
  mcap := rfl
  mres := rfl
  seed := rfl
  k := fun r' hr' => kread_kwrite_ne (fun he => hr' (by rwa [he])) g m x
  v := fun _ _ _ _ => rfl

/-- An owner writes a lane of a listed vector register (R74). -/
theorem KeepsBut.ownWrite {r l : Nat} (hr : ⟨.v, r⟩ ∈ ds) (hl : l < 32) (g : Group) (op : Nat) (x : Word) :
    KeepsBut ds g (ownWrite g op r l x) := by
  unfold Machine.ownWrite
  split
  · exact .vwrite hr hl g _ x
  · exact .of_regsOf rfl

end

/-- The registers of every group are kept, but those of a list in group `u`. -/
def regsBut (ds : List Reg) (u : Nat) (s t : State) : Prop :=
  (∀ v, v ≠ u → (groupAt? t v).map regsOf = (groupAt? s v).map regsOf) ∧
    ∀ g, groupAt? s u = some g → ∃ g', groupAt? t u = some g' ∧ KeepsBut ds g g'

/-- Groups that have kept number and registers are found with the same registers. -/
theorem groupAt_numRegs {s t : State} (h : sameRegs s t) (u : Nat) :
    (groupAt? t u).map numRegs = (groupAt? s u).map numRegs := by
  have hfind (x : State) : (groupAt? x u).map numRegs = (x.groups.map numRegs).find? (fun p => p.1 == u) := by
    rw [List.find?_map]
    rfl
  rw [hfind, hfind, h]

section
variable {ds : List Reg} {u : Nat} {s t r : State}

theorem regsBut_of_sameRegs (h : sameRegs s t) : regsBut ds u s t := by
  refine ⟨fun v _ => ?others, fun g hg => ?own⟩
  case others =>
    have hv := congrArg (Option.map Prod.snd) (groupAt_numRegs h v)
    rwa [Option.map_map, Option.map_map] at hv
  case own =>
    have hu := groupAt_numRegs h u
    rw [hg, Option.map_some, Option.map_eq_some_iff] at hu
    obtain ⟨g', hg', he⟩ := hu
    exact ⟨g', hg', .of_regsOf (regsOf_of_numRegs he)⟩

theorem regsBut.trans (h : regsBut ds u s t) (h' : regsBut ds u t r) : regsBut ds u s r := by
  obtain ⟨others, own⟩ := h
  obtain ⟨others', own'⟩ := h'
  refine ⟨fun v hv => (others' v hv).trans (others v hv), fun g hg => ?_⟩
  obtain ⟨g1, hg1, hk1⟩ := own g hg
  obtain ⟨g2, hg2, hk2⟩ := own' g1 hg1
  exact ⟨g2, hg2, hk1.trans hk2⟩

theorem regsBut_updGroup {f : Group → Group} (huid : ∀ g, (f g).uid = g.uid) (hf : ∀ g, KeepsBut ds g (f g)) (s : State) :
    regsBut ds u s (updGroup s u f) :=
  ⟨fun v hv => by rw [groupAt_updGroup_ne huid hv], fun g hg => ⟨f g, groupAt_updGroup_some hg huid, hf g⟩⟩

/-- Going on with a translation starts walks or takes the instruction's last step (R190). -/
theorem regsBut_advanceOn {fin : State → Flight → State} {f : Flight} (h : regsBut ds u s (fin s f)) :
    regsBut ds u s (advanceOn fin s f) := by
  unfold advanceOn
  split
  · exact regsBut_of_sameRegs rfl
  · dsimp only
    split
    · split
      · exact regsBut_of_sameRegs rfl
      · exact h
    · exact regsBut_of_sameRegs (foldl_regs (fun x a => by split <;> simp) _ _)

end

/-! ### `vldnf` -/

/-- The lanes of a `vldnf` that receive nothing read 0 in its destinations (R167). -/
def clearLanes (f : Flight) (bad : Word) (g : Group) : Group :=
  (lanesOf bad).foldl (fun g l => f.dests.foldl (fun g r => if r.c == .v then ownWrite g f.id r.n l 0 else g) g) g

/-- The mask kC of a `vldnf` has the bits of the lanes that receive nothing (R167). -/
def markLanes (f : Flight) (bad : Word) (g : Group) : Group :=
  if ownsReg (clearLanes f bad g) ⟨.k, f.f.sc.toNat⟩ f.id then
    kwrite (clearLanes f bad g) f.f.sc.toNat (f.sel &&& g.alive) bad else clearLanes f bad g

theorem clearLanes_keepsBut (f : Flight) (bad : Word) (g : Group) : KeepsBut f.dests g (clearLanes f bad g) := by
  refine KeepsBut.foldl (fun l hl g => KeepsBut.foldl (fun r hr g => ?_) g) g
  obtain ⟨cl, n⟩ := r
  split
  next hc =>
    have hc : cl = .v := by simpa using hc
    subst hc
    exact .ownWrite hr (mem_lanesOf.mp hl).1 g f.id 0
  next => exact .of_regsOf rfl

theorem markLanes_keepsBut {f : Flight} (hk : ⟨.k, f.f.sc.toNat⟩ ∈ f.dests) (bad : Word) (g : Group) :
    KeepsBut f.dests g (markLanes f bad g) := by
  unfold markLanes
  split
  · exact (clearLanes_keepsBut f bad g).trans (.kwrite hk _ _ _)
  · exact clearLanes_keepsBut f bad g

theorem ownWrite_uid (g : Group) (op r l : Nat) (x : Word) : (ownWrite g op r l x).uid = g.uid := by
  unfold ownWrite; split <;> rfl

theorem foldl_uid {α : Type} {f : Group → α → Group} (h : ∀ g a, (f g a).uid = g.uid) (l : List α) (g : Group) :
    (l.foldl f g).uid = g.uid := by
  induction l generalizing g with
  | nil => rfl
  | cons a l ih => rw [List.foldl_cons, ih, h]

theorem markLanes_uid (f : Flight) (bad : Word) (g : Group) : (markLanes f bad g).uid = g.uid := by
  have hclear : (clearLanes f bad g).uid = g.uid :=
    foldl_uid (fun g l => foldl_uid (fun g r => by split; exacts [ownWrite_uid .., rfl]) _ _) _ _
  unfold markLanes
  split <;> exact hclear

/-- The lanes of a `vldnf` whose page is missing or forbids the access. -/
def failedLanes (s : State) (f : Flight) : Word :=
  maskOf ((f.lanes.filter (fun a => (laneCause f a).isSome) ++
    (f.lanes.filter (fun a => (laneCause f a).isNone)).filter (laneForbidden s (flightPart s f) f)).map (·.lane))

/-- The translated lanes of a `vldnf` send their requests, and the others are marked (R167). -/
theorem finishTranslate_vldnf {f : Flight} (hw : f.work = .load true) (hk : ⟨.k, f.f.sc.toNat⟩ ∈ f.dests) (s : State) :
    regsBut f.dests f.uid s (finishTranslate s f) := by
  have hmark := regsBut_updGroup (u := f.uid) (markLanes_uid f (failedLanes s f)) (markLanes_keepsBut hk (failedLanes s f)) s
  unfold finishTranslate
  simp only [hw]
  split
  · exact regsBut_of_sameRegs (by simp [sameRegs])
  · refine hmark.trans (regsBut_of_sameRegs ?_)
    split
    · exact (completeFlight_regs ..).trans (sendFlight_regs ..)
    · exact sendFlight_regs ..

/-- kC is among the destinations of a `vldnf` (R167). -/
theorem mem_destRegs_vldnf (f : ExtWord) : ⟨.k, f.sc.toNat⟩ ∈ destRegs .vldnf f :=
  List.mem_append_right _ List.mem_cons_self

/-- A global memory instruction puts its flight into the list, writes no register in doing so, and goes on with its
translation (R163, R190). -/
theorem startGlobal_eq (w : Work) (vec : Bool) (data : Nat → List (Nat × DWord)) (c : Ctx) (s : State) :
    ∃ s' f, startGlobal w vec data c s = advanceOn finishTranslate s' f ∧ sameRegs s s' ∧ f.work = w ∧ f.f = c.f ∧
      f.uid = c.g.uid ∧ f.dests = destRegs c.op c.f := by
  refine ⟨_, _, rfl, ?_, rfl, rfl, rfl, rfl⟩
  split <;> simp [sameRegs]

theorem startGlobal_vldnf {c : Ctx} (hop : c.op = .vldnf) (vec : Bool) (data : Nat → List (Nat × DWord)) (s : State) :
    regsBut (destRegs .vldnf c.f) c.g.uid s (startGlobal (.load true) vec data c s) := by
  obtain ⟨s', f, heq, hregs, hwork, hf, huid, hdests⟩ := startGlobal_eq (.load true) vec data c s
  rw [hop] at hdests
  have hk : ⟨.k, f.f.sc.toNat⟩ ∈ f.dests := by rw [hf, hdests]; exact mem_destRegs_vldnf c.f
  rw [heq, ← hdests, ← huid]
  exact (regsBut_of_sameRegs hregs).trans (regsBut_advanceOn (finishTranslate_vldnf hwork hk s'))

/-- Whatever an attempt to issue a `vldnf` does, it writes no register but its destinations. -/
theorem issue_vldnf_regsBut {w : Word3} {s t : State} {g : Group} {sp : Split} (hcur : curSplit s = some (g, sp))
    (h : issue .vldnf w ownVldnf s = .next t) : regsBut (destRegs .vldnf (ctxOf .vldnf w s g sp).f) g.uid s t := by
  rw [issue_cur hcur] at h
  cases h
  refine attempt_ends (regsBut _ _ s) .vldnf w ownVldnf s g sp (fun _ => regsBut_of_sameRegs rfl)
    (fun _ _ _ _ => regsBut_of_sameRegs (by simp [sameRegs])) (regsBut_of_sameRegs (by simp [sameRegs]))
    (fun _ _ _ => regsBut_of_sameRegs (by simp [sameRegs])) (fun _ => regsBut_of_sameRegs (by simp [sameRegs]))
    (fun t ht => ?act)
  case act =>
    have hbegin : sameRegs s (beginIssue s (ctxOf .vldnf w s g sp)) := by simp [sameRegs]
    have hafter : sameRegs t (afterIssue t (ctxOf .vldnf w s g sp)) := by simp [sameRegs]
    unfold ownVldnf globalOwn at ht
    dsimp only at ht
    split at ht
    · cases ht
    · split at ht
      · cases ht
      · cases ht
        exact ((regsBut_of_sameRegs hbegin).trans (startGlobal_vldnf rfl _ _ _)).trans (regsBut_of_sameRegs hafter)

/-- Settles O27: booking an issue, finishing it, stopping for a fault and every own effect but that of `vldnf` write no
register. -/
theorem issueKeepsRegisters : Obligations.IssueKeepsRegisters := by
  refine ⟨fun i o w s t hi h ho => ?all, fun i w s t g sp hi hcur h => ?vldnf⟩
  case all =>
    rw [exec_word hi] at h
    exact issue_keeps (fun s => s.groups.map numRegs) (fun _ _ => rfl) (by simp) (by simp) (by simp) (by simp) (by simp) (by simp)
      (fun _ _ _ hown => (ownOf_keeps hown).regs ho) h
  case vldnf =>
    rw [exec_word hi] at h
    obtain ⟨others, own⟩ := issue_vldnf_regsBut hcur h
    obtain ⟨g', hg', hk⟩ := own g (curSplit_stands hcur).1
    exact ⟨others, g', hg', hk.s, hk.rgn, hk.mcap, hk.mres, hk.seed, hk.k, hk.v⟩

end Sys2Proof.Machine
end

section
/-!
Steps of memory accesses once they are ready (R74, R161, R169, R176, R353).
-/
namespace Sys2Proof.Machine

section
variable {s : State}

/-! ### Replies and acknowledgements -/

/-- Data that are ready and not lost reach the core that asked (R74). -/
theorem execLoadReply_core {id op k : Nat} {r : Req} (hr : reqAt? s id = some r) (hready : loadReplyReady s r = true)
    (hlost : r.lost = false) (hsrc : r.src = .core op k) (hask : asksSpiral r.ask = false) :
    execLoadReply id s = .next (coreReply s r) := by
  simp [execLoadReply, hr, hready, hlost, hsrc, hask]

/-- The home front's acknowledgement reaches the source of the write (R176). -/
theorem execStoreAck_home {id : Nat} {r : Req} (hr : reqAt? s id = some r) (hack : homeAcked s r = true) :
    execStoreAck id s = .next (takeAck s r) := by
  simp [execStoreAck, hr, hack]

/-- The last acknowledgement at its scope completes an instruction (R176). -/
theorem execStoreAck_scope {id op k : Nat} {r : Req} {f : Flight} (hr : reqAt? s id = some r) (hack : homeAcked s r = false)
    (hready : storeAckReady s r = true) (hsrc : r.src = .core op k) (hf : flightAt? s op = some f) :
    execStoreAck id s = .next (completeFlight s f) := by
  simp [execStoreAck, hr, hack, hready, hsrc, hf]

/-! ### Scratchpad accesses -/

/-- The last pass of a store is performed (R161). -/
theorem execSpadAccessComplete_store {op : Nat} {f : Flight} (hf : flightAt? s op = some f) (hm : f.mems ≠ []) :
    execSpadAccessComplete op s = .next (putSpad (updFlight s op (fun f => { f with mems := [] })) f.at2 f.mems) := by
  simp [execSpadAccessComplete, hf, hm]

/-- The data of a load reach the registers that it still owns (R161). -/
theorem execSpadAccessComplete_load {op : Nat} {f : Flight} (hf : flightAt? s op = some f) (hm : f.mems = []) (hv : f.vals = []) :
    execSpadAccessComplete op s = .next (completeFlight (updGroup s f.uid (fun g =>
      f.data.foldl (fun g p => ownWrite g op (p.1 / 32) (p.1 % 32) (p.2.setWidth 32)) g)) f) := by
  simp [execSpadAccessComplete, hf, hm, hv]

/-! ### Fences -/

theorem listUpd_id {α : Type} (p : α → Bool) (l : List α) : listUpd p (fun x => x) l = l := by
  induction l with
  | nil => rfl
  | cons a l ih => simp [listUpd, ih]

theorem updGroup_id (s : State) (u : Nat) : updGroup s u (fun g => g) = s := by
  simp [updGroup, listUpd_id]

/-- A fence of a policy other than `.dram` writes no line back (R169). -/
theorem execFenceComplete_shallow {op : Nat} {f : Flight} (hf : flightAt? s op = some f) (hready : fenceReady s f = true)
    (hpol : opxPol f.f ≠ 3) : execFenceComplete op s = .next (completeFlight s f) := by
  simp [execFenceComplete, hf, hready, hpol, performDeep, updGroup_id]

/-- Lines of this module are written back here (R169). -/
theorem performDeep_here {lines : List Nat} (h : ∀ l ∈ lines, lineModule l = s.module) (f : Flight) :
    performDeep s f lines = (lines.map localLine).foldl writeBack s := by
  have hhere : lines.filter (fun l => lineModule l == s.module) = lines := List.filter_eq_self.mpr (by simpa using h)
  have haway : lines.filter (fun l => lineModule l != s.module) = [] := List.filter_eq_nil_iff.mpr (by simpa using h)
  rw [performDeep, hhere, haway, List.foldl_map]
  rfl

section
variable {op : Nat} {f : Flight} {g : Group} (hf : flightAt? s op = some f) (hready : fenceReady s f = true)
  (hpol : opxPol f.f = 3) (hg : groupAt? s f.uid = some g)
include hf hready hpol hg

/-- A `.dram` fence whose group has stored to this module alone completes as the lines are written back (R169). -/
theorem execFenceComplete_here (hl : ∀ l ∈ g.wrote, lineModule l = s.module) : execFenceComplete op s =
    .next (completeFlight (updGroup ((g.wrote.map localLine).foldl writeBack s) f.uid (fun g => { g with wrote := [] })) f) := by
  have hall : g.wrote.all (fun l => lineModule l == s.module) = true := by simpa using hl
  rw [← performDeep_here hl f]
  simp [execFenceComplete, hf, hready, hpol, hg, hall]

/-- Lines of other modules keep a `.dram` fence waiting for their acknowledgements (R169). -/
theorem execFenceComplete_away (hl : ∃ l ∈ g.wrote, lineModule l ≠ s.module) : execFenceComplete op s =
    .next (updGroup (performDeep s f g.wrote) f.uid (fun g => { g with wrote := [] })) := by
  have hall : g.wrote.all (fun l => lineModule l == s.module) = false := by simpa using hl
  simp [execFenceComplete, hf, hready, hpol, hg, hall]

end

/-! ### Page-table walks -/

/-- A walk that reads a leaf ends with a page that is known (R353). -/
theorem execPageTableWalkComplete_leaf {id : Nat} {w : Walk} {r : Req} {e : TlbEntry}
    (hw : s.walks.find? (fun w => w.id == id) = some w) (hr : reqAt? s w.req = some r) (hready : walkReady s w = true)
    (he : walkEntry s w.part w.va w.level (dataNat r.data (walkAddr w.table w.va w.level % 128) 8) = .leaf e) :
    execPageTableWalkComplete id s =
      .next (endWalk { delReq s r.id with tlb := (delReq s r.id).tlb ++ [e] } w none) := by
  simp [execPageTableWalkComplete, hw, hr, hready, he]

end

/-- Settles O31: each step tests that it is ready and then acts. -/
theorem memoryStepsComplete : Obligations.MemoryStepsComplete := by
  refine ⟨?reply, ?spadStore, ?spadLoad, ?homeAck, ?scopeAck, ?fence, ?deepFence, ?awayFence, ?walk⟩
  case reply => exact fun id s r op k hr hready hlost hsrc hask => execLoadReply_core hr hready hlost hsrc hask
  case spadStore => exact fun op s f hf hm => execSpadAccessComplete_store hf hm
  case spadLoad => exact fun op s f hf hm hv => execSpadAccessComplete_load hf hm hv
  case homeAck => exact fun id s r hr hack => execStoreAck_home hr hack
  case scopeAck => exact fun id s r op k f hr hack hready hsrc hf => execStoreAck_scope hr hack hready hsrc hf
  case fence => exact fun op s f hf hready hpol => execFenceComplete_shallow hf hready hpol
  case deepFence => exact fun op s f g hf hready hpol hg hl => execFenceComplete_here hf hready hpol hg hl
  case awayFence => exact fun op s f g hf hready hpol hg hl => execFenceComplete_away hf hready hpol hg hl
  case walk => exact fun id s w r e hw hr hready he => execPageTableWalkComplete_leaf hw hr hready he

end Sys2Proof.Machine
end

section
/-!
Steps of the device (R78, R357, R370, R375 to R379).
-/
namespace Sys2Proof.Machine

section
variable {s : State}

/-! ### The black box (R378) -/

/-- A black-box entry changes the black box alone. -/
theorem boxAppend_eq (s : State) (code src unit ctx data : Nat) :
    ∃ b q, boxAppend s code src unit ctx data = { s with box := b, boxSeq := q } := by
  unfold boxAppend
  split
  · exact ⟨s.box, s.boxSeq, rfl⟩
  · exact ⟨_, _, rfl⟩

/-- The entries of boot steps change the black box alone. -/
theorem foldl_bootEntry_eq (ns : List Nat) (s : State) :
    ∃ b q, ns.foldl (fun st n => boxAppend st 0x01 4 0 0 n) s = { s with box := b, boxSeq := q } := by
  induction ns generalizing s with
  | nil => exact ⟨s.box, s.boxSeq, rfl⟩
  | cons n ns ih =>
    obtain ⟨b, q, h⟩ := boxAppend_eq s 0x01 4 0 0 n
    obtain ⟨b', q', h'⟩ := ih (boxAppend s 0x01 4 0 0 n)
    exact ⟨b', q', by rw [List.foldl_cons, h', h]⟩

/-! ### Module reset (R370) -/

/-- Planning the next scrub changes the agenda alone. -/
theorem planScrub_eq (s : State) : ∃ a, planScrub s = { s with agenda := a } := by
  unfold planScrub
  split
  · exact ⟨s.agenda, rfl⟩
  · exact ⟨_, rfl⟩

theorem planScrub_boot_mem (s : State) : (planScrub s).boot = s.boot ∧ (planScrub s).mem = s.mem := by
  obtain ⟨a, h⟩ := planScrub_eq s
  rw [h]
  exact ⟨rfl, rfl⟩

theorem beforeBoot_boot_mem (s : State) (cold : Bool) : (beforeBoot s cold).boot = .released ∧ (beforeBoot s cold).mem = [] :=
  planScrub_boot_mem _

/-- A boot that fails at a step leaves the compute dies in reset. -/
theorem execModuleReset_fails {cold : Bool} {k : Nat} (h : bootFails s.flash (beforeBoot s cold).bootNo = some k) :
    ∃ t, execModuleReset cold s = .next t ∧ t.boot = .recovery k := by
  simp only [execModuleReset, h]
  exact ⟨_, rfl, rfl⟩

/-- A boot that passes its steps starts from the configuration record in the flash, with all memory zero. -/
theorem execModuleReset_boots {cold : Bool} (h : bootFails s.flash (beforeBoot s cold).bootNo = none) :
    ∃ t, execModuleReset cold s = .next t ∧ t.boot = .released ∧ t.config = parseConfig s.flash ∧ t.mem = [] := by
  obtain ⟨hboot, hmem⟩ := beforeBoot_boot_mem s cold
  simp only [execModuleReset, h]
  refine ⟨_, rfl, ?_⟩
  generalize hx : ({ beforeBoot s cold with config := _, links := _ } : State) = x
  obtain ⟨b, q, he⟩ := foldl_bootEntry_eq (List.range' 1 7) x
  rw [he, ← hx]
  exact ⟨hboot, rfl, hmem⟩

/-- The recovery service takes a record of the right length into the flash (R370). -/
theorem execRecoveryRecord_takes {r : List (BitVec 8)} {k : Nat} (hb : s.boot = .recovery k) (hl : r.length = 896) :
    execRecoveryRecord r s = .next { s with flash := r } := by
  simp [execRecoveryRecord, hb, hl]

/-! ### Operating points and the limiter (R375, R377) -/

/-- A die falls to a lower point at once. -/
theorem execOpptChange_falls {d : Nat} (h : targetPoint s d < (dieAt s d).point) :
    execOpptChange d s = .next (changePoint s d (targetPoint s d)) := by
  simp [execOpptChange, h, Nat.ne_of_lt h]

/-- A die rises to a higher point when its voltage has ramped. -/
theorem execOpptChange_rises {d n : Nat} (h : (dieAt s d).point < targetPoint s d) (hp : (dieAt s d).pending = some n)
    (hn : n ≤ timeNs s) : execOpptChange d s = .next (changePoint s d (targetPoint s d)) := by
  simp [execOpptChange, hp, hn, Nat.ne_of_gt h, Nat.not_lt_of_gt h]

/-- A window above the limit lowers every die that has a point below its own. -/
theorem execLimiterWindow_down {w : Nat} (hw : s.config.pwrlim < w)
    (hd : (List.range 4).any (fun d => decide (0 < (dieAt s d).point)) = true) :
    execLimiterWindow w s = .next (boxAppend { s with dies := s.dies.map limitDown } 0x11 5 0 0 w) := by
  simp only [execLimiterWindow, hw, hd, decide_true, Bool.and_self, if_true]

/-- A window below 95 % of the limit lets the dies that are held back step up. -/
theorem execLimiterWindow_up {w : Nat} (hw : w ≤ s.config.pwrlim) (hlow : 100 * w < 95 * s.config.pwrlim)
    (hd : (List.range 4).any (limited s) = true) : execLimiterWindow w s = .next (boxAppend ((List.range 4).foldl (fun st d =>
      if limited s d then setDie st d { dieAt st d with limit := (dieAt st d).limit + 1 } else st) s) 0x11 5 0 0 w) := by
  simp only [execLimiterWindow, Nat.not_lt.mpr hw, hlow, hd, decide_true, decide_false, Bool.false_and, Bool.and_self,
    Bool.false_eq_true, if_false, if_true]

/-- A control processor's write outside its windows is dropped (R376). -/
theorem execFirmwareWriteDropped_outside {d a : Nat}
    (h : s.windows.any (fun w => w.1 == d && decide (w.2.1 ≤ a) && decide (a < w.2.2)) = false) :
    execFirmwareWriteDropped d a s = .next (boxAppend { s with busErrors := s.busErrors ++ [(d, a)] } 0x20 d d 0 a) := by
  rw [execFirmwareWriteDropped, h]
  rfl

/-! ### Patrol scrub (R379) -/

/-- Poisoning damaged lines takes them from the latent errors to the poisoned lines, and changes nothing else but the black
box (R292, R378). -/
theorem foldl_poisonLine (ls : List Nat) (s : State) :
    (ls.foldl poisonLine s).mem = s.mem ∧ (ls.foldl poisonLine s).agenda = s.agenda ∧ (ls.foldl poisonLine s).ns = s.ns ∧
      (∀ l, l ∈ (ls.foldl poisonLine s).latent ↔ l ∈ s.latent ∧ l ∉ ls) ∧
      ∀ l, l ∈ (ls.foldl poisonLine s).poison ↔ l ∈ s.poison ∨ l ∈ ls := by
  induction ls generalizing s with
  | nil => simp
  | cons k ls ih =>
    obtain ⟨hmem, hagenda, hns, hlatent, hpoison⟩ := ih (poisonLine s k)
    obtain ⟨b, q, he⟩ := boxAppend_eq { s with poison := (s.poison ++ [k]).dedup, latent := s.latent.filter (· != k) } 0x31 4
      (dramUnit k) 0 (128 * k)
    change poisonLine s k = _ at he
    rw [he] at hmem hagenda hns hlatent hpoison
    rw [List.foldl_cons, he]
    refine ⟨hmem, hagenda, hns, fun l => (hlatent l).trans ?_, fun l => (hpoison l).trans ?_⟩
    · simp [and_assoc]
    · simp [or_assoc]

/-- The next scrub is planned where none is. -/
theorem planScrub_plans (h : ∀ d ∈ s.agenda, d.ev ≠ .patrolScrub) :
    ∃ d ∈ (planScrub s).agenda, d.ev = .patrolScrub ∧ d.moment = .ns (timeNs s + scrubPeriod) := by
  have hnone : s.agenda.any (fun d => d.ev == .patrolScrub) = false := by simpa using h
  refine ⟨⟨.ns (timeNs s + scrubPeriod), 3, .patrolScrub⟩, ?_, rfl, rfl⟩
  rw [planScrub, hnone]
  exact List.mem_append_right _ List.mem_cons_self

/-- A scrub poisons the damaged lines that memory holds itself, and the next one follows. -/
theorem execPatrolScrub_scrubs (s : State) : ∃ t, execPatrolScrub s = .next t ∧ t.mem = s.mem ∧
    (∀ l, l ∈ t.latent ↔ l ∈ s.latent ∧ lineInSpiral s l = true) ∧
    (∀ l, l ∈ t.poison ↔ l ∈ s.poison ∨ (l ∈ s.latent ∧ lineInSpiral s l = false)) ∧
    ((∀ d ∈ s.agenda, d.ev ≠ .patrolScrub) →
      ∃ d ∈ t.agenda, d.ev = .patrolScrub ∧ d.moment = .ns (timeNs s + scrubPeriod)) := by
  obtain ⟨hmem, hagenda, hns, hlatent, hpoison⟩ := foldl_poisonLine (s.latent.filter (fun l => !(lineInSpiral s l))) s
  refine ⟨_, rfl, ?mem, fun l => ?latent, fun l => ?poison, fun h => ?next⟩
  case next =>
    have hplan := planScrub_plans (s := (s.latent.filter (fun l => !(lineInSpiral s l))).foldl poisonLine s)
      (by rw [hagenda]; exact h)
    rwa [timeNs, hns] at hplan
  all_goals
    obtain ⟨a, ha⟩ := planScrub_eq ((s.latent.filter (fun l => !(lineInSpiral s l))).foldl poisonLine s)
    rw [ha]
  case mem => exact hmem
  case latent =>
    refine (hlatent l).trans ?_
    cases h : lineInSpiral s l <;> simp [h]
  case poison =>
    refine (hpoison l).trans ?_
    cases h : lineInSpiral s l <;> simp [h]

end

/-- Settles O40: each step does at once what its rule gives where its condition holds; those of the black box, the boot and the
scrub change nothing beside what they name. -/
theorem deviceStepsComplete : Obligations.DeviceStepsComplete := by
  refine ⟨fun p s => rfl, fun cold s => ?reset, fun r s k hb hl => execRecoveryRecord_takes hb hl,
    fun d s h => execOpptChange_falls h, fun d s n h hp hn => execOpptChange_rises h hp hn,
    fun w s hw hd => execLimiterWindow_down hw hd, fun w s hw hlow hd => execLimiterWindow_up hw hlow hd,
    fun d a s h => execFirmwareWriteDropped_outside h, execPatrolScrub_scrubs, fun s => rfl, fun s => rfl,
    fun x s g sp hcur hdel => illegalTrap_at hcur hdel⟩
  case reset =>
    split
    next h => exact execModuleReset_boots h
    next k h => exact execModuleReset_fails h

end Sys2Proof.Machine
end

section
/-!
Steps of groups under their own conditions (R97 to R101, R117 to R119, R131, R138, R177).
-/
namespace Sys2Proof.Machine

section
variable {s : State} {u : Nat} {g : Group}

/-! ### Pauses -/

/-- The pause of a `yield` ends behind its last clk (R118). -/
theorem execYieldEnd_over (hg : groupAt? s u = some g) (hend : g.yieldUntil < coreClk s g.core) :
    execYieldEnd u s = .next (updGroup s u (fun x => { x with yieldUntil := 0 })) := by
  simp [execYieldEnd, hg, hend]

/-- A sleep that is over releases its group and writes no register of it (R119). -/
theorem execSleepDeadline_wakes {dl op : Nat} (hg : groupAt? s u = some g) (hsleep : g.sleep = some (dl, op))
    (hdue : dl ≤ timeNs s) :
    ∃ t g', execSleepDeadline u s = .next t ∧ groupAt? t u = some g' ∧ g'.sleep = none ∧ regsOf g' = regsOf g := by
  refine ⟨_, _, rfl, groupAt_updGroup_some hg fun x => ?uid, ?awake, ?regs⟩
  case uid =>
    split
    · rfl
    · split <;> rfl
  all_goals simp only [hsleep, hdue, if_true]
  case regs => rfl

/-- A departure window closes (R177). -/
theorem execDepartureWindowEnd_over (hg : groupAt? s u = some g) (hover : departureOver s g = true) :
    execDepartureWindowEnd u s = .next (updGroup s u (fun g => { g with depart := none })) := by
  simp [execDepartureWindowEnd, hg, hover]

/-! ### Callee queues -/

/-- The lanes of a `callv` that has sent none enter their queues (R99). -/
theorem execCallvEnqueue_sends {p q : Nat} {f : Flight} {o : Word} (hg : groupAt? s u = some g)
    (hf : s.flights.find? (isCallvOf u p) = some f) (hwork : f.work = .callv q o 0) :
    execCallvEnqueue u p s = .next (enqueueLanes f g (lanesOf o) s o 0) := by
  simp [execCallvEnqueue, enqueueCallv, hg, hf, hwork]

/-- An idle callee slot takes items of its team's fullest queue (R100). -/
theorem execCalleeTake_takes {q : CalleeQueue} (hg : groupAt? s u = some g) (hcallee : g.callee = true)
    (hidle : g.splits = []) (hq : fullestQueue (coreAt s g.core).queues g.team = some q) :
    execCalleeTake u s = .next (takeItems s u g q) := by
  simp [execCalleeTake, hg, hcallee, hidle, hq]

/-! ### Migration -/

/-- A group that may leave moves to the first core of its target cluster with room (R101). -/
theorem execMigrateMove_moves {f : Flight} {d sc c : DWord} {k : Nat} (hg : groupAt? s u = some g)
    (hf : s.flights.find? (isMigrateOf u) = some f) (hstays : migrateDone s f = false) (hready : migrateReady s g = true)
    (hvals : f.vals = [d, sc, c])
    (hcore : ((List.range 6).map (fun k => physCore s (groupCtx s g) d.toNat sc.toNat c.toNat k)).find?
      (fun k => (freeSlot s k []).any (genFree s k) && regRoom s k (groupRegs s g)) = some k) :
    execMigrateMove u s = .next (moveGroup s u g f k) := by
  simp only [execMigrateMove, hg, hf, hstays, hready, hvals, hcore, Bool.not_true, Bool.false_eq_true, if_false]

/-- The `migrate` of a group that has moved completes (R122). -/
theorem execMigrateMove_completes {f : Flight} (hg : groupAt? s u = some g)
    (hf : s.flights.find? (isMigrateOf u) = some f) (hdone : migrateDone s f = true) :
    execMigrateMove u s = .next (completeFlight s f) := by
  simp [execMigrateMove, hg, hf, hdone]

/-! ### Arrivals, launches awaited, and the end of a group -/

section
variable {op key : Nat} {f : Flight} (hf : flightAt? s op = some f) (hready : arrivalReady s f = true)
  (hwork : f.work = .arrive key) (hg : groupAt? s f.uid = some g)
include hf hready hwork hg

/-- An arrival at a barrier of the team is counted there (R131). -/
theorem execArrivalCounted_team (hkey : key < 16) : execArrivalCounted op s =
    .next (delFlight (updBar s g.team key (fun x => { x with count := x.count + 1 })) op) := by
  simp [execArrivalCounted, hf, hready, hwork, hg, hkey]

/-- An arrival at a barrier of an outer level is counted there (R131). -/
theorem execArrivalCounted_outer (hkey : 16 ≤ key) : execArrivalCounted op s =
    .next (delFlight (updOuter s g key (fun x => { x with count := x.count + 1 })) op) := by
  simp [execArrivalCounted, hf, hready, hwork, hg, Nat.not_lt.mpr hkey]

end

/-- `launch.wait` completes with the status of the launch that it awaits (R138). -/
theorem execLaunchWaitDone_completes {op id : Nat} {f : Flight} (hf : flightAt? s op = some f)
    (hready : launchWaitReady s f = true) (hwork : f.work = .launchWait id) : execLaunchWaitDone op s =
      .next (completeWith s f (launchWord id (((launchAt? s id).map (·.status)).getD 0))) := by
  simp [execLaunchWaitDone, hf, hready, hwork]

/-- A group without splits and without operations under way ends (R117). -/
theorem execGroupEnd_ends (hg : groupAt? s u = some g) (hover : groupOver s g = true) :
    execGroupEnd u s = .next (endGroup s u g) := by
  simp [execGroupEnd, hg, hover]

end

/-- Settles O30: each step tests its condition and then acts; a promotion has none, and what ends a sleep writes no register. -/
theorem groupStepsComplete : Obligations.GroupStepsComplete := by
  refine ⟨?promote, ?yield, ?sleep, ?callv, ?callee, ?migrate, ?migrated, ?arrive, ?arriveOuter, ?groupEnd, ?depart,
    ?launchWait⟩
  case promote => exact fun u s => rfl
  case yield => exact fun u s g hg hend => execYieldEnd_over hg hend
  case sleep => exact fun u s g dl op hg hsleep hdue => execSleepDeadline_wakes hg hsleep hdue
  case callv => exact fun u p s g f q o hg hf hwork => execCallvEnqueue_sends hg hf hwork
  case callee => exact fun u s g q hg hcallee hidle hq => execCalleeTake_takes hg hcallee hidle hq
  case migrate => exact fun u s g f k d sc c hg hf hstays hready hvals hcore =>
    execMigrateMove_moves hg hf hstays hready hvals hcore
  case migrated => exact fun u s g f hg hf hdone => execMigrateMove_completes hg hf hdone
  case arrive => exact fun op s f g key hf hready hwork hg hkey => execArrivalCounted_team hf hready hwork hg hkey
  case arriveOuter => exact fun op s f g key hf hready hwork hg hkey => execArrivalCounted_outer hf hready hwork hg hkey
  case groupEnd => exact fun u s g hg hover => execGroupEnd_ends hg hover
  case depart => exact fun u s g hg hover => execDepartureWindowEnd_over hg hover
  case launchWait => exact fun op s f id hf hready hwork => execLaunchWaitDone_completes hf hready hwork

end Sys2Proof.Machine
end

section
/-!
Steps of commands, launches, code stores and teams (R90, R92, R107, R341 to R349, R354).
-/
namespace Sys2Proof.Machine

section
variable {s : State}

/-! ### Commands of the host queues -/

/-- A command whose fields, and whose record if it is a launch, are valid is accepted as its head index advances (R341, R342). -/
theorem takeCommand_valid {fe v : Nat} {c : BitVec 512} {accept : State → Nat → State} (hv : vdOfFe? s fe = some v)
    (hc : commandStatus s v c = 0)
    (hrec : cmdField c 7 0 = 1 → recordStatus s (vdAt s v).part (directRead s (cmdField c 511 448) 512) = 0) :
    takeCommand s fe c accept = accept (advanceHead s fe) v := by
  have hst : (if cmdField c 7 0 = 1 then recordStatus s (vdAt s v).part (directRead s (cmdField c 511 448) 512) else 0) = 0 := by
    split
    next h => exact hrec h
    next => rfl
  simp [takeCommand, hv, hc, hst]

/-- A command that is no launch has no record to check. -/
theorem takeCommand_plain {fe v k : Nat} {c : BitVec 512} {accept : State → Nat → State} (hv : vdOfFe? s fe = some v)
    (hc : commandStatus s v c = 0) (hk : cmdField c 7 0 = k) (hk1 : k ≠ 1) :
    takeCommand s fe c accept = accept (advanceHead s fe) v :=
  takeCommand_valid hv hc fun h => absurd (hk.symm.trans h) hk1

/-- A command of an invalid KIND is completed with status 0x27 (R342). -/
theorem execCmdInvalidKind_refuses {fe v : Nat} (c : BitVec 512) (hv : vdOfFe? s fe = some v) : execCmdInvalidKind fe c s =
    .next (writeDone (advanceHead s fe) (vdAt s v).part (cmdField c 447 384) 0 0x27) := by
  simp [execCmdInvalidKind, hv]

/-- A device-side launch is taken from the head of its front end's queue (R346). -/
theorem execDeviceLaunchAccept_takes {fe : Nat} {d : DevLaunch} {rest : List DevLaunch} {f : Flight}
    (hq : (feAt s fe).devq = d :: rest) (hready : deviceLaunchReady s fe = true)
    (hf : flightAt? (updFe s fe (fun x => { x with devq := rest })) d.op = some f) :
    execDeviceLaunchAccept fe s = .next (acceptDevice (updFe s fe (fun x => { x with devq := rest })) fe d f) := by
  simp [execDeviceLaunchAccept, hq, hready, hf]

/-! ### Phases of a launch -/

section
variable {id : Nat} {l : Launch} (hl : launchAt? s id = some l)
include hl

/-- A launch that has been held long enough is ready (R92). -/
theorem execLaunchHoldEnd_over (hover : holdOver s l = true) :
    execLaunchHoldEnd id s = .next (updLaunch s id (fun l => { l with phase := .ready })) := by
  simp [execLaunchHoldEnd, hl, hover]

/-- A launch whose teams have ended leaves its outer barriers and goes on to its buffer list (R343). -/
theorem execLaunchEnd_over (hover : launchOver s l = true) : execLaunchEnd id s =
    .next { updLaunch s id (fun l => { l with phase := .listing }) with outer := s.outer.filter (fun b => b.launch != id) } := by
  simp [execLaunchEnd, hl, hover]

/-- A fence command goes on to its buffer list (R343). -/
theorem execFenceEnd_over (hover : fenceOver s l = true) :
    execFenceEnd id s = .next (updLaunch s id (fun l => { l with phase := .listing })) := by
  simp [execFenceEnd, hl, hover]

/-- A translation invalidate goes on to its buffer list (R354). -/
theorem execInvalidateEnd_over (hover : invalidateOver s l = true) :
    execInvalidateEnd id s = .next (updLaunch s id (fun l => { l with phase := .listing })) := by
  simp [execInvalidateEnd, hl, hover]

/-- A buffer list that has not begun begins (R345). -/
theorem execBufferListProcessed_begins (hready : listingReady s l = true) (hdrops : l.drops = none) :
    execBufferListProcessed id s = .next (startListing s id l) := by
  simp [execBufferListProcessed, hl, hready, hdrops]

/-- A buffer list whose drops are acknowledged is complete (R345). -/
theorem execBufferListProcessed_ends {ds : List Nat} (hready : listingReady s l = true) (hdrops : l.drops = some ds) :
    execBufferListProcessed id s = .next (endListing s id l) := by
  simp [execBufferListProcessed, hl, hready, hdrops]

/-- The next teams of a launch are placed where the plan says (R90). -/
theorem execTeamPlace_places {plan : List Spot} (hplan : placeable s l = some plan) :
    execTeamPlace id s = .next (placeTeams s id l plan) := by
  simp [execTeamPlace, hl, hplan]

/-! ### Code stores -/

/-- An image whose time has come is written into the store (R348). -/
theorem execCodeStoreLoad_writes {k : Nat} {t : Nat × Image}
    (hload : ((mfind k s.codes).getD CodeStore.empty).loading = some t) (hdue : t.1 ≤ dieClk s (k / 27)) :
    execCodeStoreLoad k id s = .next (writeImage s k t.2) := by
  simp [execCodeStoreLoad, hl, hload, hdue]

section
variable {k : Nat} (hload : ((mfind k s.codes).getD CodeStore.empty).loading = none) (hready : loadReady s k l = true)
include hload hready

/-- A load starts where no team of another context stands in its way (R348). -/
theorem execCodeStoreLoad_starts (hvictims : imageVictims s k (imageOf s l.record.code) = []) :
    execCodeStoreLoad k id s = .next (startLoad s k id (imageOf s l.record.code)) := by
  simp [execCodeStoreLoad, hl, hload, hready, hvictims]

/-- Teams of other contexts with overlapping images are evicted first (R348). -/
theorem execCodeStoreLoad_evicts {v : Team} {vs : List Team} (hvictims : imageVictims s k (imageOf s l.record.code) = v :: vs) :
    execCodeStoreLoad k id s = .next (evictTeams s ((v :: vs).map (·.id))) := by
  simp [execCodeStoreLoad, hl, hload, hready, hvictims]

end

end

/-! ### Placement and the end of teams -/

/-- A scheduling point that is due chooses the context that places (R349). -/
theorem execSchedulingPoint_due {p : Nat} (hdue : pointDue s p = true) :
    execSchedulingPoint p s = .next (choosePlacing s p) := by
  simp [execSchedulingPoint, hdue]

/-- A team whose groups have ended ends (R107). -/
theorem execTeamEnd_ends {id : Nat} {t : Team} (ht : s.teams.find? (fun t => t.id == id) = some t)
    (hover : teamOver s t = true) : execTeamEnd id s = .next (endTeam s id t) := by
  simp [execTeamEnd, ht, hover]

end

/-- Settles O37: a valid command is accepted by its kind (`takeCommand_valid`), and each other step tests its condition and
then acts. -/
theorem commandStepsComplete : Obligations.CommandStepsComplete := by
  refine ⟨?doorbell, ?launch, ?fence, ?invalidate, ?refuse, ?device, ?hold, ?launchEnd, ?fenceEnd, ?invalidateEnd, ?listBegin,
    ?listEnd, ?point, ?load, ?write, ?evict, ?place, ?teamEnd⟩
  case doorbell => exact fun fe n s => rfl
  case launch => exact fun fe c s v hv hc _ hrec => congrArg Host.Outcome.next (takeCommand_valid hv hc fun _ => hrec)
  case fence => exact fun fe c s v hv hc hk => congrArg Host.Outcome.next (takeCommand_plain hv hc hk (by decide))
  case invalidate => exact fun fe c s v hv hc hk => congrArg Host.Outcome.next (takeCommand_plain hv hc hk (by decide))
  case refuse => exact fun fe c s v hv => execCmdInvalidKind_refuses c hv
  case device => exact fun fe s d rest f hq hready hf => execDeviceLaunchAccept_takes hq hready hf
  case hold => exact fun id s l hl hover => execLaunchHoldEnd_over hl hover
  case launchEnd => exact fun id s l hl hover => execLaunchEnd_over hl hover
  case fenceEnd => exact fun id s l hl hover => execFenceEnd_over hl hover
  case invalidateEnd => exact fun id s l hl hover => execInvalidateEnd_over hl hover
  case listBegin => exact fun id s l hl hready hdrops => execBufferListProcessed_begins hl hready hdrops
  case listEnd => exact fun id s l ds hl hready hdrops => execBufferListProcessed_ends hl hready hdrops
  case point => exact fun p s hdue => execSchedulingPoint_due hdue
  case load => exact fun k id s l hl hload hready hvictims => execCodeStoreLoad_starts hl hload hready hvictims
  case write => exact fun k id s l t hl hload hdue => execCodeStoreLoad_writes hl hload hdue
  case evict => exact fun k id s l v vs hl hload hready hvictims => execCodeStoreLoad_evicts hl hload hready hvictims
  case place => exact fun id s l plan hl hplan => execTeamPlace_places hl hplan
  case teamEnd => exact fun id s t ht hover => execTeamEnd_ends ht hover

end Sys2Proof.Machine
end

section
/-!
Writes by system software that are valid (R103, R286, R321, R328, R338 to R341, R347, R350, R371, R377).
-/
namespace Sys2Proof.Machine

section
variable {s : State}

/-! ### Descriptors and service blocks -/

/-- A valid descriptor is written where the write does more than flip SUSP (R338, R339). -/
theorem execVdDescriptorWrite_valid {v : Nat} {x : BitVec 256} (hv : v < 64) (hst : vdStatus s v x.toNat < 0x10)
    (hmore : ¬ ((vdAt s v).valid = true ∧ vdWord { vdAt s v with susp := !(vdAt s v).susp } = x.toNat)) :
    execVdDescriptorWrite v x s = .next (writeVd s v x.toNat) := by
  have hflip : ((vdAt s v).valid && vdWord { vdAt s v with susp := !(vdAt s v).susp } == x.toNat) = false := by
    simpa using hmore
  simp only [execVdDescriptorWrite, hflip, Nat.not_le.mpr hv, Nat.not_le.mpr hst, Bool.false_eq_true, if_false]

/-- Suspending a device that runs pre-empts its context, and the write waits (R350). -/
theorem execVdSuspend_running {v : Nat} (hvalid : (vdAt s v).valid = true) (hsusp : (vdAt s v).susp = false) :
    execVdSuspend v s = .next (addDue { updVd s v (fun b => { b with susp := true }) with cpWaits := s.cpWaits ++ [v] }
      (.ns (timeNs s)) 0 (.preempt (vdAt s v).ctx)) := by
  simp only [execVdSuspend, suspendVd, hvalid, hsusp, Bool.not_false, Bool.and_self, if_true]
  rfl

/-- A valid partition is written (R347). -/
theorem execPartitionWrite_valid {p : Nat} {x : BitVec 512} (hp : p < 16) (hst : partStatus s p x.toNat = 0) :
    execPartitionWrite p x s = .next (writePart s p x.toNat) := by
  simp [execPartitionWrite, Nat.not_le.mpr hp, hst]

/-- A valid service block is written (R340). -/
theorem execServiceBlockWrite_valid {v : Nat} {x : BitVec 512} (hv : v < 64) (hst : serviceStatus s v x.toNat = 0) :
    execServiceBlockWrite v x s = .next (writeService s v x.toNat) := by
  simp [execServiceBlockWrite, Nat.not_le.mpr hv, hst]

/-! ### Tables -/

/-- The place table of a context without groups is written (R102, R103). -/
theorem execPlaceTableWrite_idle {ctx i : Nat} (x : BitVec 16) (hi : i ≤ 867) (hctx : (vdOfCtx? s ctx).isSome = true)
    (hidle : s.teams.any (fun t => t.ctx == ctx) = false) : execPlaceTableWrite ctx i x s =
      .next { s with places := mset 0 (ctx * 868 + i) (x &&& 0x801F) s.places, cpStatus := 0 } := by
  have hnone : (vdOfCtx? s ctx).isNone = false := by simpa using hctx
  simp only [execPlaceTableWrite, Nat.not_lt.mpr hi, hnone, hidle, decide_false, Bool.or_self, Bool.false_eq_true, if_false]

/-- An occupancy entry other than entry 0 is written with its context and VALID (R286). -/
theorem execOccupancyEntryWrite_entry {arm i : Nat} {x : BitVec 128} (hi : i ≤ 15) (hi0 : i ≠ 0) (harm : arm < 204)
    (hpin : bits x.toNat 41 33 ≤ 256) (hlimit : bits x.toNat 23 12 ≤ 2048) :
    let o : OccEntry := ⟨bits x.toNat 127 96, bits x.toNat 42 42 == 1, bits x.toNat 41 33, bits x.toNat 23 12⟩
    execOccupancyEntryWrite arm i x s =
      .next { updArm s arm (fun a => { a with occ := mput i o a.occ }) with cpStatus := 0 } := by
  have hok : ¬ (15 < i ∨ 204 ≤ arm ∨ 256 < bits x.toNat 41 33 ∨ 2048 < bits x.toNat 23 12) := by omega
  simp only [execOccupancyEntryWrite, hok, hi0, if_false]

/-- A valid route table is installed (R321). -/
theorem execRouteTableWrite_valid {t : List (BitVec 32)} (ht : routesValid s.module t = true) :
    execRouteTableWrite t s = .next { s with routes := t.map (· &&& routeMask), cpStatus := 0 } := by
  simp [execRouteTableWrite, ht]

/-! ### Time and registers -/

/-- `%time` is set once and not backwards (R371). -/
theorem execTimeSet_once {t : Nat} (hset : s.timeSet = false) (ht : timeNs s ≤ t) (h64 : t < 2 ^ 64) :
    execTimeSet t s = .next { s with ns := t, frac := 0, timeSet := true, cpStatus := 0 } := by
  simp only [execTimeSet, hset, Nat.not_lt.mpr ht, Nat.not_le.mpr h64, decide_false, Bool.or_self, Bool.false_eq_true, if_false]

/-- A block's owner is written (R347). -/
theorem execRegisterWrite_owner {b : Nat} (x : BitVec 8) (hb : b < blockCount) : execRegisterWrite (.owner b x) s =
    .next { s with owners := mset 0 b (x &&& 0x8F).toNat s.owners, cpStatus := 0 } := by
  simp only [execRegisterWrite, Nat.not_le.mpr hb, if_false]

/-- The base of a host queue is written (R341). -/
theorem execRegisterWrite_feBase {f : Nat} {x : BitVec 64} (hf : f < 16) (hx : x.toNat % 64 = 0) :
    execRegisterWrite (.feBase f x) s = .next { updFe s f (fun y => { y with base := x.toNat }) with cpStatus := 0 } := by
  simp [execRegisterWrite, Nat.not_le.mpr hf, hx]

/-- The size of a host queue is written where it is a power of two from 2^6 to 2^16 (R341). -/
theorem execRegisterWrite_feSize {f k : Nat} {x : BitVec 32} (hf : f < 16) (hk6 : 6 ≤ k) (hk16 : k ≤ 16)
    (hx : x.toNat = 2 ^ k) :
    execRegisterWrite (.feSize f x) s = .next { updFe s f (fun y => { y with size := 2 ^ k }) with cpStatus := 0 } := by
  have hsize : (List.range' 6 11).any (fun j => 2 ^ k == 2 ^ j) = true :=
    List.any_eq_true.mpr ⟨k, by rw [List.mem_range'_1]; omega, by simp⟩
  simp only [execRegisterWrite, hsize, hx, Nat.not_le.mpr hf, decide_false, Bool.not_true, Bool.or_self, Bool.false_eq_true,
    if_false]

/-- The highest point of a die is written (R377). -/
theorem execRegisterWrite_dieLower {d p : Nat} (hd : d < 4) (hp : p ≤ 7) : execRegisterWrite (.dieLower d p) s =
    .next { setDie s d { dieAt s d with ceiling := p } with cpStatus := 0 } := by
  simp only [execRegisterWrite, Nat.not_le.mpr hd, Nat.not_lt.mpr hp, decide_false, Bool.or_self, Bool.false_eq_true, if_false]

end

/-- Settles O39: each write tests its value and then takes effect. -/
theorem systemWritesComplete : Obligations.SystemWritesComplete := by
  refine ⟨?descriptor, ?suspend, ?unsuspend, ?partition, ?service, ?place, ?occupancy, ?routes, ?communicator, ?time, ?owner,
    ?base, ?size, ?die⟩
  case descriptor => exact fun v x s hv hst hmore => execVdDescriptorWrite_valid hv hst hmore
  case suspend => exact fun v s hvalid hsusp => execVdSuspend_running hvalid hsusp
  case unsuspend => exact fun v s => rfl
  case partition => exact fun p x s hp hst => execPartitionWrite_valid hp hst
  case service => exact fun v x s hv hst => execServiceBlockWrite_valid hv hst
  case place => exact fun ctx i x s hi hctx hidle => execPlaceTableWrite_idle x hi hctx hidle
  case occupancy => exact fun arm i x s hi hi0 harm hpin hlimit => execOccupancyEntryWrite_entry hi hi0 harm hpin hlimit
  case routes => exact fun t s ht => execRouteTableWrite_valid ht
  case communicator => exact fun p c x s => rfl
  case time => exact fun t s hset ht h64 => execTimeSet_once hset ht h64
  case owner => exact fun b x s hb => execRegisterWrite_owner x hb
  case base => exact fun f x s hf hx => execRegisterWrite_feBase hf hx
  case size => exact fun f k x s hf hk6 hk16 hx => execRegisterWrite_feSize hf hk6 hk16 hx
  case die => exact fun d p s hd hp => execRegisterWrite_dieLower hd hp

end Sys2Proof.Machine
end

section
/-!
Writes to a place table that are ignored, and what the black box keeps of them (R102, R103, R378).
-/
namespace Sys2Proof.Machine

section
variable {s : State}

/-! ### The black box -/

/-- A frozen black box takes no entry. -/
theorem boxAppend_frozen (h : s.boxFrozen = true) (code src unit ctx data : Nat) : boxAppend s code src unit ctx data = s := by
  simp [boxAppend, h]

/-- A black box with room keeps a new entry, with its code, source, context, data and time. -/
theorem boxAppend_room (hopen : s.boxFrozen = false) (hroom : s.box.length < 4096) (code src unit ctx data : Nat) :
    ∃ e ∈ (boxAppend s code src unit ctx data).box,
      e.code = code ∧ e.src = src ∧ e.ctx = ctx ∧ e.data = data ∧ e.time = timeNs s := by
  simp only [boxAppend, hopen, Bool.false_eq_true, if_false]
  generalize hold : s.box.length - (s.boxSeq - s.boxBoot).toNat = old
  have hkept := (s.box.drop old).length_eq_length_filter_add (fun x => x.time == timeNs s && decide (src < x.src))
  rw [List.length_drop] at hkept
  rw [Nat.sub_eq_zero_of_le, List.drop_zero]
  · exact ⟨_, List.mem_append_right _ List.mem_cons_self, rfl, rfl, rfl, rfl, rfl⟩
  · simp only [List.length_append, List.length_take, List.length_cons, List.length_map]
    omega

/-! ### Refusals -/

/-- While teams of the context stand, the write sets the status and enters the black box, and changes nothing else (R103). -/
theorem execPlaceTableWrite_resident {ctx i : Nat} (x : BitVec 16) (hi : i ≤ 867) (hctx : (vdOfCtx? s ctx).isSome = true)
    (hteams : s.teams.any (fun t => t.ctx == ctx) = true) :
    execPlaceTableWrite ctx i x s = .next { boxAppend s 0x51 (placeDie i) 0 ctx i with cpStatus := 1 } := by
  have hnone : (vdOfCtx? s ctx).isNone = false := by simpa using hctx
  simp only [execPlaceTableWrite, Nat.not_lt.mpr hi, hnone, hteams, decide_false, Bool.or_self, Bool.false_eq_true, if_false,
    if_true]

/-- An index above 867 or an unknown context sets the status alone (R102, R103). -/
theorem execPlaceTableWrite_unknown {ctx i : Nat} (x : BitVec 16) (h : 867 < i ∨ vdOfCtx? s ctx = none) :
    execPlaceTableWrite ctx i x s = .next { s with cpStatus := 1 } := by
  have hbad : (decide (867 < i) || (vdOfCtx? s ctx).isNone) = true := by simpa using h
  simp only [execPlaceTableWrite, hbad, if_true]

end

/-- Settles O57: a refused write changes the status and, where the context has resident groups, the black box. -/
theorem placeTableRefusals : Obligations.PlaceTableRefusals := by
  constructor
  · intro ctx i x s hi hctx hteams
    obtain ⟨b, q, hbox⟩ := boxAppend_eq s 0x51 (placeDie i) 0 ctx i
    refine ⟨_, execPlaceTableWrite_resident x hi hctx hteams, ?places, Nat.one_ne_zero, ?groups, ?teams, ?mem, rfl,
      fun h => ?frozen, fun hopen hroom => boxAppend_room hopen hroom 0x51 (placeDie i) 0 ctx i⟩
    case frozen => rw [boxAppend_frozen h]
    all_goals rw [hbox]
  · exact fun ctx i x s h =>
      ⟨_, execPlaceTableWrite_unknown x h, rfl, Nat.one_ne_zero, rfl, rfl, rfl, rfl⟩

end Sys2Proof.Machine
end

section
/-!
Scalar instructions (R123 to R127, R141, R153, R157): each writes sD, or a special register, with a value of what it reads.
-/
namespace Sys2Proof.Machine

section
variable {own : Verdict} {lat : Nat} {c : Ctx} {s : State}

/-- A write of the scalar destination is a scalar result (R73). -/
theorem act_of_scWrite {v : Ctx → State → DWord} (h : own = scWrite c lat (v c s) s) : own = .act (scalarEff lat v c s) := h

/-- An operation on the values of A and B writes its result in the instruction's type (R123). -/
theorem act_of_scOp2 {op : Ctx → Int → Int → Int} (h : own = scOp2 lat (op c) c s) : own = .act (intEff lat op c s) :=
  act_of_scWrite (v := fun c s => scExtend c.f.ty.toNat (op c (scVal s c 1) (scVal s c 2))) h

/-- An operation on the patterns of A and B writes its result in the instruction's type (R123). -/
theorem act_of_scBits2 {op : Ctx → Nat → Nat → Nat} (h : own = scBits2 (op c) c s) : own = .act (bitEff op c s) :=
  act_of_scWrite (v := fun c s => scExtend c.f.ty.toNat (op c (scNat s c 1) (scNat s c 2))) h

/-! ### `sspr` with a value within its register's limits (R127) -/

theorem ownSspr_seed (hd : c.f.d = 0x49) : ownSspr c s = .act (writeAt s c 2 (.sp 0x49 (srcS s c 1))) := by
  rw [ownSspr, hd]
  rfl

theorem ownSspr_mcap_within (hd : c.f.d = 0x46) (hlo : 1 ≤ (srcS s c 1).toNat) (hhi : (srcS s c 1).toNat ≤ 255) :
    ownSspr c s = .act (writeAt s c 2 (.sp 0x46 (srcS s c 1))) := by
  rw [ownSspr, hd]
  exact if_pos ⟨hlo, hhi⟩

theorem ownSspr_mres_within (hd : c.f.d = 0x47) (hx : resOk ((srcS s c 1).setWidth 32) = true) : ownSspr c s =
    .act (writeAt s c 2 (.sp 0x47 (if (srcS s c 1).setWidth 32 == (0x80000000 : Word) then 0
      else ((srcS s c 1).setWidth 32).setWidth 64))) := by
  rw [ownSspr, hd]
  exact if_pos hx

end

/-- Settles O1: the own effect of each scalar arithmetic instruction is an operation on the values or on the patterns of its
two sources. -/
theorem scalarArithmeticCompletes : Obligations.ScalarArithmeticCompletes := by
  refine ⟨?sadd, ?ssub, ?smul, ?smulh, ?sand, ?sor, ?sxor, ?sshl, ?sshr, ?smin, ?smax, ?sdiv, ?srem, ?smov⟩
  case sadd | ssub | smul | smin | smax | smov =>
    exact completesBoth_of_own (fun _ => rfl) (fun _ => rfl) fun _ _ _ => act_of_scOp2 rfl
  case smulh | sdiv | srem => exact completesExt_of_own (fun _ => rfl) fun _ _ _ => act_of_scOp2 rfl
  case sand | sor | sxor | sshl =>
    exact completesBoth_of_own (fun _ => rfl) (fun _ => rfl) fun _ _ _ => act_of_scBits2 rfl
  case sshr => exact completesBoth_of_own (fun _ => rfl) (fun _ => rfl) fun _ _ _ => act_of_scWrite rfl

/-- Settles O2: the own effect of each of these instructions writes sD, but for `sspr`, which writes a special register. -/
theorem scalarRestCompletes : Obligations.ScalarRestCompletes := by
  refine ⟨?sclz, ?spopc, ?scmp, ?ssel, ?slea, ?sbfe, ?sbfi, ?seed, ?mcap, ?mres, ?gstat, ?scvt, ?vballot, ?vext, ?vred⟩
  case sclz | spopc | scmp | ssel | slea | sbfe | sbfi | vballot | vred =>
    exact completesBoth_of_own (fun _ => rfl) (fun _ => rfl) fun _ _ _ => act_of_scWrite rfl
  case gstat | scvt | vext => exact completesExt_of_own (fun _ => rfl) fun _ _ _ => act_of_scWrite rfl
  case seed => exact completesExt_of_own (fun _ => rfl) fun _ _ hd => ownSspr_seed hd
  case mcap => exact completesExt_of_own (fun _ => rfl) fun _ _ ⟨hd, hlo, hhi⟩ => ownSspr_mcap_within hd hlo hhi
  case mres => exact completesExt_of_own (fun _ => rfl) fun _ _ ⟨hd, hx⟩ => ownSspr_mres_within hd hx

end Sys2Proof.Machine
end

section
/-!
Branches, calls and returns (R111 to R115), and the group-control instructions (R116 to R122) with their faults in and out of
callee slots (R121).
-/
namespace Sys2Proof.Machine

section
variable {c : Ctx} {s : State}

theorem ownExit_of_group (h : c.g.callee = false) : ownExit c s = .act (exitLanes c s) := if_neg (by simp [h])

theorem ownExit_of_callee (h : c.g.callee = true) : ownExit c s = .raise 0x13 2 c.sel 0 := if_pos h

theorem ownRetv_of_callee (h : c.g.callee = true) : ownRetv c s = .act (returnLanes c s) := if_neg (by simp [h])

theorem ownRetv_of_group (h : c.g.callee = false) : ownRetv c s = .raise 0x13 1 c.sel 0 := if_pos (by simp [h])

theorem ownCallv_of_callee (h : c.g.callee = true) : ownCallv c s = .raise 0x11 0 c.sel 0 := if_pos h

theorem ownCallv_with_callees {t : Team} (h : c.g.callee = false) (ht : teamAt? s c.g.team = some t) (hn : t.callees ≠ []) :
    ownCallv c s = .act (callLanes c s) := by
  simp [ownCallv, h, ht, hn]

theorem ownCallv_no_callees {t : Team} (h : c.g.callee = false) (ht : teamAt? s c.g.team = some t) (hn : t.callees = []) :
    ownCallv c s = .raise 0x12 0 c.sel 0 := by
  simp [ownCallv, h, ht, hn]

/-- `migrate` of a group whose one split holds all 32 lanes with no deferred arm (R101). -/
theorem ownMigrate_whole (hsplits : c.g.splits.length = 1) (hmask : c.sp.mask = 0xFFFFFFFF) (harms : c.sp.arms = []) :
    ownMigrate c s = .act (beginMigrate c s) :=
  if_neg (by simp [hsplits, hmask, harms])

end

/-- Settles O3: none of these instructions has a condition of its own. -/
theorem branchesComplete : Obligations.BranchesComplete := by
  refine ⟨?nop, ?br, ?brZ, ?brNz, ?brLz, ?brGez, ?brAny, ?brAll, ?brx, ?ret, ?call, ?callx⟩
  case nop | br | brZ | brNz | brLz | brGez | brx | ret | call | callx =>
    exact completesBoth_of_own (fun _ => rfl) (fun _ => rfl) fun _ _ _ => rfl
  case brAny | brAll => exact completesExt_of_own (fun _ => rfl) fun _ _ _ => rfl

/-- Settles O4: `exit`, `callv`, `retv` and `migrate` test where they stand before they act. -/
theorem groupControlCompletes : Obligations.GroupControlCompletes := by
  refine ⟨?exit, ?yield, ?split, ?sleep, ?callv, ?retv, ?migrate⟩
  case exit => exact completesBoth_of_own (fun _ => rfl) (fun _ => rfl) fun _ _ h => ownExit_of_group h
  case yield | split => exact completesBoth_of_own (fun _ => rfl) (fun _ => rfl) fun _ _ _ => rfl
  case sleep => exact completesExt_of_own (fun _ => rfl) fun _ _ _ => rfl
  case callv => exact completesExt_of_own (fun _ => rfl) fun _ _ ⟨h, _, ht, hn⟩ => ownCallv_with_callees h ht hn
  case retv => exact completesExt_of_own (fun _ => rfl) fun _ _ h => ownRetv_of_callee h
  case migrate =>
    exact completesExt_of_own (fun _ => rfl) fun _ _ ⟨hsplits, hmask, harms⟩ => ownMigrate_whole hsplits hmask harms

/-- Settles O41: the same tests of `callv`, `retv` and `exit` raise the faults of R121 and R100. -/
theorem callFaults : Obligations.CallFaults := by
  refine ⟨fun f => ?nested, fun f => ?absent, fun f => ?retv, fun f => ?exit, fun f => ?exitExt⟩
  case nested => exact raises_of_own rfl fun _ _ h => ownCallv_of_callee h
  case absent => exact raises_of_own rfl fun _ _ ⟨h, _, ht, hn⟩ => ownCallv_no_callees h ht hn
  case retv => exact raises_of_own rfl fun _ _ h => ownRetv_of_group h
  case exit | exitExt => exact raises_of_own rfl fun _ _ h => ownExit_of_callee h

end Sys2Proof.Machine
end

section
/-!
Barrier instructions (R129, R130, R133) and their faults.
-/
namespace Sys2Proof.Machine

section
variable {c : Ctx} {s : State}

/-! ### What each barrier instruction answers -/

/-- A callee slot takes part in no barrier (R128). -/
theorem barCheck_of_callee (h : c.g.callee = true) : barCheck s c = some 0x0C := if_pos h

section
variable {b : Bool} (h : barCheck s c = none)
include h

theorem ownArrive_acts (harv : (bitsNow s c (barKey c)).arv = false) (hdrop : (bitsNow s c (barKey c)).drop = false) :
    ownArrive b c s = .act (arriveAtBar b c s) := by
  simp [ownArrive, h, harv, hdrop]

theorem ownArrive_again (harv : (bitsNow s c (barKey c)).arv = true) : ownArrive b c s = .raise 0x0C 0 c.sel 0 := by
  simp [ownArrive, h, harv]

theorem ownArrive_dropped (harv : (bitsNow s c (barKey c)).arv = false) (hdrop : (bitsNow s c (barKey c)).drop = true) :
    ownArrive b c s = .raise 0x0D 0 c.sel 0 := by
  simp [ownArrive, h, harv, hdrop]

theorem ownBarWait_passes (harv : (bitsNow s c (barKey c)).arv = true)
    (hphase : barPhase s c.g (barKey c) ≠ (bitsNow s c (barKey c)).aph) : ownBarWait c s = .act (passBar c s) := by
  simp [ownBarWait, h, harv, hphase]

theorem ownBarWait_not_arrived (harv : (bitsNow s c (barKey c)).arv = false) : ownBarWait c s = .raise 0x0C 0 c.sel 0 := by
  simp [ownBarWait, h, harv]

theorem ownBarDrop_acts (hdrop : (bitsNow s c (barKey c)).drop = false) : ownBarDrop c s = .act (dropFromBar c s) := by
  simp [ownBarDrop, h, hdrop]

theorem ownBarDrop_dropped (hdrop : (bitsNow s c (barKey c)).drop = true) : ownBarDrop c s = .raise 0x0D 0 c.sel 0 := by
  simp [ownBarDrop, h, hdrop]

end

section
variable {b : Bool} (h : c.g.callee = true)
include h

theorem ownArrive_of_callee : ownArrive b c s = .raise 0x0C 0 c.sel 0 := by simp [ownArrive, barCheck_of_callee h]

theorem ownBarWait_of_callee : ownBarWait c s = .raise 0x0C 0 c.sel 0 := by simp [ownBarWait, barCheck_of_callee h]

theorem ownBarDrop_of_callee : ownBarDrop c s = .raise 0x0C 0 c.sel 0 := by simp [ownBarDrop, barCheck_of_callee h]

theorem ownBarTest_of_callee : ownBarTest c s = .raise 0x0C 0 c.sel 0 := if_pos h

theorem ownBarAdd_of_callee : ownBarAdd c s = .raise 0x0C 0 c.sel 0 := if_pos h

end

theorem ownBarTest_of_group (h : c.g.callee = false) : ownBarTest c s = .act (scalarEff 2 (fun c s =>
    barWord (teamBar s c.g.team c.f.sa.toNat) (barBits c.g c.f.sa.toNat)) c s) :=
  if_neg (by simp [h])

/-- Bytes that keep PEND in its range are added (R29, R133). -/
theorem ownBarAdd_within (h : c.g.callee = false)
    (hp : (addPend s c.g.team c.f.d.toNat (intOf true 32 (srcS s c 1).toNat)).isSome) :
    ownBarAdd c s = .act (finishAt ((addPend s c.g.team c.f.d.toNat (intOf true 32 (srcS s c 1).toNat)).getD s) c 1) := by
  obtain ⟨t, ht⟩ := Option.isSome_iff_exists.mp hp
  simp [ownBarAdd, h, ht]

/-! ### The group's bits after a drop -/

@[simp] theorem finishAt_groups (s : State) (c : Ctx) (lat : Nat) : (finishAt s c lat).groups = s.groups := by
  unfold finishAt; split <;> rfl

@[simp] theorem withOuter_groups (s : State) (g : Group) (key : Nat) : (withOuter s g key).groups = s.groups := by
  unfold withOuter; dsimp only; split <;> rfl

@[simp] theorem updBar_groups (s : State) (team b : Nat) (f : TeamBar → TeamBar) : (updBar s team b f).groups = s.groups := rfl

@[simp] theorem updOuter_groups (s : State) (g : Group) (key : Nat) (f : OuterBar → OuterBar) :
    (updOuter s g key f).groups = s.groups := withOuter_groups s g key

@[simp] theorem arriveNow_groups (c : Ctx) (key : Nat) (s : State) : (arriveNow c key s).groups = s.groups := rfl

/-- A drop changes the groups by their bits alone: the counts of barriers and the arrival that it makes stand elsewhere. -/
theorem dropFromBar_groups (c : Ctx) (s : State) : (dropFromBar c s).groups =
    (setBits s c (barKey c) ⟨false, (bitsNow s c (barKey c)).aph, true⟩).groups := by
  simp [dropFromBar]

/-- The bits that a group has written for a barrier are what the group then finds. -/
theorem bitsNow_setBits {g : Group} (hg : groupAt? s c.g.uid = some g) (key : Nat) (b : BarBits) :
    bitsNow (setBits s c key b) c key = b := by
  rw [bitsNow, setBits, groupAt_updGroup_some (f := fun g => setBarBits g key b) hg fun _ => rfl]
  exact mget_mset _ b g.bars

/-- A drop clears ARV and sets DROP (R129). -/
theorem bitsNow_dropFromBar {g : Group} (hg : groupAt? s c.g.uid = some g) :
    bitsNow (dropFromBar c s) c (barKey c) = ⟨false, (bitsNow s c (barKey c)).aph, true⟩ := by
  rw [← bitsNow_setBits hg (barKey c) ⟨false, (bitsNow s c (barKey c)).aph, true⟩]
  unfold bitsNow groupAt?
  rw [dropFromBar_groups]
  rfl

end

/-- Settles O5: each barrier instruction tests the group's bits before it acts. -/
theorem barriersComplete : Obligations.BarriersComplete := by
  refine ⟨?arrive, ?sync, ?wait, ?drop, ?test, ?add⟩
  case arrive | sync =>
    exact completesBoth_of_own (fun _ => rfl) (fun _ => rfl) fun _ _ ⟨h, harv, hdrop⟩ => ownArrive_acts h harv hdrop
  case wait =>
    exact completesBoth_of_own (fun _ => rfl) (fun _ => rfl) fun _ _ ⟨h, harv, hphase⟩ => ownBarWait_passes h harv hphase
  case drop => exact completesBoth_of_own (fun _ => rfl) (fun _ => rfl) fun _ _ ⟨h, hdrop⟩ => ownBarDrop_acts h hdrop
  case test => exact completesExt_of_own (fun _ => rfl) fun _ _ h => ownBarTest_of_group h
  case add => exact completesExt_of_own (fun _ => rfl) fun _ _ ⟨h, hp⟩ => ownBarAdd_within h hp

/-- Settles O42: the tests raise the faults of R130, in the base and in the extended form. -/
theorem barrierFaults : Obligations.BarrierFaults := by
  refine ⟨fun f => ?arrive, fun f => ?arriveX, fun f => ?sync, fun f => ?syncX, fun f => ?wait, fun f => ?waitX,
    fun f => ?arriveCallee, fun f => ?arriveCalleeX, fun f => ?syncCallee, fun f => ?syncCalleeX, fun f => ?waitCallee,
    fun f => ?waitCalleeX, fun f => ?dropCallee, fun f => ?dropCalleeX, fun f => ?testCallee, fun f => ?addCallee,
    fun f => ?arriveOver, fun f => ?arriveOverX, fun f => ?syncOver, fun f => ?syncOverX, fun f => ?dropOver,
    fun f => ?dropOverX, fun c s g hg => bitsNow_dropFromBar hg⟩
  case arrive | arriveX | sync | syncX => exact raises_of_own rfl fun _ _ ⟨h, harv⟩ => ownArrive_again h harv
  case wait | waitX => exact raises_of_own rfl fun _ _ ⟨h, harv⟩ => ownBarWait_not_arrived h harv
  case arriveCallee | arriveCalleeX | syncCallee | syncCalleeX => exact raises_of_own rfl fun _ _ h => ownArrive_of_callee h
  case waitCallee | waitCalleeX => exact raises_of_own rfl fun _ _ h => ownBarWait_of_callee h
  case dropCallee | dropCalleeX => exact raises_of_own rfl fun _ _ h => ownBarDrop_of_callee h
  case testCallee => exact raises_of_own rfl fun _ _ h => ownBarTest_of_callee h
  case addCallee => exact raises_of_own rfl fun _ _ h => ownBarAdd_of_callee h
  case arriveOver | arriveOverX | syncOver | syncOverX =>
    exact raises_of_own rfl fun _ _ ⟨h, harv, hdrop⟩ => ownArrive_dropped h harv hdrop
  case dropOver | dropOverX => exact raises_of_own rfl fun _ _ ⟨h, hdrop⟩ => ownBarDrop_dropped h hdrop

end Sys2Proof.Machine
end

section
/-!
Ring instructions (R134 to R136).
-/
namespace Sys2Proof.Machine

section
variable {c : Ctx} {s : State}

/-- A push of values for which the ring has room puts them in (R134). -/
theorem pushValues_of_ringFits {xs : List Word} (h : ringFits xs.length c s) : pushValues c s xs = .act (pushInto c s xs) := by
  obtain ⟨r, hr, hroom, hshut, hx⟩ := h
  have hdepth : ¬ r.depth < xs.length := by omega
  have hstart : ¬ r.depth < r.start + xs.length := by omega
  have hserved : ¬ r.depth < r.start + r.pushed + xs.length := by omega
  simp only [pushValues, hr, hx, hdepth, hstart, hshut, hserved, if_false, Bool.false_eq_true]

/-- A pop of entries that the ring holds takes them out (R134). -/
theorem popValues_of_ringHolds {n : Nat} (h : ringHolds n c s) : popValues c s n = .act (popEff n c s) := by
  obtain ⟨r, hr, hserved, hdepth, hshut⟩ := h
  have hstart : ¬ r.start < n := by omega
  simp only [popValues, popEff, hr, hshut, hstart, Nat.not_lt.mpr hdepth, Nat.not_lt.mpr hserved, if_false, Bool.false_eq_true]

/-- `qpeek` of a ring that held an entry at the start of the clk gives the oldest (R136). -/
theorem ownQpeek_of_entry {r : Ring} (hr : ringOf? s c.g.team c.f.sa.toNat = some r) (hn : r.start ≠ 0) :
    ownQpeek c s = .act (scalarEff 2 (fun c s =>
      (((ringOf? s c.g.team c.f.sa.toNat).map ringOldest).getD 0).setWidth 64) c s) := by
  simp only [ownQpeek, scalarEff, scWrite, hr, hn, if_false, Option.map_some, Option.getD_some]

end

/-- Settles O6: a push and a pop judge the ring by its header and the requests served since, and then move it. -/
theorem ringsComplete : Obligations.RingsComplete := by
  refine ⟨?qpush, ?qpushn, ?qpop, ?qpopn, ?qlen, ?qpeek⟩
  case qpush => exact completesBoth_of_own (fun _ => rfl) (fun _ => rfl) fun _ _ h => pushValues_of_ringFits h
  case qpushn => exact completesExt_of_own (fun _ => rfl) fun _ _ h => pushValues_of_ringFits (by simpa using h)
  case qpop => exact completesBoth_of_own (fun _ => rfl) (fun _ => rfl) fun _ _ h => popValues_of_ringHolds h
  case qpopn => exact completesExt_of_own (fun _ => rfl) fun _ _ h => popValues_of_ringHolds h
  case qlen => exact completesExt_of_own (fun _ => rfl) fun _ _ _ => act_of_scWrite rfl
  case qpeek => exact completesExt_of_own (fun _ => rfl) fun _ _ ⟨_, hr, hn⟩ => ownQpeek_of_entry hr hn

end Sys2Proof.Machine
end

section
/-!
Traps, regions, trace and event instructions and device-side launches (R137 to R141).
-/
namespace Sys2Proof.Machine

/-- `rgn` in a group of one split without deferred arms (R140). -/
theorem ownRgn_whole {c : Ctx} {sp : Split} (hsplits : c.g.splits = [sp]) (harms : sp.arms = []) (s : State) :
    ownRgn c s = .act (enterRegion c s) := by
  simp [ownRgn, hsplits, harms]

/-- Settles O12: but for `rgn` none of these instructions has a condition of its own. -/
theorem systemCompletes : Obligations.SystemCompletes := by
  refine ⟨?trap, ?brk, ?rgn, ?mark, ?evt, ?opt, ?prio, ?launch, ?launchWait⟩
  case trap | brk | mark | evt | opt | prio | launch | launchWait => exact completesExt_of_own (fun _ => rfl) fun _ _ _ => rfl
  case rgn => exact completesExt_of_own (fun _ => rfl) fun _ s ⟨_, hsplits, harms⟩ => ownRgn_whole hsplits harms s

end Sys2Proof.Machine
end

section
/-!
Results of scalar arithmetic (R123): the result modulo 2^N and its extension, and the corners of shifts and divisions.
-/
namespace Sys2Proof.Machine

/-! ### Extension to 64 bits -/

/-- The value of a pattern of N bits, read as unsigned and as signed (R39). -/
theorem intOf_false_toNat {n : Nat} (x : BitVec n) : intOf false n x.toNat = x.toNat := by
  simp [intOf]

theorem intOf_true_toNat {n : Nat} (hn : 0 < n) (x : BitVec n) : intOf true n x.toNat = x.toInt := by
  have hhalf : 2 ^ n = 2 * 2 ^ (n - 1) := by rw [← Nat.pow_succ', Nat.succ_eq_add_one, Nat.sub_add_cancel hn]
  have hmax : x.toNat ≥ 2 ^ (n - 1) ↔ ¬ 2 * x.toNat < 2 ^ n := by omega
  rw [intOf, BitVec.toInt_eq_toNat_cond, Nat.mod_eq_of_lt x.isLt]
  simp only [hmax, hn, Bool.true_and, decide_true, Bool.and_true, decide_eq_true_eq, ite_not, Nat.cast_pow, Nat.cast_ofNat]

theorem wrapN_eq_toNat (n : Nat) (z : Int) : wrapN n z = (BitVec.ofInt n z).toNat := by
  rw [wrapN, BitVec.toNat_ofInt]
  norm_cast

/-- A result of a signed type is sign-extended. -/
theorem scExtend_signed {t : Nat} (ht : tySigned t = true) (hn : 0 < tyWidth t) (z : Int) :
    scExtend t z = (BitVec.ofInt (tyWidth t) z).signExtend 64 := by
  rw [scExtend, ht, wrapN_eq_toNat, intOf_true_toNat hn]
  rfl

/-- A result of an unsigned type is zero-extended. -/
theorem scExtend_unsigned {t : Nat} (ht : tySigned t = false) (z : Int) :
    scExtend t z = (BitVec.ofInt (tyWidth t) z).setWidth 64 := by
  rw [scExtend, ht, wrapN_eq_toNat, intOf_false_toNat, BitVec.ofInt_natCast, BitVec.ofNat_toNat]

theorem tyWidth_le (t : Nat) : tyWidth t ≤ 64 := by
  unfold tyWidth
  split <;> decide

/-- Whatever its type, a result has the low N bits of the exact result. -/
theorem getLsbD_scExtend {t k : Nat} (hk : k < tyWidth t) (z : Int) :
    (scExtend t z).getLsbD k = (BitVec.ofInt (tyWidth t) z).getLsbD k := by
  have hk64 : k < 64 := Nat.lt_of_lt_of_le hk (tyWidth_le t)
  cases ht : tySigned t with
  | true => rw [scExtend_signed ht (by omega), BitVec.getLsbD_signExtend]; simp [hk, hk64]
  | false => rw [scExtend_unsigned ht, BitVec.getLsbD_setWidth]; simp [hk64]

theorem ofInt_neg_one (n : Nat) : BitVec.ofInt n (-1) = BitVec.allOnes n := by
  rw [BitVec.ofInt_neg, ← BitVec.neg_one_eq_allOnes]
  exact congrArg _ (BitVec.ofInt_natCast n 1)

/-! ### Shifts -/

theorem scShl_of_le {n a b : Nat} (h : n ≤ b) : scShl n a b = 0 := if_neg (by omega)

theorem scShl_of_lt {n a b : Nat} (h : b < n) : scShl n a b = a * 2 ^ b := if_pos h

/-- A shift to the right by N or more leaves copies of the sign. -/
theorem scShr_of_le {n b : Nat} {a : Int} (h : n ≤ b) (hlo : -(2 ^ n) ≤ a) (hhi : a < 2 ^ n) :
    scShr n a b = if a < 0 then -1 else 0 := by
  rw [scShr, Nat.min_eq_right h, Int.fdiv_eq_ediv_of_nonneg a (by positivity)]
  split
  next hneg => exact Int.ediv_eq_neg_one_of_neg_of_le hneg (by omega)
  next hpos => exact Int.ediv_eq_zero_of_lt (by omega) hhi

/-! ### Division -/

theorem scDiv_zero (a : Int) : scDiv a 0 = -1 := if_pos rfl

theorem scRem_zero (a : Int) : scRem a 0 = a := if_pos rfl

theorem scRem_neg_one (a : Int) : scRem a (-1) = 0 := by
  rw [scRem, if_neg (by decide), Int.tmod_neg, Int.tmod_one]

section
variable {a b : Int} (hb : b ≠ 0)
include hb

theorem scDiv_of_ne_zero : scDiv a b = a.tdiv b := if_neg hb

theorem scRem_of_ne_zero : scRem a b = a.tmod b := if_neg hb

theorem scDiv_scRem : a = b * scDiv a b + scRem a b := by
  rw [scDiv_of_ne_zero hb, scRem_of_ne_zero hb, Int.mul_tdiv_add_tmod]

theorem natAbs_scRem_lt : (scRem a b).natAbs < b.natAbs := by
  rw [scRem_of_ne_zero hb, Int.natAbs_tmod]
  exact Nat.mod_lt _ (Int.natAbs_pos.mpr hb)

/-- The remainder has the sign of the dividend, as the quotient is truncated toward zero. -/
theorem scRem_nonneg (ha : 0 ≤ a) : 0 ≤ scRem a b := by
  rw [scRem_of_ne_zero hb]
  exact Int.tmod_nonneg b ha

theorem scRem_nonpos (ha : a ≤ 0) : scRem a b ≤ 0 := by
  have h := Int.tmod_nonneg b (Int.neg_nonneg_of_nonpos ha)
  rw [Int.neg_tmod] at h
  rw [scRem_of_ne_zero hb]
  omega

end

/-- A quotient by zero is all ones in each type. -/
theorem getLsbD_scExtend_scDiv_zero {t k : Nat} (hk : k < tyWidth t) (a : Int) :
    (scExtend t (scDiv a 0)).getLsbD k = true := by
  rw [scDiv_zero, getLsbD_scExtend hk, ofInt_neg_one, BitVec.getLsbD_allOnes]
  exact decide_eq_true hk

/-- Settles O46: the wrapped result is a pattern of N bits, which its type's signedness extends; shifts and divisions are those of
the integers but for their corners. -/
theorem scalarResults : Obligations.ScalarResults := by
  refine ⟨fun z => ⟨?s8, ?s16, ?s32, ?s64, ?n8, ?n16, ?n32, ?n64⟩, fun n a b h => scShl_of_le h, fun n a b h => scShl_of_lt h,
    fun n a b h hlo hhi => scShr_of_le h hlo hhi, fun t _ a k hk => getLsbD_scExtend_scDiv_zero hk a, scRem_zero,
    ?minimum, scRem_neg_one,
    fun a b hb => ⟨scDiv_scRem hb, natAbs_scRem_lt hb, fun ha => scRem_nonneg hb ha, fun ha => scRem_nonpos hb ha⟩⟩
  case s8 | s16 | s32 => exact scExtend_signed rfl (by decide) z
  case s64 => exact (scExtend_signed rfl (by decide) z).trans (BitVec.signExtend_eq _)
  case n8 | n16 | n32 => exact scExtend_unsigned rfl z
  case n64 => exact (scExtend_unsigned rfl z).trans (BitVec.setWidth_eq _)
  case minimum => decide

end Sys2Proof.Machine
end

section
/-!
Bytes of memory at an issue (R163, R166): no instruction but `mark` writes one, and `mark` writes its record alone (R141, R340).
-/
namespace Sys2Proof.Machine

/-! ### A write at the home front (R193, R340) -/

theorem delReq_mem (s : State) (r : Nat) : (delReq s r).mem = s.mem := rfl

theorem updVd_mem (s : State) (v : Nat) (f : VdSt → VdSt) : (updVd s v f).mem = s.mem := rfl

theorem mem_listUpd {α : Type} {p : α → Bool} {f : α → α} {l : List α} {x : α} (h : x ∈ listUpd p f l) :
    x ∈ l ∨ ∃ y ∈ l, p y = true ∧ x = f y := by
  induction l with
  | nil => exact .inl h
  | cons y l ih =>
    unfold listUpd at h
    split at h
    next hy =>
      rcases List.mem_cons.mp h with rfl | h
      · exact .inr ⟨y, List.mem_cons_self, hy, rfl⟩
      · exact .inl (List.mem_cons_of_mem _ h)
    next =>
      rcases List.mem_cons.mp h with rfl | h
      · exact .inl List.mem_cons_self
      · rcases ih h with h | ⟨z, hz, hp, rfl⟩
        · exact .inl (List.mem_cons_of_mem _ h)
        · exact .inr ⟨z, List.mem_cons_of_mem _ hz, hp, rfl⟩

/-- A byte is put with those of its line, or begins a line of its own. -/
def addToLine (lines : List (Nat × List (Nat × Byte))) (b : Nat × Byte) : List (Nat × List (Nat × Byte)) :=
  match lines.find? (fun q => q.1 == b.1 / 128) with
  | none => lines ++ [(b.1 / 128, [(b.1 % 128, b.2)])]
  | some _ => listUpd (fun q => q.1 == b.1 / 128) (fun q => (q.1, q.2 ++ [(b.1 % 128, b.2)])) lines

/-- Bytes that are sorted into lines, with their places in the lines, are bytes of a list. -/
def LinesFrom (bs : List (Nat × Byte)) (lines : List (Nat × List (Nat × Byte))) : Prop :=
  ∀ q ∈ lines, ∀ p ∈ q.2, ∃ b ∈ bs, b.1 / 128 = q.1 ∧ b.1 % 128 = p.1

theorem LinesFrom.addToLine {bs : List (Nat × Byte)} {lines : List (Nat × List (Nat × Byte))} (h : LinesFrom bs lines)
    {b : Nat × Byte} (hb : b ∈ bs) : LinesFrom bs (addToLine lines b) := by
  intro q hq p hp
  unfold Machine.addToLine at hq
  split at hq
  · rcases List.mem_append.mp hq with hq | hq
    · exact h q hq p hp
    · obtain rfl := List.mem_singleton.mp hq
      obtain rfl := List.mem_singleton.mp hp
      exact ⟨b, hb, rfl, rfl⟩
  · rcases mem_listUpd hq with hq | ⟨x, hx, hline, rfl⟩
    · exact h q hq p hp
    · rcases List.mem_append.mp hp with hp | hp
      · exact h x hx p hp
      · obtain rfl := List.mem_singleton.mp hp
        exact ⟨b, hb, (beq_iff_eq.mp hline).symm, rfl⟩

theorem linesFrom_foldl (bs : List (Nat × Byte)) : LinesFrom bs (bs.foldl addToLine []) :=
  List.foldlRecOn bs addToLine (fun _ hq => absurd hq List.not_mem_nil) fun _ h _ hb => h.addToLine hb

/-- A loop whose every turn leaves a byte of memory as it was leaves it as it was. -/
theorem readByte_foldl {α : Type} {f : State → α → State} {a : Nat} {l : List α}
    (h : ∀ x ∈ l, ∀ s, readByte (f s x).mem a = readByte s.mem a) (s : State) :
    readByte (l.foldl f s).mem a = readByte s.mem a :=
  List.foldlRecOn (motive := fun t : State => readByte t.mem a = readByte s.mem a) l f rfl
    fun t ht x hx => (h x hx t).trans ht

theorem readByte_performWrite_ne {r : Req} {bs : List (Nat × Byte)} {a : Nat}
    (h : ∀ p ∈ bs, 128 * localLine r.line + p.1 ≠ a) (s : State) (arm : Nat) (deep : Bool) :
    readByte (performWrite s arm r bs deep).mem a = readByte s.mem a := by
  have hmem : (performWrite s arm r bs deep).mem = writeLine s.mem (localLine r.line) bs := by simp [performWrite]
  rw [hmem, writeLine]
  refine readByte_writeBytes_ne _ _ fun q hq => ?_
  obtain ⟨p, hp, rfl⟩ := List.mem_map.mp hq
  exact h p hp

/-- A line of this module and a place in it give an address of the module. -/
theorem localLine_addr (m b : Nat) : 128 * localLine (m * 2 ^ 41 + b / 128) + b % 128 = b % 2 ^ 48 := by
  unfold localLine
  omega

theorem mem_bytesAt {pa : Nat} {bs : List Byte} {b : Nat × Byte} (h : b ∈ bytesAt pa bs) : ∃ k < bs.length, b.1 = pa + k := by
  obtain ⟨k, hk, rfl⟩ := List.mem_iff_getElem.mp h
  simp only [bytesAt, List.length_zipWith, List.length_range, Nat.min_self] at hk
  exact ⟨k, hk, by simp [bytesAt]⟩

/-- A write at the home front leaves the bytes at all other addresses. -/
theorem readByte_directWrite_ne {pa a : Nat} {bs : List Byte} (h : ∀ k < bs.length, a ≠ (pa + k) % 2 ^ 48) (s : State)
    (part : Nat) : readByte (directWrite s part pa bs).mem a = readByte s.mem a := by
  unfold directWrite
  refine readByte_foldl (fun q hq st => ?_) s
  have hne : ∀ p ∈ q.2, 128 * localLine (s.module * 2 ^ 41 + q.1) + p.1 ≠ a := by
    intro p hp
    obtain ⟨b, hb, hline, hplace⟩ := linesFrom_foldl (bytesAt pa bs) q hq p hp
    obtain ⟨k, hk, haddr⟩ := mem_bytesAt hb
    rw [← hline, ← hplace, localLine_addr, haddr]
    exact (h k hk).symm
  dsimp only
  split
  · simp [newId]
  · rw [delReq_mem, readByte_performWrite_ne]
    · rfl
    · exact hne

/-! ### `mark` -/

theorem length_traceRecord (s : State) (c : Ctx) : (traceRecord s c).length = 32 := by
  simp [traceRecord, length_leBytes]

/-- `mark` writes its record of 32 bytes at its place in the trace buffer (R340). -/
theorem readByte_traceMark_ne {c : Ctx} {s : State} {a : Nat}
    (h : ∀ v k, groupVd? s c.g = some v → (vdAt s v).trn ≠ 0 → k < 32 →
      a ≠ ((vdAt s v).trbase + 32 * ((vdAt s v).trcnt % (vdAt s v).trn) + k) % 2 ^ 48) :
    readByte (traceMark c s).mem a = readByte s.mem a := by
  unfold traceMark
  dsimp only
  rw [(finishAt_bytes _ c 1).1]
  split
  next => rfl
  next v hv =>
    split
    next => rfl
    next hn =>
      rw [updVd_mem, readByte_directWrite_ne]
      intro k hk
      rw [length_traceRecord] at hk
      exact h v k hv hn hk

/-- Whatever an attempt to issue a `mark` does, it writes no byte but those of its record. -/
theorem issue_mark_byte {w : Word3} {s t : State} {g : Group} {sp : Split} {a : Nat} (hcur : curSplit s = some (g, sp))
    (ha : ∀ v k, groupVd? s g = some v → (vdAt s v).trn ≠ 0 → k < 32 →
      a ≠ ((vdAt s v).trbase + 32 * ((vdAt s v).trcnt % (vdAt s v).trn) + k) % 2 ^ 48)
    (h : issue .mark w ownMark s = .next t) : readByte t.mem a = readByte s.mem a := by
  rw [issue_cur hcur] at h
  cases h
  refine attempt_ends (fun t => readByte t.mem a = readByte s.mem a) .mark w ownMark s g sp (fun _ => rfl)
    (fun _ _ _ _ => by simp) (by simp) (fun _ _ _ => by simp) (fun _ => by simp) (fun t ht => ?act)
  case act =>
    cases ht
    rw [(afterIssue_bytes _ _).1, readByte_traceMark_ne ha, (beginIssue_bytes _ _).1]

/-- What depends on the bytes alone is kept by an attempt to issue if the instruction's own effect keeps it. -/
theorem issue_keeps_of_bytes {α : Type} {o : Op} {w : Word3} {own : Ctx → State → Verdict} {V : State → α}
    (hV : ∀ s t, sameBytes s t → V t = V s) (hown : ∀ c s t, own c s = .act t → V t = V s) {s t : State}
    (h : issue o w own s = .next t) : V t = V s :=
  issue_keeps V (fun s _ => hV s _ ⟨rfl, rfl⟩) (fun s c => hV s _ (beginIssue_bytes s c))
    (fun s c => hV s _ (afterIssue_bytes s c)) (fun s c n => hV s _ (finishAt_bytes s c n))
    (fun s c a b l x => hV s _ (raiseAt_bytes s c a b l x)) (fun s a b p => hV s _ (blockRing_bytes s a b p))
    (fun s _ _ => hV s _ ⟨rfl, rfl⟩) hown h

/-- Settles O28: booking an issue, finishing it, stopping for a fault and every own effect but that of `mark` write no byte. -/
theorem issueKeepsMemory : Obligations.IssueKeepsMemory := by
  refine ⟨fun i o w s t hi h ho => ?all, fun i w s t hi h => ⟨?markCodes, fun a ha => ?markMem⟩⟩
  case all =>
    rw [exec_word hi] at h
    have hkept := issue_keeps_of_bytes (V := fun s => (s.mem, s.codes)) (fun _ _ ⟨hm, hc⟩ => Prod.ext hm hc)
      (fun _ _ _ hown => have ⟨hm, hc⟩ := (ownOf_keeps hown).bytes ho; Prod.ext hm hc) h
    exact Prod.ext_iff.mp hkept
  case markCodes =>
    rw [exec_word hi] at h
    exact issue_keeps_of_bytes (V := State.codes) (fun _ _ hb => hb.2)
      (fun c s _ hown => by cases hown; exact traceMark_codes c s) h
  case markMem =>
    rw [exec_word hi] at h
    rcases hc : curSplit s with _ | ⟨g, sp⟩
    · rw [issue_none hc] at h; cases h
    · exact issue_mark_byte hc (fun v k => ha g sp v k hc) h

end Sys2Proof.Machine
end

section
/-!
Vector integer instructions (R145), and conversions, lane moves, comparisons and mask operations (R146, R147, R151 to R157).
-/
namespace Sys2Proof.Machine

section
variable {own : Verdict} {lat : Nat} {c : Ctx} {s : State}

/-- An operation on the integer of each element, modulo 2^N (R145). -/
theorem act_of_intOp1 {op : Int → Int} (h : own = vec1 lat (fun _ _ a => vWrap c (op (vInt c a))) c s) :
    own = .act (vint1 lat op c s) :=
  act_of_vec1 (op := fun c _ _ a => vWrap c (op (vInt c a))) h

theorem act_of_intOp2 {op : Ctx → Int → Int → Int} (h : own = intOp2 lat (op c) c s) : own = .act (vint2 lat op c s) :=
  act_of_vec2 (op := fun c _ _ a b => vWrap c (op c (vInt c a) (vInt c b))) h

/-- An operation on the patterns of two elements (R145). -/
theorem act_of_bitOp2 {op : Ctx → Nat → Nat → Nat} (h : own = bitOp2 (op c) c s) :
    own = .act (elem2Eff 2 (fun c _ _ a b => op c a b) c s) :=
  act_of_vec2 (op := fun c _ _ a b => op c a b) h

/-- A value of a type for each selected lane (R142). -/
theorem act_of_vecWrite {t : Nat} {f : Nat → Nat} (h : own = vecWrite c lat t f s) : own = .act (vecPut c lat t f s) := h

/-- Some elements of each selected lane (R152). -/
theorem act_of_elemWrite {w : Nat} {f : Nat → List (Nat × Nat)} (h : own = elemWrite c lat w f s) :
    own = .act (elemPut c lat w f s) := h

/-- A lane of A for each selected lane (R154). -/
theorem act_of_shuffle {m : State → Ctx → Nat → Nat} (h : own = shuffle m c s) : own = .act (laneFrom m c s) := h

/-- A bit for each selected lane (R146, R147). -/
theorem act_of_maskWrite {m : Ctx → State → Word} (h : own = maskWrite c 2 (m c s) s) : own = .act (maskEff m c s) := h

end

/-- Settles O7: the own effect of each integer vector instruction is an operation on the integers or on the patterns of the
elements; `vdot4` gives each lane's sum itself. -/
theorem vectorIntegersComplete : Obligations.VectorIntegersComplete := by
  refine ⟨?vadd, ?vsub, ?vmul, ?vmulh, ?vmad, ?vand, ?vor, ?vxor, ?vshl, ?vshr, ?vmin, ?vmax, ?vabs, ?vneg, ?vadds, ?vsubs,
    ?vsel, ?vmov, ?vclz, ?vpopc, ?vdot4, ?vbfe, ?vbfi⟩
  case vabs | vneg => exact completesBoth_of_own (fun _ => rfl) (fun _ => rfl) fun _ _ _ => act_of_intOp1 rfl
  case vadd | vsub | vmul | vmulh | vmin | vmax | vadds | vsubs =>
    exact completesBoth_of_own (fun _ => rfl) (fun _ => rfl) fun _ _ _ => act_of_intOp2 rfl
  case vand | vor | vxor | vshl =>
    exact completesBoth_of_own (fun _ => rfl) (fun _ => rfl) fun _ _ _ => act_of_bitOp2 rfl
  case vmov | vclz | vpopc => exact completesBoth_of_own (fun _ => rfl) (fun _ => rfl) fun _ _ _ => act_of_vec1 rfl
  case vshr | vsel | vbfe => exact completesBoth_of_own (fun _ => rfl) (fun _ => rfl) fun _ _ _ => act_of_vec2 rfl
  case vmad | vbfi => exact completesBoth_of_own (fun _ => rfl) (fun _ => rfl) fun _ _ _ => act_of_vec3 rfl
  case vdot4 => exact completesBoth_of_own (fun _ => rfl) (fun _ => rfl) fun _ _ _ => act_of_vecWrite rfl

/-- Settles O9: each of these own effects writes lanes, elements, lanes of A or mask bits of the selected lanes. -/
theorem conversionsAndLanesComplete : Obligations.ConversionsAndLanesComplete := by
  refine ⟨?vcvt, ?vquant, ?vdequant, ?vpack, ?vunpack, ?vshfl, ?vbcast, ?vrot, ?vbfly, ?vscan, ?vins, ?vcmpS, ?vcmpF, ?vkop⟩
  case vcvt | vins => exact completesExt_of_own (fun _ => rfl) fun _ _ _ => rfl
  case vquant => exact completesExt_of_own (fun _ => rfl) fun _ _ _ => act_of_elemWrite rfl
  case vdequant => exact completesExt_of_own (fun _ => rfl) fun _ _ _ => act_of_vecWrite rfl
  case vpack => exact completesBoth_of_own (fun _ => rfl) (fun _ => rfl) fun _ _ _ => act_of_vecWrite rfl
  case vunpack => exact completesBoth_of_own (fun _ => rfl) (fun _ => rfl) fun _ _ _ => act_of_vecWrite rfl
  case vscan => exact completesExt_of_own (fun _ => rfl) fun _ _ _ => act_of_vecWrite rfl
  case vshfl => exact completesBoth_of_own (fun _ => rfl) (fun _ => rfl) fun _ _ _ => act_of_shuffle rfl
  case vbcast | vrot | vbfly => exact completesExt_of_own (fun _ => rfl) fun _ _ _ => act_of_shuffle rfl
  case vcmpS | vcmpF | vkop => exact completesBoth_of_own (fun _ => rfl) (fun _ => rfl) fun _ _ _ => act_of_maskWrite rfl

end Sys2Proof.Machine
end

section
/-!
Scratchpad and global accesses: the checks that they make at their issue (R159, R165) and what they start (R160, R163, R167 to R171).
-/
namespace Sys2Proof.Machine

section
variable {c : Ctx} {s : State} {k a : Nat} {m : Word}

/-! ### Scratchpad accesses: the checks of R159 find nothing, or the first fault -/

theorem ownSpadLoad_passes (h : spadCheck s c (spadAccs s c true) (accSize c.op c.f) false = none) :
    ownSpadLoad c s = .act (loadSpad c s) := by
  rw [ownSpadLoad, h]

theorem ownSpadLoad_fails (h : spadCheck s c (spadAccs s c true) (accSize c.op c.f) false = some (k, m, a)) :
    ownSpadLoad c s = .raise k 0 m a := by
  rw [ownSpadLoad, h]

theorem ownSpadStore_passes (h : spadCheck s c (spadAccs s c true) (accSize c.op c.f) true = none) :
    ownSpadStore c s = .act (storeSpad c s) := by
  rw [ownSpadStore, h]

theorem ownSpadStore_fails (h : spadCheck s c (spadAccs s c true) (accSize c.op c.f) true = some (k, m, a)) :
    ownSpadStore c s = .raise k 0 m a := by
  rw [ownSpadStore, h]

theorem ownVldk_passes (h : spadCheck s c (maskAccs s c) 4 false = none) : ownVldk c s = .act (loadMask c s) := by
  rw [ownVldk, h]

theorem ownVldk_fails (h : spadCheck s c (maskAccs s c) 4 false = some (k, m, a)) : ownVldk c s = .raise k 0 m a := by
  rw [ownVldk, h]

theorem ownVstk_passes (h : spadCheck s c (maskAccs s c) 4 true = none) : ownVstk c s = .act (storeMask c s) := by
  rw [ownVstk, h]

theorem ownVstk_fails (h : spadCheck s c (maskAccs s c) 4 true = some (k, m, a)) : ownVstk c s = .raise k 0 m a := by
  rw [ownVstk, h]

/-! ### Global accesses: a misaligned lane, or the start -/

section
variable {w : Work} {vec : Bool} {data : Nat → List (Nat × DWord)}

/-- An aligned access whose release condition is met starts (R159, R165). -/
theorem globalOwn_starts (h : globalMis vec c s = [] ∧ releaseHolds w c s = false) :
    globalOwn w vec data c s = .act (startGlobal w vec data c s) := by
  obtain ⟨haligned, hreleased⟩ := h
  simp [globalOwn, haligned, hreleased]

/-- A misaligned access raises its fault before the release condition is looked at (R159). -/
theorem globalOwn_misaligned (h : globalMis vec c s ≠ []) : globalOwn w vec data c s =
    .raise 0x06 0 (maskOf (globalMis vec c s)) (globalAddr s c vec ((globalMis vec c s).headD 0)) :=
  if_pos (by simpa using h)

end

end

/-- Settles O10: where the checks find nothing, the own effects act. -/
theorem scratchpadCompletes : Obligations.ScratchpadCompletes := by
  refine ⟨?vlds, ?vldsw, ?vsts, ?vstsw, ?vldk, ?vstk⟩
  case vlds => exact completesBoth_of_own (fun _ => rfl) (fun _ => rfl) fun _ _ h => ownSpadLoad_passes h
  case vldsw => exact completesExt_of_own (fun _ => rfl) fun _ _ h => ownSpadLoad_passes h
  case vsts => exact completesBoth_of_own (fun _ => rfl) (fun _ => rfl) fun _ _ h => ownSpadStore_passes h
  case vstsw => exact completesExt_of_own (fun _ => rfl) fun _ _ h => ownSpadStore_passes h
  case vldk => exact completesExt_of_own (fun _ => rfl) fun _ _ h => ownVldk_passes h
  case vstk => exact completesExt_of_own (fun _ => rfl) fun _ _ h => ownVstk_passes h

/-- Settles O11: all these accesses share the checks of a global access; `fence` has none. -/
theorem globalMemoryCompletes : Obligations.GlobalMemoryCompletes := by
  refine ⟨?vld, ?vldw, ?vldb, ?vldnf, ?vst, ?vstw, ?vprf, ?vaadd, ?vamin, ?vamax, ?vaand, ?vaor, ?vaxor, ?vaxch, ?vacas,
    ?vradd, ?vrmin, ?vrmax, ?vrbit, ?fence⟩
  case vld | vst | vaadd | vradd =>
    exact completesBoth_of_own (fun _ => rfl) (fun _ => rfl) fun _ _ h => globalOwn_starts h
  case vldw | vldb | vldnf | vstw | vprf | vamin | vamax | vaand | vaor | vaxor | vaxch | vacas | vrmin | vrmax | vrbit =>
    exact completesExt_of_own (fun _ => rfl) fun _ _ h => globalOwn_starts h
  case fence => exact completesExt_of_own (fun _ => rfl) fun _ _ _ => rfl

/-! ### The faults of R159 -/

/-- The global accesses with an address for each lane (R163). -/
def laneAccessOps : List Op :=
  [.vld, .vldw, .vldnf, .vst, .vstw, .vprf, .vaadd, .vamin, .vamax, .vaand, .vaor, .vaxor, .vaxch, .vacas, .vradd, .vrmin, .vrmax,
    .vrbit]

theorem ownOf_laneAccess {o : Op} (h : o ∈ laneAccessOps) (c : Ctx) (s : State) :
    ∃ w data, ownOf o c s = globalOwn w true data c s := by
  cases o with
  | vld | vldw | vldnf | vst | vstw | vprf | vaadd | vamin | vamax | vaand | vaor | vaxor | vaxch | vacas | vradd | vrmin | vrmax
  | vrbit => exact ⟨_, _, rfl⟩
  | _ => exact absurd h (by decide)

/-- An instruction whose own effect raises a fault of some lanes raises it where it passes the checks before. -/
theorem exec_raises {i : Instr} {o : Op} {w : Word3} {s : State} {g : Group} {sp : Split} {code detail addr : Nat} {lanes : Word}
    (hi : instrWord i = some (o, w)) (hp : Passes o w s g sp)
    (hown : ownOf o (ctxOf o w s g sp) (beginIssue s (ctxOf o w s g sp)) = .raise code detail lanes addr) :
    exec i s = .next (raiseAt s (ctxOf o w s g sp) code detail lanes addr) := by
  rw [exec_word hi]
  exact issue_raise hp hown

/-- Settles O45: each family's own effect makes its checks first and raises the fault that they find. -/
theorem accessFaults : Obligations.AccessFaults := by
  refine ⟨?lanes, ?spad, ?block, ?mask⟩
  case lanes =>
    rintro i o w s g sp hi hp ls ho rfl hmis
    obtain ⟨work, data, hown⟩ := ownOf_laneAccess ho (ctxOf o w s g sp) (beginIssue s (ctxOf o w s g sp))
    exact exec_raises hi hp (hown.trans (globalOwn_misaligned hmis))
  case spad =>
    intro i o w s g sp k m a hi hp ho hcheck
    refine exec_raises hi hp ?_
    simp only [List.mem_cons, List.not_mem_nil, or_false] at ho
    rcases ho with rfl | rfl | rfl | rfl
    · exact ownSpadLoad_fails hcheck
    · exact ownSpadLoad_fails hcheck
    · exact ownSpadStore_fails hcheck
    · exact ownSpadStore_fails hcheck
  case block =>
    rintro i w s g sp hi hp ls rfl hmis
    exact exec_raises hi hp (globalOwn_misaligned hmis)
  case mask =>
    intro i o w s g sp k m a hi hp ho hcheck
    refine exec_raises hi hp ?_
    simp only [List.mem_cons, List.not_mem_nil, or_false] at ho
    rcases ho with rfl | rfl
    · exact ownVldk_fails hcheck
    · exact ownVstk_fails hcheck

end Sys2Proof.Machine
end

section
/-!
Scratchpads and device memory, byte by byte: what an issue leaves alone (R160, R238), what a scratchpad store writes (R160, R161),
what a write at its home writes (R166).
-/
namespace Sys2Proof.Machine

/-! ### What every issue leaves alone -/

/-- What depends on the scratchpads and engines alone is kept by an attempt to issue if the instruction's own effect keeps it. -/
theorem issue_keeps_of_stores {α : Type} {o : Op} {w : Word3} {own : Ctx → State → Verdict} {V : State → α}
    (hV : ∀ s t, sameSpads s t → sameEngines s t → V t = V s) (hown : ∀ c s t, own c s = .act t → V t = V s) {s t : State}
    (h : issue o w own s = .next t) : V t = V s :=
  issue_keeps V (fun s _ => hV s _ rfl fun _ => rfl)
    (fun s c => hV s _ (beginIssue_stores s c).1 (beginIssue_stores s c).2)
    (fun s c => hV s _ (afterIssue_stores s c).1 (afterIssue_stores s c).2)
    (fun s c n => hV s _ (finishAt_stores s c n).1 (finishAt_stores s c n).2)
    (fun s c a b l x => hV s _ (raiseAt_stores s c a b l x).1 (raiseAt_stores s c a b l x).2)
    (fun s a b p => hV s _ (blockRing_stores s a b p).1 (blockRing_stores s a b p).2)
    (fun s k a => hV s _ rfl (updMat_engines (fun _ => by simp) s k)) hown h

/-- Settles O29: booking an issue, finishing it and stopping for a fault change no scratchpad and no engine, and neither does an
own effect but that of a scratchpad store, which changes its scratchpad alone. -/
theorem issueKeepsLocalStores : Obligations.IssueKeepsLocalStores := by
  intro i o w s t hi h
  rw [exec_word hi] at h
  refine ⟨fun hvsts hvstsw hvstk => ?spads, fun k => ?engines⟩
  case spads =>
    exact issue_keeps_of_stores (V := fun s => s.teams.map numSpad) (fun _ _ hs _ => hs)
      (fun _ _ _ hown => (ownOf_keeps hown).spads hvsts hvstsw hvstk) h
  case engines =>
    exact issue_keeps_of_stores (V := fun s => engineMem s.cores k) (fun _ _ _ he => he k)
      (fun _ _ _ hown => (ownOf_keeps hown).engines k) h

/-! ### A team's scratchpad -/

/-- A team's scratchpad is that of the team where it stands, on a core or in a save. -/
theorem teamSpad_of_teams {s t : State} (hteams : t.teams = s.teams) (hsaves : t.saves = s.saves) (u : Nat) :
    teamSpad t u = teamSpad s u := by
  simp only [teamSpad, teamAt?, hteams, hsaves]

theorem teamSpad_of_find {s : State} {u : Nat} {t : Team} (h : s.teams.find? (fun x => x.id == u) = some t) :
    teamSpad s u = t.spad := by
  simp [teamSpad, teamAt?, h]

theorem teamSpad_putSpad {s : State} {u : Nat} {t : Team} (h : s.teams.find? (fun x => x.id == u) = some t)
    (bs : List (Nat × Byte)) : teamSpad (putSpad s u bs) u = writeBytes t.spad bs := by
  have hfind : (putSpad s u bs).teams.find? (fun x => x.id == u) =
      (s.teams.find? (fun x => x.id == u)).map (fun t => { t with spad := writeBytes t.spad bs }) := find_updTeam fun _ => rfl
  rw [h] at hfind
  exact teamSpad_of_find hfind

theorem teamSpad_putSpad_ne {s : State} {u v : Nat} (h : v ≠ u) (bs : List (Nat × Byte)) :
    teamSpad (putSpad s u bs) v = teamSpad s v := by
  have hfind : (putSpad s u bs).teams.find? (fun x => x.id == v) = s.teams.find? (fun x => x.id == v) :=
    find_updTeam_ne (fun _ => rfl) h
  simp only [teamSpad, teamAt?, hfind]
  rfl

theorem putSpad_of_teams {s t : State} (hteams : t.teams = s.teams) (hsaves : t.saves = s.saves) (v : Nat) (bs : List (Nat × Byte))
    (u : Nat) : teamSpad (putSpad t v bs) u = teamSpad (putSpad s v bs) u :=
  teamSpad_of_teams (s := putSpad s v bs) (t := putSpad t v bs) (by simp only [putSpad, updTeam, hteams]) hsaves u

/-! ### Scratchpad stores (R160, R161) -/

section
variable (s : State) (c : Ctx) (f : Flight) (base p : Nat) (bs : List (Nat × Byte))

theorem teamSpad_spadFlight (u : Nat) : teamSpad (spadFlight s c f base p) u = teamSpad s u := teamSpad_of_teams rfl rfl u

theorem spadFlight_flights : (spadFlight s c f base p).flights = s.flights ++ [f] := rfl

theorem dieClk_spadFlight (d : Nat) : dieClk (spadFlight s c f base p) d = dieClk s d := rfl

theorem teamSpad_afterClk (die n rank : Nat) (e : Event) (u : Nat) : teamSpad (afterClk s die n rank e) u = teamSpad s u :=
  teamSpad_of_teams rfl rfl u

variable {p}

/-- A store of one pass is performed as it issues. -/
theorem teamSpad_spadStore_one (hp : p ≤ 1) (u : Nat) :
    teamSpad (spadStore s c bs p) u = teamSpad (putSpad s c.g.team bs) u := by
  rw [spadStore, if_pos hp]
  exact teamSpad_spadFlight ..

section
variable (hp : 1 < p)
include hp

/-- A store of several passes carries its bytes along, and its last pass is in the agenda. -/
theorem spadStore_later : spadStore s c bs p =
    afterClk (spadFlight s c { newFlight c .spad with at1 := c.clk + p - 1, at2 := c.g.team, mems := bs } 2 p) (coreDie c.g.core)
      (p - 1) 3 (.spadAccessComplete c.id) :=
  if_neg (Nat.not_le.mpr hp)

theorem teamSpad_spadStore_later (u : Nat) : teamSpad (spadStore s c bs p) u = teamSpad s u := by
  rw [spadStore_later s c bs hp, teamSpad_afterClk, teamSpad_spadFlight]

theorem flight_spadStore_later :
    ∃ f ∈ (spadStore s c bs p).flights, f.id = c.id ∧ f.at2 = c.g.team ∧ f.mems = bs := by
  rw [spadStore_later s c bs hp, afterClk, addDue, spadFlight_flights]
  exact ⟨_, List.mem_append_right _ List.mem_cons_self, rfl, rfl, rfl⟩

theorem due_spadStore_later : ∃ d ∈ (spadStore s c bs p).agenda, d.ev = .spadAccessComplete c.id ∧
    d.moment = .clk (coreDie c.g.core) (dieClk s (coreDie c.g.core) + (p - 1)) := by
  rw [spadStore_later s c bs hp, afterClk, addDue, dieClk_spadFlight]
  exact ⟨_, List.mem_append_right _ List.mem_cons_self, rfl, rfl⟩

end

end

/-- Settles O52: bytes are put in their order, in one team; a store of one pass puts them at its issue, one of several with its
last pass. -/
theorem scratchpadStoresWriteTheirBytes : Obligations.ScratchpadStoresWriteTheirBytes := by
  refine ⟨fun s u bs t a ht => ⟨?written, fun hnone => ?unwritten⟩, ?others, ?onePass, fun c s hp => ⟨?before, ?flight, ?due⟩,
    fun op s f u hf hm => ?lastPass, ?mask⟩
  case written =>
    rintro pre b suf rfl rfl hlast
    rw [teamSpad_putSpad ht, readByte_writeBytes_last _ _ _ _ hlast]
  case unwritten => rw [teamSpad_putSpad ht, readByte_writeBytes_ne _ _ hnone]
  case others => exact fun s u v bs hv => teamSpad_putSpad_ne hv bs
  case onePass => exact fun c s hp u => teamSpad_spadStore_one s c _ hp u
  case before => exact teamSpad_spadStore_later s c _ hp
  case flight => exact flight_spadStore_later s c _ hp
  case due => exact due_spadStore_later s c _ hp
  case lastPass => exact ⟨_, execSpadAccessComplete_store hf hm, putSpad_of_teams rfl rfl ..⟩
  case mask => exact fun c s u => teamSpad_spadStore_one s c _ le_rfl u

/-! ### A write performed at its home (R166) -/

theorem performWrite_mem (s : State) (arm : Nat) (r : Req) (bs : List (Nat × Byte)) (deep : Bool) :
    (performWrite s arm r bs deep).mem = writeLine s.mem (localLine r.line) bs := by
  simp [performWrite]

/-- Of the bytes written to one place of a line, the last stays. -/
theorem readByte_writeLine_last (m : SMap Byte) (line : Nat) (pre : List (Nat × Byte)) (b : Nat × Byte) {suf : List (Nat × Byte)}
    (h : ∀ q ∈ suf, q.1 ≠ b.1) : readByte (writeLine m line (pre ++ b :: suf)) (128 * line + b.1) = b.2 := by
  rw [writeLine, List.map_append, List.map_cons]
  refine readByte_writeBytes_last m _ (128 * line + b.1, b.2) _ fun q hq => ?_
  obtain ⟨p, hp, rfl⟩ := List.mem_map.mp hq
  have hne := h p hp
  simp only
  omega

/-- Settles O51: a write at its home writes its line at the places that it names. -/
theorem wordWritesReachTheLine : Obligations.WordWritesReachTheLine := by
  refine fun s arm r bs deep a => ⟨?written, fun h => ?unwritten⟩
  case written =>
    rintro pre b suf rfl rfl hlast
    rw [performWrite_mem, readByte_writeLine_last _ _ _ _ hlast]
  case unwritten => exact readByte_performWrite_ne h s arm deep

end Sys2Proof.Machine
end

section
/-!
Steps of the copy engines (R161, R259, R269, R272, R274).
-/
namespace Sys2Proof.Machine

section
variable {s : State}

/-! ### Commands start, move and land (R161, R259) -/

theorem execCopyCommandStart_starts {id : Nat} {c : CopyCmd} (hc : cmdAt? s id = some c) (hready : cmdStartReady s c = true) :
    execCopyCommandStart id s = .next (updCmd s id (fun c => { c with phase := .started })) := by
  simp [execCopyCommandStart, hc, hready]

/-- An engine takes a block whose pages are all known, translated and allowed. -/
theorem execCopyBlock_takes {eng : Nat} {c : CopyCmd} (hc : nextBlock s eng = some c) (hknown : blockMissing s c = [])
    (htranslated : (cmdPages s c).find? (fun p => (pageFailed c p.1).isSome) = none)
    (hallowed : (cmdPages s c).find? (pageForbids s c) = none) :
    execCopyBlock eng s = .next (takeBlock (markEngine s eng c) c) := by
  simp [execCopyBlock, hc, hknown, htranslated, hallowed]

theorem execCopyLanding_lands {core : Nat} {l : Landing} (hl : nextLanding s core = some l) (hturn : landingTurn s core = true) :
    execCopyLanding core s = .next (landBlock s core l) := by
  simp [execCopyLanding, hl, hturn]

/-! ### Completion (R272, R334) -/

section
variable {id : Nat} {c : CopyCmd} (hc : cmdAt? s id = some c) (hdone : cmdDone c = true)
include hc hdone

/-- A command that is not part of a collective leaves its engine. -/
theorem execCopyComplete_alone (hphase : c.phase ≠ .reading) (hop : isLinkOp c.op = false ∨ c.op = .lput ∨ c.op = .lget) :
    execCopyComplete id s = .next (freeCmd s c) := by
  have halone : (isLinkOp c.op && c.op != .lput && c.op != .lget) = false := by
    rcases hop with h | h | h <;> simp [h]
  simp [execCopyComplete, hc, hdone, hphase, halone]

/-- The source of a collective has been read. -/
theorem execCopyComplete_read (hphase : c.phase = .reading) :
    execCopyComplete id s = .next (collRead (freeCmd s c) c.id) := by
  simp [execCopyComplete, hc, hdone, hphase]

/-- The destination of a collective has been written. -/
theorem execCopyComplete_written (hphase : c.phase ≠ .reading) (hlink : isLinkOp c.op = true) (hlput : c.op ≠ .lput)
    (hlget : c.op ≠ .lget) : execCopyComplete id s = .next (collWritten (freeCmd s c) c.id) := by
  simp [execCopyComplete, hc, hdone, hphase, hlink, hlput, hlget]

end

/-! ### Hand-offs and aborts (R269, R274) -/

theorem execXhandPush_pushes {id : Nat} {c : CopyCmd} (hc : cmdAt? s id = some c) (hready : xhandReady s c = true) :
    execXhandPush id s = .next (freeCmd (updRing s c.team c.f.d.toNat (fun r => ringPush r c.value)) c) := by
  simp [execXhandPush, hc, hready]

/-- A group takes the fault of the first aborted command that it is still to be told of. -/
theorem execCopyAbortFault_raises {u d pc a : Nat} {g : Group} {m : Word} {rest : List (Nat × Nat × Nat × Word)} {sp : Split}
    (hg : groupAt? s u = some g) (haborts : g.aborts = (d, pc, a, m) :: rest) (hsp : firstSplit g = some sp) :
    execCopyAbortFault u s = .next (raiseFault (updGroup s u (fun g => { g with aborts := rest })) u
      (mkEntry 0x42 d m a pc sp.place sp.stamp (s.opCount + 1) sp.pc)) := by
  simp [execCopyAbortFault, hg, haborts, hsp]

end

/-- Settles O33: each step tests that it is ready and then acts. -/
theorem copyStepsComplete : Obligations.CopyStepsComplete := by
  refine ⟨?start, ?block, ?landing, ?alone, ?read, ?written, ?xhand, ?abort⟩
  case start => exact fun id s c hc hready => execCopyCommandStart_starts hc hready
  case block => exact fun eng s c hc hknown htranslated hallowed => execCopyBlock_takes hc hknown htranslated hallowed
  case landing => exact fun core s l hl hturn => execCopyLanding_lands hl hturn
  case alone => exact fun id s c hc hdone hphase hop => execCopyComplete_alone hc hdone hphase hop
  case read => exact fun id s c hc hdone hphase => execCopyComplete_read hc hdone hphase
  case written => exact fun id s c hc hdone hphase hlink hlput hlget => execCopyComplete_written hc hdone hphase hlink hlput hlget
  case xhand => exact fun id s c hc hready => execXhandPush_pushes hc hready
  case abort => exact fun u s g d pc a m rest sp hg haborts hsp => execCopyAbortFault_raises hg haborts hsp

end Sys2Proof.Machine
end

section
/-!
Steps of the spiral (R177, R178, R188, R282 to R284, R287 to R289).
-/
namespace Sys2Proof.Machine

section
variable {s : State}

/-! ### Fronts and lookup waves (R282, R284) -/

section
variable {id : Nat} {r : Req} (hr : reqAt? s id = some r)
include hr

/-- A request for another module goes out by a link (R320). -/
theorem execFrontAccept_away (haway : r.away = true) (hready : awayReady s r = true) :
    execFrontAccept id s = .next (sendAway s r) := by
  simp [execFrontAccept, hr, haway, hready]

/-- A request for a block whose home has not moved away enters its front. -/
theorem execFrontAccept_enters (hhere : r.away = false)
    (hhome : (armAt s r.arm).forwards.find? (fun f => f.block == localLine r.line / 512 && r.arm == r.home) = none) :
    execFrontAccept id s = .next (enterFront s id r) := by
  simp only [execFrontAccept, hr, hhere, hhome, Bool.false_eq_true, if_false]

theorem execWaveFind_present {t : Tile} (ht : tileAt? (armAt s r.arm) (r.line / 8) = some t) :
    execWaveFind id s = .next (actPresent s r.arm r t) := by
  simp only [execWaveFind, hr, ht]

theorem execWaveFind_absent (ht : tileAt? (armAt s r.arm) (r.line / 8) = none) :
    execWaveFind id s = .next (resumeReq s r.arm r) := by
  simp only [execWaveFind, hr, ht]

theorem execMemoryReply_replies (arm tile : Nat) : execMemoryReply arm tile id s = .next (setReply s r 24) := by
  simp only [execMemoryReply, hr]

end

/-! ### Tiles land (R283) -/

section
variable {arm tile target : Nat}

theorem execTileLand_travel (hm : motionOf? (armAt s arm) tile = some (.travel target)) :
    execTileLand arm tile s = .next (landed (updArm s arm (fun a =>
      { endMotion (moveTile a tile target) tile with inserted := true })) arm tile) := by
  simp only [execTileLand, hm]

section
variable {owner : Nat} {copy : Bool} (hm : motionOf? (armAt s arm) tile = some (.fetch target owner copy))
include hm

/-- A fetched tile that is at rest once it is in the arm has landed. -/
theorem execTileLand_fetch (hrest : inMotion (armAt (landTile s arm tile target owner copy) arm) tile = false) :
    execTileLand arm tile s = .next (landed (landTile s arm tile target owner copy) arm tile) := by
  simp only [execTileLand, hm, hrest, Bool.false_eq_true, if_false]

/-- A fetched tile that still waits for its slot has not landed. -/
theorem execTileLand_waits (hwaits : inMotion (armAt (landTile s arm tile target owner copy) arm) tile = true) :
    execTileLand arm tile s = .next (landTile s arm tile target owner copy) := by
  simp only [execTileLand, hm, hwaits, if_true]

end

end

/-! ### Tiles leave (R287) -/

section
variable {arm tile : Nat} {w : Bool} {t : Tile} (ht : tileAt? (armAt s arm) tile = some t)
include ht

/-- A tile whose slot has no heir is gone, where the arm has removed no other in this clk. -/
theorem execTileLeaveComplete_gone (hm : motionOf? (armAt s arm) tile = some (.leave w 0))
    (hturn : inSlot t = false ∨ (armAt s arm).removed = false) :
    execTileLeaveComplete arm tile s = .next (goneTile (leaveErrors (foldHorizons s arm t) t) arm t) := by
  have hgo : (inSlot t && ((armAt s arm).removed || ((0 : Nat) != 0 && (armAt s arm).inserted))) = false := by
    rcases hturn with h | h <;> simp [h]
  simp only [execTileLeaveComplete, hm, ht, hgo, Bool.false_eq_true, if_false, if_true]

/-- The heir of a leaving tile's slot is inserted there, where the arm has removed and inserted none in this clk. -/
theorem execTileLeaveComplete_inherited {h target owner : Nat} {copy : Bool}
    (hm : motionOf? (armAt s arm) tile = some (.leave w (h + 1)))
    (hturn : inSlot t = false ∨ ((armAt s arm).removed = false ∧ (armAt s arm).inserted = false))
    (hheir : motionOf? (armAt s arm) h = some (.fetch target owner copy)) :
    execTileLeaveComplete arm tile s =
      .next (inherit (leaveErrors (foldHorizons s arm t) t) arm t h target owner copy) := by
  have hgo : (inSlot t && ((armAt s arm).removed || (h + 1 != 0 && (armAt s arm).inserted))) = false := by
    rcases hturn with hout | ⟨hrem, hins⟩
    · simp [hout]
    · simp [hrem, hins]
  simp only [execTileLeaveComplete, hm, ht, hgo, hheir, Bool.false_eq_true, if_false, Nat.add_one_ne_zero, Nat.add_sub_cancel]

end

/-! ### Sharers drop their copies (R289) -/

section
variable {arm line sector : Nat}

theorem unshare_home (hdie : sector / 3 = armDie arm) :
    unshare s arm line sector = updArm s arm (fun a => updTileLine a line (fun l =>
      { l with sharers := l.sharers &&& ~~~(sharerBit (armSector arm) sector) })) := by
  simp [unshare, hdie]

/-- At a tile that is not leaving, the bit of a sector that has made no new copy is cleared. -/
theorem execSharerDropAck_rest (hm : ∀ w h, motionOf? (armAt s arm) (line / 8) ≠ some (.leave w h))
    (hshares : sharesAgain s arm line sector = false) :
    execSharerDropAck arm line sector s = .next (unshare s arm line sector) := by
  rw [execSharerDropAck]
  split
  next w h heq => exact absurd heq (hm w h)
  next => simp only [hshares, Bool.false_eq_true, if_false]

/-- A leaving tile waits for the drops that are still under way. -/
theorem execSharerDropAck_waits {w : Bool} {h : Nat} (hm : motionOf? (armAt s arm) (line / 8) = some (.leave w h))
    (hleft : dropsLeft (unshare s arm line sector) arm (line / 8) = true) :
    execSharerDropAck arm line sector s = .next (unshare s arm line sector) := by
  simp only [execSharerDropAck, hm, hleft, if_true]

/-- After the last drop a leaving tile with nothing to write back has left. -/
theorem execSharerDropAck_last {h : Nat} (hm : motionOf? (armAt s arm) (line / 8) = some (.leave false h))
    (hleft : dropsLeft (unshare s arm line sector) arm (line / 8) = false) :
    execSharerDropAck arm line sector s =
      .next (afterClk (unshare s arm line sector) (armDie arm) 0 3 (.tileLeaveComplete arm (line / 8))) := by
  simp only [execSharerDropAck, hm, hleft, Bool.false_eq_true, if_false]

end

/-! ### Sharers update their copies (R288) -/

section
variable {u : Update} {t : Tile} (ht : tileAt? (armAt s u.arm) (u.line / 8) = some t) (hcopy : t.copy = true)
include ht hcopy

theorem applyUpdate_words (hdrop : u.drop = false) (hvalid : (tileLine t u.line).valid = true)
    (hnewer : tagNewer u.tag (tileLine t u.line).tag = true) :
    applyUpdate s u = updArm (takeUpdate s u) u.arm (fun a =>
      updTileLine a u.line (fun l => { l with tag := u.tag, data := msetAll 0 u.bytes (tileLine t u.line).data, poison :=
        u.poison || (l.poison && !((List.range 128).all (fun i => u.bytes.any (fun p => p.1 == i)))) })) := by
  simp only [applyUpdate, ht, hcopy, hdrop, hvalid, hnewer, Bool.not_true, Bool.and_self, Bool.false_eq_true, if_false, if_true]

theorem applyUpdate_drop (hdrop : u.drop = true) :
    applyUpdate s u = updArm (takeUpdate s u) u.arm (fun a =>
      updTileLine a u.line (fun l => { l with valid := false, expiry := none })) := by
  simp only [applyUpdate, ht, hcopy, hdrop, Bool.not_true, Bool.false_eq_true, if_false, if_true]

end

section
variable {id : Nat} {u : Update} (hu : s.updates.find? (fun u => u.id == id) = some u)
  (hrest : inMotion (armAt s u.arm) (u.line / 8) = false) (holder : olderUpdate s u = false)
  (hcoming : s.reqs.any (fun r => copyUnderWay r u.line && r.sector == u.sector) = false)
include hu hrest holder hcoming

/-- New words are applied where the copy is at rest and complete, and no older words are still to come. -/
theorem execWriteUpdateWords_words (hdrop : u.drop = false) : execWriteUpdateWords id s = .next (applyUpdate s u) := by
  simp only [execWriteUpdateWords, hu, hrest, holder, hcoming, hdrop, Bool.or_self, Bool.false_eq_true, if_false]

/-- A drop is applied under the same conditions, and acknowledged to the home. -/
theorem execWriteUpdateWords_drop (hdrop : u.drop = true) : execWriteUpdateWords id s =
    .next (afterClk (applyUpdate s u) (armDie u.home) (1 + transitClk (armSector u.arm) (armSector u.home)) 3
      (.sharerDropAck u.home u.line u.sector)) := by
  simp only [execWriteUpdateWords, hu, hrest, holder, hcoming, hdrop, Bool.or_self, Bool.false_eq_true, if_false, if_true]

end

/-! ### Replies that make or renew copies (R178, R288) -/

theorem newestWords_of_none {r : Req} (h : r.words = none) : newestWords r = r := by
  simp [newestWords, h]

/-- A line that holds nothing takes the words of the reply and its lease. -/
theorem placeLine_clean {r : Req} (hrenew : r.renew = none) : placeLine r LineSt.clean =
    { LineSt.clean with valid := true, tag := r.tag, data := r.data, expiry := r.lease, poison := r.poison } := by
  simp [placeLine, hrenew, LineSt.clean]

section
variable {id : Nat} {r : Req} (hr : reqAt? s id = some r)
include hr

/-- The host die makes its first copy of a line. -/
theorem execCopyTileReply_host {core : Nat} (hsrc : r.src = .host core) (hstay : r.stay = false) (hwords : r.words = none)
    (hnone : mfind r.line s.hostCopies = none) (hrenew : r.renew = none) : execCopyTileReply id s =
      .next { updReq s id (fun x => { x with copy := false, nest := copyHome s r + 1 }) with
        hostCopies := mput r.line
          { LineSt.clean with valid := true, tag := r.tag, data := r.data, expiry := r.lease, poison := r.poison } s.hostCopies } := by
  simp only [execCopyTileReply, hr, hsrc, hstay, hnone, newestWords_of_none hwords, Option.getD_none, placeLine_clean hrenew,
    Bool.false_eq_true, if_false]

/-- A reply to a source on the module brings its words to the arm of the copy. -/
theorem execCopyTileReply_arm (hsrc : ∀ core, r.src ≠ .host core) (hstay : r.stay = false) : execCopyTileReply id s =
    .next (bringWords (openNest (updReq s id (fun x =>
      { x with copy := false, nest := copyHome s r + 1 })) (copyHome s r) r) (copyHome s r) r) := by
  -- `hsrc` shuts out the branch of the host die
  simp only [execCopyTileReply, hr, hstay, Bool.false_eq_true, if_false]

theorem execLeaseRenewal_brings : execLeaseRenewal id s =
    .next (bringWords (updReq s id (fun x =>
      { x with copy := false, nest := copyHome s r + 1, renew := none })) (copyHome s r) r) := by
  simp only [execLeaseRenewal, hr]

end

/-- A copy whose lease has run out by the holder's clock is no longer valid (R177). -/
theorem execLeaseExpiry_expires {arm line e : Nat} {t : Tile} (ht : tileAt? (armAt s arm) (line / 8) = some t)
    (hlease : (tileLine t line).expiry = some e) (hover : e ≤ timeNs s + guardNs s line) :
    execLeaseExpiry arm line s = .next (updArm s arm (fun a => updTileLine a line (fun l => { l with valid := false }))) := by
  simp only [execLeaseExpiry, ht, hlease, hover, if_true]

/-! ### Home changes (R188) -/

/-- The old home makes a forwarding entry while its table has room. -/
theorem execHomeChange_moves {block toArm : Nat}
    (hmoves : homeArm s (mget 0 block s.owners % 16) (2 ^ 16 * block) ≠ toArm)
    (hroom : (armAt s (homeArm s (mget 0 block s.owners % 16) (2 ^ 16 * block))).forwards.length < 64) :
    execHomeChange block toArm s = .next (moveHome s block toArm
      (homeArm s (mget 0 block s.owners % 16) (2 ^ 16 * block)) (mget 0 block s.owners % 16)) := by
  simp only [execHomeChange, hmoves, Nat.not_le.mpr hroom, if_false]

/-- The entry is freed once the old home has neither tiles nor requests of the block. -/
theorem execForwardEntryFree_frees {arm block : Nat} {f : Forward}
    (hf : (armAt s arm).forwards.find? (fun f => f.block == block) = some f) (htiles : blockTiles s arm block = [])
    (hflight : inFlightAt s arm block = false) : execForwardEntryFree arm block s = .next (freeForward s arm block f) := by
  simp [execForwardEntryFree, hf, htiles, hflight]

end

/-- Settles O34: each step tests its condition and then acts. -/
theorem spiralStepsComplete : Obligations.SpiralStepsComplete := by
  refine ⟨?away, ?enters, ?serve, ?present, ?absent, ?travel, ?fetch, ?waits, ?memory, ?gone, ?inherited, ?ackRest, ?ackWaits,
    ?ackLast, ?words, ?drop, ?hostCopy, ?armCopy, ?renewal, ?expiry, ?homeMoves, ?entryFree⟩
  case away => exact fun id s r hr haway hready => execFrontAccept_away hr haway hready
  case enters => exact fun id s r hr hhere hhome => execFrontAccept_enters hr hhere hhome
  case serve => exact fun arm s => rfl
  case present => exact fun id s r t hr ht => execWaveFind_present hr ht
  case absent => exact fun id s r hr ht => execWaveFind_absent hr ht
  case travel => exact fun arm tile s target hm => execTileLand_travel hm
  case fetch => exact fun arm tile s target owner copy hm hrest => execTileLand_fetch hm hrest
  case waits => exact fun arm tile s target owner copy hm hwaits => execTileLand_waits hm hwaits
  case memory => exact fun arm tile id s r hr => execMemoryReply_replies hr arm tile
  case gone => exact fun arm tile s w t hm ht hturn => execTileLeaveComplete_gone ht hm hturn
  case inherited =>
    exact fun arm tile s w h t target owner copy hm ht hturn hheir => execTileLeaveComplete_inherited ht hm hturn hheir
  case ackRest =>
    intro arm line sector s hm hdie hshares
    rw [← unshare_home hdie]
    exact execSharerDropAck_rest hm hshares
  case ackWaits => exact fun arm line sector s w h hm hleft => execSharerDropAck_waits hm hleft
  case ackLast => exact fun arm line sector s h hm hleft => execSharerDropAck_last hm hleft
  case words =>
    intro id s u t hu hrest holder hcoming hdrop ht hcopy hvalid hnewer
    rw [← applyUpdate_words ht hcopy hdrop hvalid hnewer]
    exact execWriteUpdateWords_words hu hrest holder hcoming hdrop
  case drop =>
    intro id s u t hu hrest holder hcoming hdrop ht hcopy
    rw [← applyUpdate_drop ht hcopy hdrop]
    exact execWriteUpdateWords_drop hu hrest holder hcoming hdrop
  case hostCopy =>
    exact fun id s r core hr hsrc hstay hwords hnone hrenew => execCopyTileReply_host hr hsrc hstay hwords hnone hrenew
  case armCopy => exact fun id s r hr hsrc hstay => execCopyTileReply_arm hr hsrc hstay
  case renewal => exact fun id s r hr => execLeaseRenewal_brings hr
  case expiry => exact fun arm line s t e ht hlease hover => execLeaseExpiry_expires ht hlease hover
  case homeMoves => exact fun block toArm s hmoves hroom => execHomeChange_moves hmoves hroom
  case entryFree => exact fun arm block s f hf htiles hflight => execForwardEntryFree_frees hf htiles hflight

end Sys2Proof.Machine
end

section
/-!
Resume actions of system software for a stopped group (R194).
-/
namespace Sys2Proof.Machine

section
variable {s : State} {u : Nat} {g : Group} {r : TrapRec}

/-- A group that goes on is no longer stopped, and its last-issue time is the clk of the resume (R76, R194). -/
theorem groupAt_resumeGroup (hg : groupAt? s u = some g) :
    groupAt? (resumeGroup s u) u = some { g with stop := none, resumed := true, lastIssue := coreClk s g.core } := by
  simp only [resumeGroup, hg]
  exact groupAt_updGroup_some hg fun _ => rfl

section
variable (hg : groupAt? s u = some g) (hstop : g.stop = some r)
include hg hstop

/-- An action for a stopped group is carried out. -/
theorem withStop_stopped (f : Group → TrapRec → State) : withStop s u f = f g r := by
  simp only [withStop, hg, hstop]

theorem execResumeContinue_region (hkind : recKind r = 1) : execResumeContinue u s = .next { s with cpStatus := 0x41 } := by
  rw [execResumeContinue, withStop_stopped hg hstop, if_pos hkind]

theorem execResumeContinue_goesOn (hkind : recKind r ≠ 1) :
    execResumeContinue u s = .next { resumeGroup (freePageReq s u false) u with cpStatus := 0 } := by
  rw [execResumeContinue, withStop_stopped hg hstop, if_neg hkind]

theorem execResumeRerun_notRegion (hkind : recKind r ≠ 1) : execResumeRerun u s = .next { s with cpStatus := 0x41 } := by
  rw [execResumeRerun, withStop_stopped hg hstop, if_pos (bne_iff_ne.mpr hkind)]

theorem execResumeRerun_nonRepeatable (hkind : recKind r = 1) (hnr : r.nr = true) :
    execResumeRerun u s = .next { s with cpStatus := 0x42 } := by
  simp only [execResumeRerun, withStop_stopped hg hstop, hkind, hnr, bne_self_eq_false, Bool.false_eq_true, if_false, if_true]

theorem execResumeRerun_reruns (hkind : recKind r = 1) (hnr : r.nr = false) :
    execResumeRerun u s = .next { rerunGroup (flushPend (freePageReq s u false) u) u with cpStatus := 0 } := by
  simp only [execResumeRerun, withStop_stopped hg hstop, hkind, hnr, bne_self_eq_false, Bool.false_eq_true, if_false]

theorem execResumeEndGroup_ends :
    execResumeEndGroup u s = .next { resumeGroup (endLanes (freePageReq s u false) u) u with cpStatus := 0 } := by
  rw [execResumeEndGroup, withStop_stopped hg hstop]

theorem execResumeEndLaunch_ends {t : Team} (hteam : teamAt? s g.team = some t) :
    execResumeEndLaunch u s = .next { killLaunch s t.launch 0x24 with cpStatus := 0 } := by
  simp only [execResumeEndLaunch, withStop_stopped hg hstop, hteam]

theorem execResumeInvalid_refuses (a : Nat) : execResumeInvalid u a s = .next { s with cpStatus := 0x40 } := by
  rw [execResumeInvalid, withStop_stopped hg hstop]

end

end

/-- Settles O54: the kind of the record's primary exception and NR decide the action, and `resumeGroup` changes no register. -/
theorem resumeActions : Obligations.ResumeActions := by
  refine ⟨?continueRegion, ?rerunOther, ?rerunNr, ?invalid, ?goesOn⟩
  case continueRegion => exact fun u s g r hg hstop hkind => execResumeContinue_region hg hstop hkind
  case rerunOther => exact fun u s g r hg hstop hkind => execResumeRerun_notRegion hg hstop hkind
  case rerunNr => exact fun u s g r hg hstop hkind hnr => execResumeRerun_nonRepeatable hg hstop hkind hnr
  case invalid => exact fun u a s g r hg hstop => execResumeInvalid_refuses hg hstop a
  case goesOn =>
    intro u s g r hg hstop hkind
    have hfreed : groupAt? (freePageReq s u false) u = some g := hg
    exact ⟨_, _, execResumeContinue_goesOn hg hstop hkind, groupAt_resumeGroup hfreed, rfl, rfl, rfl, rfl, rfl, rfl, rfl⟩

end Sys2Proof.Machine
end

section
/-!
Trap records, page requests, saves and restores: what each step does once its condition holds (R193, R199 to R208, R274, R355).
-/
namespace Sys2Proof.Machine

section
variable {s : State}

/-! ### Trap records (R193) -/

theorem execTrapRecordAppend_queues {u : Nat} {g : Group} {r : TrapRec} (hg : groupAt? s u = some g)
    (hready : recordReady s g = true) (hstop : g.stop = some r) :
    execTrapRecordAppend u s = .next (queueRecord s u g r) := by
  simp [execTrapRecordAppend, hg, hready, hstop]

/-! ### Pre-emption, saves and evictions (R198 to R206) -/

/-- While no save of the context is under way, all its teams stop. -/
theorem execPreempt_halts {ctx : Nat} (hfree : s.saves.any (fun v => v.ctx == ctx && !v.done) = false) :
    execPreempt ctx s = .next (haltTeams s ctx true ((s.teams.filter (fun t => t.ctx == ctx)).map (·.id))) := by
  have hnone : s.saves.filter (fun v => v.ctx == ctx && !v.done) = [] := by
    simpa only [List.any_eq_false, List.filter_eq_nil_iff] using hfree
  have hwhole : s.saves.any (fun v => v.ctx == ctx && v.whole && !v.done) = false := by
    simp only [List.any_eq_false, Bool.and_eq_true] at hfree ⊢
    exact fun v hv ⟨⟨hctx, _⟩, hdone⟩ => hfree v hv ⟨hctx, hdone⟩
  simp [execPreempt, hnone, hwhole]

/-- A second pre-emption changes nothing while a whole save of the context stands. -/
theorem execPreempt_again {ctx : Nat} (hwhole : s.saves.any (fun v => v.ctx == ctx && v.whole && !v.done) = true) :
    execPreempt ctx s = .next s := by
  rw [execPreempt, if_pos hwhole]

theorem execSaveComplete_writes {id : Nat} {v : SaveSt} (hv : s.saves.find? (fun v => v.id == id) = some v)
    (hready : saveReady s v = true) : execSaveComplete id s = .next (writeSave s id v) := by
  simp [execSaveComplete, hv, hready]

theorem execPartialEviction_evicts {id core n : Nat} {l : Launch} (hl : launchAt? s id = some l)
    (hcore : evictCore? s l = some (core, n)) : execPartialEviction id core s = .next (evictTeams s (evictees s l core n)) := by
  simp only [execPartialEviction, hl, hcore, if_true]

/-! ### Restores (R103, R207, R208) -/

section
variable {vd : Nat}

/-- Where a save is held, the checks are those of R207. -/
theorem resumeStatus_held {k : Nat} (hheld : restorable s vd = true) (hstatus : (restoreStatus s vd).1 = k) :
    resumeStatus s vd = (k, (restoreStatus s vd).2) := by
  rw [resumeStatus, if_pos hheld, ← hstatus]

theorem nothingSaved_held (hheld : restorable s vd = true) : nothingSaved s vd = false := by
  simp [nothingSaved, hheld]

theorem nothingSaved_badTable (htable : tableOk s (vdAt s vd).ctx = false) : nothingSaved s vd = false := by
  simp [nothingSaved, htable]

/-- Where none is held, a place table that fails R103 refuses the restore. -/
theorem resumeStatus_badTable (hfree : restorable s vd = false) (htable : tableOk s (vdAt s vd).ctx = false) :
    resumeStatus s vd = (0x31, 0) := by
  simp [resumeStatus, nothingSaved, hfree, htable]

theorem execContextRestore_live {v : SaveSt} (hheld : restorable s vd = true) (hstatus : (restoreStatus s vd).1 = 0)
    (hv : saveOf? s vd (vdAt s vd).save = some v) :
    execContextRestore vd s =
      .next (makeLive (writeAreaState { s with cpStatus := 0 } (vdAt s vd).part (vdAt s vd).save 3) v) := by
  simp only [execContextRestore, resumeStatus_held hheld hstatus, hheld, hv, if_true]

/-- A restore that is refused, but for an error of the area, leaves the device suspended and the area as it is. -/
theorem execContextRestore_refuses {k off : Nat} (hstatus : resumeStatus s vd = (k, off)) (hsaved : nothingSaved s vd = false)
    (hk : k ∈ [0x30, 0x31, 0x32, 0x33, 0x36]) :
    execContextRestore vd s = .next (updVd { s with cpStatus := k } vd (fun b => { b with susp := true })) := by
  have hzero : k ≠ 0 := by rintro rfl; simp at hk
  have harea : ¬(k = 0x34 ∨ k = 0x35) := by rintro (rfl | rfl) <;> simp at hk
  simp only [execContextRestore, hstatus, hsaved, hzero, harea, if_false, Bool.false_eq_true]

/-- What becomes of a context whose save area holds an error or a wrong tag: the area and the context are marked damaged, the
hypervisor's log takes the place, the context's launches end, and its save is gone (R208). -/
def damageContext (s : State) (vd : Nat) (b : VdSt) (off : Nat) : State :=
  let marked := { writeAreaState s b.part b.save 2 with hvLog := s.hvLog ++ [(b.ctx, off)] }
  let launches := marked.launches.filter (fun l => l.kind == 1 && l.ctx == b.ctx && !(hasEnded l))
  let ended := (launches.map (·.id)).foldl (fun st l => killLaunch st l 0x25) (updVd marked vd (fun b => { b with damaged := true }))
  { ended with saves := ended.saves.map (fun x => if x.vd == vd then { x with held := false } else x) }

theorem execContextRestore_damaged {k off : Nat} (hstatus : resumeStatus s vd = (k, off)) (hsaved : nothingSaved s vd = false)
    (hk : k ∈ [0x34, 0x35]) : execContextRestore vd s =
      .next (damageContext (updVd { s with cpStatus := k } vd (fun b => { b with susp := true })) vd (vdAt s vd) off) := by
  have harea : k = 0x34 ∨ k = 0x35 := by simpa using hk
  have hzero : k ≠ 0 := by omega
  simp only [execContextRestore, hstatus, hsaved, hzero, harea, damageContext, if_true, if_false, Bool.false_eq_true]

/-- With no save held and a good table the restore sets a status, the one of an area that is not saved, and nothing else. -/
theorem execContextRestore_nothing (hfree : restorable s vd = false) (htable : tableOk s (vdAt s vd).ctx = true) :
    execContextRestore vd s = .next { s with cpStatus := if (restoreStatus s vd).1 = 0x30 then 0x30 else 0 } := by
  by_cases harea : (restoreStatus s vd).1 = 0x30
  · have hnothing : nothingSaved s vd = true := by simp [nothingSaved, hfree, htable, harea]
    simp [execContextRestore, resumeStatus, hnothing, hfree, harea]
  · have hsomething : nothingSaved s vd = false := by simp [nothingSaved, harea]
    simp [execContextRestore, resumeStatus, hsomething, hfree, htable, harea]

end

/-! ### The page-request queue (R274, R355) -/

theorem execPageRequestEnter_enters {fe : Nat} {p : PageReq} {b : Bool} (hp : s.pageHeld.find? (fun p => p.fe == fe) = some p)
    (hroom : pageRoom s fe = some b) :
    execPageRequestEnter fe s = .next { s with
      pageHeld := s.pageHeld.erase p
      pageReqs := s.pageReqs ++ [{ p with reserved := b }]
      hostIrq := if s.pageReqs.all (·.taken) then s.hostIrq + 1 else s.hostIrq } := by
  simp only [execPageRequestEnter, hp, hroom]

/-- The record that a read of the take register returns: the oldest of the next front end in turn that has one. -/
def nextPageReq? (s : State) : Option PageReq :=
  ((List.range 16).map (fun i => (s.pageLast + 1 + i) % 16)).findSome?
    (fun f => s.pageReqs.find? (fun p => p.fe == f && !p.taken))

theorem nextPageReq_none (hall : s.pageReqs.all (·.taken) = true) : nextPageReq? s = none := by
  refine List.findSome?_eq_none_iff.mpr fun f _ => List.find?_eq_none.mpr fun p hp => ?_
  simp [List.all_eq_true.mp hall p hp]

/-- Every front end has its turn among sixteen. -/
theorem mem_takeOrder (last : Nat) {fe : Nat} (hfe : fe < 16) : fe ∈ (List.range 16).map (fun i => (last + 1 + i) % 16) :=
  List.mem_map.mpr ⟨(fe + 15 * (last + 1)) % 16, List.mem_range.mpr (Nat.mod_lt _ (by decide)), by omega⟩

theorem nextPageReq_some (hany : s.pageReqs.any (fun p => !p.taken && decide (p.fe < 16)) = true) :
    ∃ p, nextPageReq? s = some p ∧ p ∈ s.pageReqs ∧ p.taken = false := by
  obtain ⟨q, hq, hopen⟩ := List.any_eq_true.mp hany
  simp only [Bool.and_eq_true, Bool.not_eq_true', decide_eq_true_eq] at hopen
  have hfound : (nextPageReq? s).isSome := List.findSome?_isSome_iff.mpr
    ⟨q.fe, mem_takeOrder s.pageLast hopen.2, List.find?_isSome.mpr ⟨q, hq, by simp [hopen.1]⟩⟩
  obtain ⟨p, hp⟩ := Option.isSome_iff_exists.mp hfound
  obtain ⟨f, -, hf⟩ := List.exists_of_findSome?_eq_some hp
  have htest := List.find?_some hf
  simp only [Bool.and_eq_true, Bool.not_eq_true'] at htest
  exact ⟨p, hp, List.mem_of_find?_eq_some hf, htest.2⟩

theorem execPageRequestTake_none (hnone : nextPageReq? s = none) :
    execPageRequestTake s = .next { s with takeReg := none } := by
  unfold nextPageReq? at hnone
  simp only [execPageRequestTake, hnone]

theorem execPageRequestTake_takes {p : PageReq} (hp : nextPageReq? s = some p) :
    execPageRequestTake s = .next { s with
      takeReg := some p
      pageLast := p.fe
      pageReqs := listUpd (fun x => x.token == p.token && x.engine == p.engine) (fun x => { x with taken := true }) s.pageReqs } := by
  unfold nextPageReq? at hp
  simp only [execPageRequestTake, hp]

section
variable {token : Nat} {c : CopyCmd} (hc : cmdAt? s token = some c) (hparked : c.phase = .parked)
include hc hparked

theorem execPageRequestRetry_retries : execPageRequestRetry token s =
    .next (freePageReq (updCmd s token (fun c => { c with phase := .started, fails := [] })) token true) := by
  simp [execPageRequestRetry, hc, hparked]

theorem execPageRequestAbort_aborts {p : PageReq}
    (hp : (s.pageReqs ++ s.pageHeld).find? (fun p => p.token == token && p.engine) = some p) :
    execPageRequestAbort token s = .next (freePageReq (abortCmd s c 1 p.va) token true) := by
  simp only [execPageRequestAbort, hc, hparked, hp, Option.elim_some, bne_self_eq_false, Bool.false_eq_true, if_false]

end

end

/-- Settles O38: each step tests its condition and then acts. -/
theorem faultAndSaveStepsComplete : Obligations.FaultAndSaveStepsComplete := by
  refine ⟨?record, ?goesOn, ?rerun, ?endGroup, ?endLaunch, ?invalid, ?preempt, ?again, ?save, ?evict, ?live, ?refused, ?damaged,
    ?badTable, ?nothing, ?enter, ?takeNone, ?take, ?retry, ?abort⟩
  case record => exact fun u s g r hg hready hstop => execTrapRecordAppend_queues hg hready hstop
  case goesOn => exact fun u s g r hg hstop hkind => execResumeContinue_goesOn hg hstop hkind
  case rerun => exact fun u s g r hg hstop hkind hnr => execResumeRerun_reruns hg hstop hkind hnr
  case endGroup => exact fun u s g r hg hstop => execResumeEndGroup_ends hg hstop
  case endLaunch => exact fun u s g r t hg hstop hteam => execResumeEndLaunch_ends hg hstop hteam
  case invalid => exact fun u a s g r hg hstop => execResumeInvalid_refuses hg hstop a
  case preempt => exact fun ctx s hfree => execPreempt_halts hfree
  case again => exact fun ctx s hwhole => execPreempt_again hwhole
  case save => exact fun id s v hv hready => execSaveComplete_writes hv hready
  case evict => exact fun id core s l n hl hcore => execPartialEviction_evicts hl hcore
  case live => exact fun vd s v hheld hstatus hv => execContextRestore_live hheld hstatus hv
  case refused =>
    intro vd s k hheld hstatus hk
    exact execContextRestore_refuses (resumeStatus_held hheld hstatus) (nothingSaved_held hheld) hk
  case damaged =>
    intro vd s k hheld hstatus hk
    exact execContextRestore_damaged (resumeStatus_held hheld hstatus) (nothingSaved_held hheld) hk
  case badTable =>
    intro vd s hfree htable
    exact execContextRestore_refuses (resumeStatus_badTable hfree htable) (nothingSaved_badTable htable) (by decide)
  case nothing => exact fun vd s hfree htable => execContextRestore_nothing hfree htable
  case enter => exact fun fe s p b hp hroom => execPageRequestEnter_enters hp hroom
  case takeNone => exact fun s hall => execPageRequestTake_none (nextPageReq_none hall)
  case take =>
    intro s hany
    obtain ⟨p, hp, hmem, hopen⟩ := nextPageReq_some hany
    exact ⟨p, hp, hmem, hopen, execPageRequestTake_takes hp⟩
  case retry => exact fun k s c hc hparked => execPageRequestRetry_retries hc hparked
  case abort => exact fun k s c p hc hparked hp => execPageRequestAbort_aborts hc hparked hp

end Sys2Proof.Machine
end

section
/-!
A group of an ended launch takes no exception (R194 action 3, R208), against the first clause of O53.
-/
namespace Sys2Proof.Machine

/-- A launch of one vector group is accepted and its team is placed on core 0: the launch has number 1, the team 1 and the
group 2. -/
def launchedGroup : State :=
  let record := { LaunchRec.none_ with nvec := 1, vregs := 8, levels := [⟨1, false, 1, 2⟩] }
  let accepted := (acceptCommand State.reset 0 0 1 record 0 [] []).2
  (launchAt? accepted 1).elim accepted (fun l => placeTeams accepted 1 l [⟨0, 0, 0⟩])

/-- System software ends that launch. Its group has no lanes left, and stands until its work in flight is complete. -/
def endedGroup : State := killLaunch launchedGroup 1 0x24

/-- The group of the ended launch stands, is not stopped, and its launch has a status. -/
theorem endedGroup_stands : ∃ g, groupAt? endedGroup 2 = some g ∧ g.stop = none ∧ groupKilled endedGroup g = true :=
  ⟨_, rfl, rfl, rfl⟩

/-- A fault of a group whose launch has been ended is dropped. -/
theorem raiseFault_killed {s : State} {u : Nat} {g : Group} (hg : groupAt? s u = some g) (hstop : g.stop = none)
    (hkilled : groupKilled s g = true) (e : TrapEntry) : raiseFault s u e = s := by
  simp only [raiseFault, hg, hstop, hkilled, if_true]

/-- Refutes O53: its first clause asks that a fault stop every group that is not stopped, and a group of an ended launch stops no
more. A translation fault of a load that was in flight as the launch of `endedGroup` ended makes no record. -/
theorem not_firstFaultOpensTheRecord : ¬ Obligations.FirstFaultOpensTheRecord := by
  intro ⟨hfirst, _⟩
  obtain ⟨g, hg, hstop, hkilled⟩ := endedGroup_stands
  obtain ⟨g', hg', -, -, -, r, hr, -⟩ := hfirst endedGroup 2 g (mkEntry 0x08 1 1 0 0 0 0 0 0) hg hstop
  rw [raiseFault_killed hg hstop hkilled, hg] at hg'
  cases hg'
  rw [hstop] at hr
  cases hr

end Sys2Proof.Machine
end

section
/-!
Steps of the matrix engines (R215, R216, R230, R238, R246, R247, R251).
-/
namespace Sys2Proof.Machine

section
variable {s : State}

/-! ### Releases of operand slots (R216) -/

/-- A release whose slots are neither fed nor read gives them up and completes. -/
theorem execSlotRelease_ready {op mask : Nat} {f : Flight} {g : Group} (hf : flightAt? s op = some f)
    (hwork : f.work = .release mask) (hg : groupAt? s f.uid = some g) (hready : releaseSlotsReady s f = true) :
    execSlotRelease op s = .next (completeFlight (updMat s g.core (fun m =>
      { m with claims := (maskSlots mask).foldl (fun cl o => mset 0 o 0 cl) m.claims })) f) := by
  simp [execSlotRelease, hf, hwork, hg, hready]

/-! ### The array and its feeds (R238, R246, R247, R251, R252) -/

section
variable {core : Nat} {f : Flight} (hf : (matAt s core).queue.head?.bind (flightAt? s) = some f)
include hf

theorem execArrayStart_ready (hready : arrayStartReady s core = true) :
    execArrayStart core s = .next (startArray s core f) := by
  simp [execArrayStart, hready, hf]

section
variable (hrunning : (matAt s core).running = true)
include hrunning

/-- An instruction of fixed extent has its effect as it leaves the array. -/
theorem execArrayComplete_plain (hop : isIterOp f.op = false) :
    execArrayComplete core s = .next (leaveArray (arrayEffect s core f) core f) := by
  simp [execArrayComplete, hf, hrunning, hop]

/-- An iteration has had its effect phase by phase, and leaves the array with KIND 0. -/
theorem execArrayComplete_iter (hop : isIterOp f.op = true) : execArrayComplete core s =
    .next (leaveArray (updMat s core (fun m => { m with loop := { m.loop with kind := 0 } })) core f) := by
  simp [execArrayComplete, hf, hrunning, hop]

theorem execIterationPhaseEnd_running (hkind : (matAt s core).loop.kind ≠ 0) :
    execIterationPhaseEnd core s = .next (endPhase s core f) := by
  simp [execIterationPhaseEnd, hf, hrunning, hkind]

end

end

section
variable {op : Nat} {f : Flight} (hf : flightAt? s op = some f)
include hf

theorem execMfeedComplete_frees :
    execMfeedComplete op s = .next (completeFlight (addFd s (flightCore s f) f.f.d.toNat false) f) := by
  simp [execMfeedComplete, hf]

theorem execMfeedaComplete_writes : execMfeedaComplete op s =
    .next (completeFlight (addFd (updMat s (flightCore s f) (fun m =>
      { m with slots := msetAll 0 (f.mems.map (fun p => (32768 * f.f.d.toNat + p.1, p.2))) m.slots }))
        (flightCore s f) f.f.d.toNat false) f) := by
  simp [execMfeedaComplete, hf]

end

/-! ### The rendezvous latch (R230) -/

section
variable {core : Nat}

section
variable (hready : latchReady s core = true)
include hready

theorem execGangRendezvous_agreed
    (hsame : latchMismatch s ((latchCores s core).filterMap (partner? s (latchOp s core))) = none) :
    execGangRendezvous core s = .next (letGang s (latchCores s core)) := by
  simp [execGangRendezvous, hready, hsame]

theorem execGangRendezvous_mismatched {k : Nat × Nat}
    (hdiffer : latchMismatch s ((latchCores s core).filterMap (partner? s (latchOp s core))) = some k) :
    execGangRendezvous core s = .next (latchFault s (latchOp s core) (latchCores s core) k.1 k.2) := by
  simp [execGangRendezvous, hready, hdiffer]

end

theorem execGangTimeout_late (hlate : latchLate s core = true) : execGangTimeout core s =
    .next (latchFault s (latchOp s core) (latchCores s core) 0x25 (matAt s core).gang.seq) := by
  simp [execGangTimeout, hlate]

end

end

/-- Settles O32: each step tests that it is ready and then acts; claims are taken without a test of their own, since each
waiting claim is tested as its turn comes. -/
theorem matrixStepsComplete : Obligations.MatrixStepsComplete := by
  refine ⟨?claim, ?release, ?start, ?plain, ?iter, ?mfeed, ?mfeeda, ?phase, ?agreed, ?mismatched, ?late⟩
  case claim => exact fun core s => rfl
  case release => exact fun op s f g mask hf hwork hg hready => execSlotRelease_ready hf hwork hg hready
  case start => exact fun core s f hf hready => execArrayStart_ready hf hready
  case plain => exact fun core s f hf hrunning hop => execArrayComplete_plain hf hrunning hop
  case iter => exact fun core s f hf hrunning hop => execArrayComplete_iter hf hrunning hop
  case mfeed => exact fun op s f hf => execMfeedComplete_frees hf
  case mfeeda => exact fun op s f hf => execMfeedaComplete_writes hf
  case phase => exact fun core s f hf hrunning hkind => execIterationPhaseEnd_running hf hrunning hkind
  case agreed => exact fun core s hready hsame => execGangRendezvous_agreed hready hsame
  case mismatched => exact fun core s k hready hdiffer => execGangRendezvous_mismatched hready hdiffer
  case late => exact fun core s hlate => execGangTimeout_late hlate

end Sys2Proof.Machine
end

section
/-!
An `mgmac` that the latch lets issue computes with the format blocks that the latch compared (R243), against the last clause of
O14, which asks for the blocks that stand in the scratchpad at the issue.
-/
namespace Sys2Proof.Machine

section
variable {c : Ctx} {s : State}

/-! ### What a ganged product answers -/

/-- A matrix instruction whose selected set holds all 32 lanes goes on to its own effect (R18). -/
theorem wholeGroup_whole (h : c.sel = 0xFFFFFFFF) (k : Verdict) : wholeGroup c k = k := if_neg (by simp [h])

theorem arrayIssue_acts {reads : List Nat} (hroom : arrayRoom s c = true)
    (hclear : reads.all (fun o => fdClear s (o / 16) (o % 16)) = true) (mems : List Byte) (vals : List DWord) :
    arrayIssue c reads mems vals s = .act (enterArray reads mems vals c s) := by
  have hfed : reads.any (fun o => !(fdClear s (o / 16) (o % 16))) = false := by simpa using hclear
  simp [arrayIssue, hroom, hfed]

section
variable {a : Arrival} (ha : (matAt s c.g.core).arrival = some a) (hlets : latchLets c s = true)
include ha hlets

/-- The latch has let the arrived member issue in this clk. -/
theorem granted_of_latchLets : a.uid = c.g.uid ∧ a.granted = c.clk + 1 := by
  simpa [latchLets, ha] using hlets

theorem ganged_latched (desc : Nat) (ready : Bool) (t : State) :
    ganged c desc ready (.act t) s = .act (clearLatch c t) := by
  simp [ganged, ha, granted_of_latchLets ha hlets]

theorem gangBlocks_latched : gangBlocks s c = .ok a.blocks := by
  simp [gangBlocks, ha, granted_of_latchLets ha hlets]

/-- An `mgmac` that the latch lets issue enters the array with the blocks that the latch compared (R243). -/
theorem ownMgmac_latched (hwhole : c.sel = 0xFFFFFFFF) (hgang : gangState s c = none)
    (hshape : macShape c (blocksOf a.blocks).1 (blocksOf a.blocks).2 = none) (hroom : arrayRoom s c = true)
    (hclear : (gangReads s c a.blocks).all (fun o => fdClear s (o / 16) (o % 16)) = true) :
    ownMgmac c s = .act (clearLatch c (enterArray (gangReads s c a.blocks) a.blocks [] c s)) := by
  simp only [ownMgmac, wholeGroup_whole hwhole, hgang, gangBlocks_latched ha hlets, hshape, arrayIssue_acts hroom hclear,
    ganged_latched ha hlets]

end

/-! ### The work in flight after it -/

theorem readMarks_flights (rs : List Nat) (up : Bool) (s : State) : (readMarks s rs up).flights = s.flights := by
  unfold readMarks
  induction rs generalizing s with
  | nil => rfl
  | cons r rs ih => exact ih (addRd s (r / 16) (r % 16) up)

theorem enterArray_flights (reads : List Nat) (mems : List Byte) (vals : List DWord) (c : Ctx) (s : State) :
    (enterArray reads mems vals c s).flights = s.flights ++
      [{ newFlight c .array with dests := destRegs c.op c.f, roots := reads, mems := bytesAt 0 mems, vals := vals }] := by
  unfold enterArray enqueueArray
  rw [readMarks_flights]
  rfl

theorem holdUnit_flights (s : State) (core : Nat) (u : ExecUnit) (n : Nat) : (holdUnit s core u n).flights = s.flights := by
  unfold holdUnit; split <;> rfl

theorem afterIssue_flights (s : State) (c : Ctx) : (afterIssue s c).flights = s.flights := by
  unfold afterIssue
  dsimp only
  split
  · exact holdUnit_flights s c.g.core _ _
  · rfl

/-- The bytes that an array instruction has read, in the last work in flight after its issue. -/
theorem enterArray_mems {reads reads' : List Nat} {mems mems' : List Byte}
    (h : afterIssue (clearLatch c (enterArray reads mems [] c s)) c =
      afterIssue (clearLatch c (enterArray reads' mems' [] c s)) c) :
    bytesAt 0 mems = bytesAt 0 mems' := by
  have hflights := congrArg State.flights h
  simp only [afterIssue_flights, clearLatch, updMat_rest, enterArray_flights, List.append_cancel_left_eq] at hflights
  exact (show reads = reads' ∧ bytesAt 0 mems = bytesAt 0 mems' by simpa using hflights).2

end

/-! ### A block that changes between the latch and the issue -/

/-- `mgmac.e4m3` with M = N = 16 and K = 32: A in slot 0, B in slot 1, the address of the format blocks in s0. -/
def gangProduct : ExtWord where
  ty := 14
  opx := 1
  sa := 0
  sb := 1
  sc := 0
  d := 0
  rm := 0
  sat := false
  kc := 0
  kb := 0
  ka := 0
  trc := false
  trb := false
  tra := false
  wait := 0
  setf := 0
  pe := false
  pn := false
  pk := 0
  dist := 0
  lit := none

/-- A member of a gang of two cores in one row, with slots 0 and 1 claimed, has arrived at the latch with that product. -/
def arriveInGang (core uid col : Nat) (s : State) : State :=
  updMat s core (fun m => { m with
    claims := [(0, 2), (1, 2)]
    gang := ⟨2, 0, 1, 0, col, 3, 0⟩
    member := some uid
    arrival := some ⟨uid, 0, 5, .mgmac, gangProduct, 0, 0, []⟩ })

/-- A launch of two teams of a vector and a matrix group is placed on cores 0 and 1. Both matrix groups, 3 and 6, have arrived with
a pair of blocks of E4M3 at address 0, and the clk is 10. -/
def arrivedGang : State :=
  let record := { LaunchRec.none_ with nvec := 1, nmat := 1, spad := 64, vregs := 8, levels := [⟨2, false, 1, 2⟩] }
  let accepted := (acceptCommand State.reset 0 0 1 record 0 [] []).2
  let placed := (launchAt? accepted 1).elim accepted (fun l => placeTeams accepted 1 l [⟨0, 0, 0⟩, ⟨1, 0, 1⟩])
  let filled := putSpad (putSpad placed 1 [(0, 4), (16, 4)]) 4 [(0, 4), (16, 4)]
  { arriveInGang 1 6 1 (arriveInGang 0 3 0 filled) with dies := List.replicate 4 { DieSt.reset with clk := 10 } }

/-- The latch lets the gang issue; then, in the same clk, the vector group of core 0, whose slot is the lower, stores E5M2 over the
EFMT of B's block, and the turn of the matrix group comes. -/
def overwrittenGang : State :=
  { putSpad (letGang arrivedGang (latchCores arrivedGang 0)) 1 [(16, 5)] with cur := some (3, 0) }

theorem arrivedGang_let :
    exec (.gangRendezvous 0) arrivedGang = .next (letGang arrivedGang (latchCores arrivedGang 0)) :=
  execGangRendezvous_agreed (by decide +kernel) (by decide +kernel)

/-- The member's arrival once the latch has let it issue at clk 10, with the blocks that the latch compared. -/
def latchedArrival : Arrival := ⟨3, 0, 5, .mgmac, gangProduct, 0, 11, readBytes [(0, 4), (16, 4)] 0 32⟩

theorem overwrittenGang_cur : (curSplit overwrittenGang).isSome = true := by decide +kernel

/-- The group and split whose turn has come in `overwrittenGang`. -/
def productTurn : Group × Split := (curSplit overwrittenGang).get overwrittenGang_cur

/-- What `mgmac` sees there. -/
def productCtx : Ctx := ctxOf .mgmac (.ext gangProduct) overwrittenGang productTurn.1 productTurn.2

/-- The state in which its issue is booked. -/
def productState : State := beginIssue overwrittenGang productCtx

theorem productTurn_passes : Passes .mgmac (.ext gangProduct) overwrittenGang productTurn.1 productTurn.2 where
  cur := (Option.some_get overwrittenGang_cur).symm
  delivered := by decide +kernel
  legal := by decide +kernel
  launchLegal := by decide +kernel
  ready := by decide +kernel
  lanes := by decide +kernel
  role := by decide +kernel
  trapFull := by decide +kernel
  blockFull := by decide +kernel
  unit := by decide +kernel
  acquire := by decide +kernel

theorem productCtx_whole : productCtx.sel = 0xFFFFFFFF := by decide +kernel

theorem productState_gang : gangState productState productCtx = none := by decide +kernel

theorem productState_lets : latchLets productCtx productState = true := by decide +kernel

theorem productState_room : arrayRoom productState productCtx = true := by decide +kernel

theorem productState_arrival : (matAt productState productCtx.g.core).arrival = some latchedArrival := by decide +kernel

/-- The blocks in the scratchpad pass every check of a product, as those of the latch do. -/
theorem productState_ready :
    macReady (fun bs => (gangReads productState productCtx bs).all (fun o => fdClear productState (o / 16) (o % 16)))
      productState productCtx := by
  refine ⟨?pair, ?shape, productState_room, ?clear⟩ <;> decide +kernel

/-- The instruction enters the array with the blocks of its arrival. -/
theorem productState_acts : ownMgmac productCtx productState = .act (clearLatch productCtx
    (enterArray (gangReads productState productCtx latchedArrival.blocks) latchedArrival.blocks [] productCtx productState)) :=
  ownMgmac_latched productState_arrival productState_lets productCtx_whole productState_gang (by decide +kernel)
    productState_room (by decide +kernel)

/-- They are not those that stand in the scratchpad. -/
theorem latchedArrival_blocks_ne : bytesAt 0 latchedArrival.blocks ≠ bytesAt 0 (macBlocks productState productCtx) := by
  decide +kernel

/-- Refutes O14: its last clause has an `mgmac` enter the array with the blocks that stand in the scratchpad as it issues. In
`overwrittenGang` a store that issues before it in the same clk has changed B's block after the latch compared it, and the
instruction takes the bytes that the latch compared (R243). -/
theorem not_matrixClaimsAndGangsComplete : ¬ Obligations.MatrixClaimsAndGangsComplete := by
  rintro ⟨-, -, -, -, -, -, -, -, -, -, -, -, hmgmac⟩
  have hclaimed := hmgmac gangProduct overwrittenGang productTurn.1 productTurn.2 productTurn_passes
    ⟨productCtx_whole, productState_gang, productState_lets, productState_ready⟩
  have hacts := issue_act productTurn_passes productState_acts
  exact latchedArrival_blocks_ne (enterArray_mems (Host.Outcome.next.inj (hacts.symm.trans hclaimed)))

end Sys2Proof.Machine
end

section
/-!
Array instructions: what passes their checks enters the array order (R235, R238, R241).
-/
namespace Sys2Proof.Machine

section
variable {c : Ctx} {s : State}

/-! ### The slots of a product (R240, R242) -/

/-- An operand that ends within the 16 slots spans none beyond them. -/
theorem spanSlots_lt {o r k w x : Nat} (hend : o * 32768 + r * k * w / 8 ≤ 16 * 32768) (hx : x ∈ spanSlots o r k w) : x < 16 := by
  have hbelow := (List.mem_range'_1.mp hx).2
  omega

/-- The operands of a product whose shape passes end within the 16 slots. -/
theorem operands_end_of_macShape {fa fb : FmtBlock} (h : macShape c fa fb = none) :
    c.f.sa.toNat * 32768 + macM c.f * macK c.f * efmtWidth fa.efmt / 8 ≤ 16 * 32768 ∧
      c.f.sb.toNat * 32768 + macN c.f * macK c.f * efmtWidth fb.efmt / 8 ≤ 16 * 32768 := by
  dsimp only [macShape] at h
  split_ifs at h with _ hbeyond
  obtain ⟨ha, hb⟩ := not_or.mp hbeyond
  exact ⟨Nat.not_lt.mp ha, Nat.not_lt.mp hb⟩

theorem macSlots_lt {bs : List Byte} {o : Nat} (h : macShape c (blocksOf bs).1 (blocksOf bs).2 = none) (ho : o ∈ macSlots c.f bs) :
    o < 16 := by
  obtain ⟨ha, hb⟩ := operands_end_of_macShape h
  rcases List.mem_append.mp ho with ho | ho
  · exact spanSlots_lt ha ho
  · exact spanSlots_lt hb ho

/-- Slots of the core's own engine, kept as 16 × core + slot, are clear where each is. -/
theorem ownReads_clear {slots : List Nat} {core : Nat} (hslots : ∀ o ∈ slots, o < 16 ∧ fdClear s core o = true) :
    (slots.dedup.map (fun o => 16 * core + o)).all (fun o => fdClear s (o / 16) (o % 16)) = true := by
  simp only [List.all_map, List.all_eq_true, List.mem_dedup, Function.comp_apply]
  intro o ho
  obtain ⟨hlt, hclear⟩ := hslots o ho
  have hcore : (16 * core + o) / 16 = core := by omega
  have hslot : (16 * core + o) % 16 = o := by omega
  rw [hcore, hslot, hclear]

/-! ### The instructions -/

theorem pairCheck_of_toOption {bs : List Byte} (h : (pairCheck s c).toOption = some bs) : pairCheck s c = .ok bs := by
  cases hp : pairCheck s c with
  | error v => simp [hp, Except.toOption] at h
  | ok xs => simpa [hp, Except.toOption] using h

section
variable (hwhole : c.sel = 0xFFFFFFFF)
include hwhole

theorem ownMmac_enters (ha : slotHeld s c.g.core c.f.sa.toNat c.g.slot = true)
    (hb : slotHeld s c.g.core c.f.sb.toNat c.g.slot = true)
    (hready : macReady (fun bs => (macSlots c.f bs).all (fun o => slotHeld s c.g.core o c.g.slot && fdClear s c.g.core o)) s c) :
    ownMmac c s = .act (enterArray ((macSlots c.f (macBlocks s c)).dedup.map (fun o => 16 * c.g.core + o)) (macBlocks s c) [] c s) := by
  obtain ⟨hpair, hshape, hroom, hslots⟩ := hready
  simp only [List.all_eq_true, Bool.and_eq_true] at hslots
  have hheld : (macSlots c.f (macBlocks s c)).all (fun o => slotHeld s c.g.core o c.g.slot) = true :=
    List.all_eq_true.mpr fun o ho => (hslots o ho).1
  have hclear := ownReads_clear fun o ho => ⟨macSlots_lt hshape ho, (hslots o ho).2⟩
  simp [ownMmac, wholeGroup_whole hwhole, ha, hb, pairCheck_of_toOption hpair, hshape, hheld, arrayIssue_acts hroom hclear]

section
variable (hroom : arrayRoom s c = true)
include hroom

theorem ownMmaci_enters (ha : c.f.d ≠ c.f.sa) (hb : c.f.d ≠ c.f.sb) : ownMmaci c s = .act (enterArray [] [] [] c s) := by
  simp [ownMmaci, wholeGroup_whole hwhole, ha, hb, arrayIssue_acts hroom List.all_nil]

theorem ownXfer_enters {write : Bool}
    (hrange : rangeCheck s c 4 write [((srcS s c 1).toNat, xferBytes c.f c.op)] = none) :
    ownXfer write c s = .act (enterArray [] [] [BitVec.ofNat 64 (srcS s c 1).toNat] c s) := by
  simp only [ownXfer, wholeGroup_whole hwhole, hrange, arrayIssue_acts hroom List.all_nil]

theorem ownMsmx_enters (hhalf : c.f.d.toNat / 2 = c.f.sa.toNat / 2) (hother : c.f.d ≠ c.f.sa) :
    ownMsmx c s = .act (enterArray [] [] [] c s) := by
  simp [ownMsmx, wholeGroup_whole hwhole, hhalf, hother, arrayIssue_acts hroom List.all_nil]

theorem ownPlainArray_enters : ownPlainArray c s = .act (enterArray [] [] [] c s) := by
  rw [ownPlainArray, wholeGroup_whole hwhole, arrayIssue_acts hroom List.all_nil]

theorem ownMcoef_enters : ownMcoef c s = .act (enterArray [] [] [coefValue c s] c s) := by
  rw [ownMcoef, wholeGroup_whole hwhole, arrayIssue_acts hroom List.all_nil]

end

end

end

/-- Settles O13: each own effect makes its checks and then enters the array; a product whose shape passes reads slots of its own
engine alone, so that what it waits for is the slots that its condition names. -/
theorem matrixArrayCompletes : Obligations.MatrixArrayCompletes := by
  refine ⟨?mmac, ?mmaci, ?mcbload, ?msmx, ?msnorm, ?mst, ?mld, ?mzero, ?mscale, ?mtrans, ?mstat, ?mcoef⟩
  case mmac => exact completesExt_of_own (fun _ => rfl) fun _ _ ⟨hwhole, ha, hb, hready⟩ => ownMmac_enters hwhole ha hb hready
  case mmaci => exact completesExt_of_own (fun _ => rfl) fun _ _ ⟨hwhole, hroom, ha, hb⟩ => ownMmaci_enters hwhole hroom ha hb
  case mcbload | mst | mld =>
    exact completesExt_of_own (fun _ => rfl) fun _ _ ⟨hwhole, hroom, hrange⟩ => ownXfer_enters hwhole hroom hrange
  case msmx =>
    exact completesExt_of_own (fun _ => rfl) fun _ _ ⟨hwhole, hroom, hhalf, hother⟩ => ownMsmx_enters hwhole hroom hhalf hother
  case msnorm | mzero | mscale | mtrans | mstat =>
    exact completesExt_of_own (fun _ => rfl) fun _ _ ⟨hwhole, hroom⟩ => ownPlainArray_enters hwhole hroom
  case mcoef => exact completesExt_of_own (fun _ => rfl) fun _ _ ⟨hwhole, hroom⟩ => ownMcoef_enters hwhole hroom

end Sys2Proof.Machine
end

section
/-!
Copy instructions: what passes the checks of R262 enters its engine, or completes at once (R262, R266, R267, R269, R270).
-/
namespace Sys2Proof.Machine

section
variable {c : Ctx} {s : State}

/-- A command that finds an entry, guard entries, free slots and room in PEND enters its engine. -/
theorem takeCmd_enters {cmd : CopyCmd} {gs : List Guard} {slots : List Nat} (h : cmdFits cmd gs slots c s) :
    takeCmd s c cmd gs slots = .act (enterCmd c cmd gs slots ((pendFor s c cmd).getD s)) := by
  obtain ⟨hpend, hroom⟩ := h
  obtain ⟨t, ht⟩ := Option.isSome_iff_exists.mp hpend
  simp [takeCmd, ht, hroom]

section
variable (hpass : copyFault c s = none)
include hpass

theorem ownCopy_enters (hbytes : copyTotal c s ≠ 0) (hfits : cmdFits (copyCmd c s) (copyGuards c s) [] c s) :
    ownCopy c s = .act (cmdEff copyCmd copyGuards (fun _ _ => []) c s) := by
  simp only [ownCopy, hpass, hbytes, if_false]
  exact takeCmd_enters hfits

theorem ownCopy_empty (hbytes : copyTotal c s = 0) : ownCopy c s = .act (doneEff c s) := by
  simp only [ownCopy, hpass, hbytes, if_true, doneEff]

end

theorem ownXslot_enters (hpass : xslotFault c s = none) (hfits : cmdFits (slotCmd c s) [] (slotSpan c s) c s) :
    ownXslot c s = .act (cmdEff slotCmd (fun _ _ => []) slotSpan c s) := by
  rw [ownXslot, hpass]
  exact takeCmd_enters hfits

theorem ownXprf_enters (hbytes : (srcS s c 2).toNat ≠ 0) (hmost : (srcS s c 2).toNat ≤ 16777215)
    (hfits : cmdFits (prfCmd c s) [] [] c s) :
    ownXprf c s = .act (cmdEff prfCmd (fun _ _ => []) (fun _ _ => []) c s) :=
  (if_neg (not_or.mpr ⟨hbytes, Nat.not_lt.mpr hmost⟩)).trans (takeCmd_enters hfits)

end

/-- Settles O15: every command is taken by the same test of an entry, guard entries, slots and PEND, behind the checks of its
own instruction. -/
theorem copiesComplete : Obligations.CopiesComplete := by
  refine ⟨?xcopy, ?xcopy2, ?xcopy3, ?xgath, ?xscat, ?xfill, ?xred, ?xcopyEmpty, ?xfillEmpty, ?xredEmpty, ?xslot, ?xprf, ?xhand,
    ?xstat, ?xcancel⟩
  case xcopy | xcopy2 | xcopy3 | xgath | xscat | xfill | xred =>
    exact completesExt_of_own (fun _ => rfl) fun _ _ ⟨hpass, hbytes, hfits⟩ => ownCopy_enters hpass hbytes hfits
  case xcopyEmpty | xfillEmpty | xredEmpty =>
    exact completesExt_of_own (fun _ => rfl) fun _ _ ⟨hpass, hbytes⟩ => ownCopy_empty hpass hbytes
  case xslot => exact completesExt_of_own (fun _ => rfl) fun _ _ ⟨hpass, hfits⟩ => ownXslot_enters hpass hfits
  case xprf => exact completesExt_of_own (fun _ => rfl) fun _ _ ⟨hbytes, hmost, hfits⟩ => ownXprf_enters hbytes hmost hfits
  case xhand => exact completesExt_of_own (fun _ => rfl) fun _ _ hfits => takeCmd_enters hfits
  case xstat => exact completesExt_of_own (fun _ => rfl) fun _ _ _ => act_of_scWrite rfl
  case xcancel => exact completesExt_of_own (fun _ => rfl) fun _ _ _ => rfl

end Sys2Proof.Machine
end

section
/-!
Spiral, promise and link instructions: what passes their checks starts (R294, R309, R313, R331).
-/
namespace Sys2Proof.Machine

section
variable {c : Ctx} {s : State}

theorem spiralOwn_starts (hcount : spiralCount c s ≤ 1048576) (hend : (srcS s c 1).toNat + spiralCount c s ≤ 2 ^ 64)
    (hslot : spiralSlot c s ≤ 2047) : spiralOwn c s = .act (startSpiral c s) := by
  simp only [spiralOwn, Nat.not_lt.mpr hcount, Nat.not_lt.mpr hend, Nat.not_lt.mpr hslot, decide_false, Bool.or_false,
    Bool.false_eq_true, if_false]

theorem promiseOwn_starts (hcells : ∀ x ∈ promiseCells c s, x < 2 ^ 48 ∧ x % 16 = 0) (hreleased : promiseHolds c s = false) :
    promiseOwn c s = .act (startPromise c s) := by
  have hbelow : (promiseCells c s).find? (fun x => decide (2 ^ 48 ≤ x)) = none :=
    List.find?_eq_none.mpr fun x hx => by simpa using (hcells x hx).1
  have haligned : (promiseCells c s).find? (fun x => x % 16 != 0) = none :=
    List.find?_eq_none.mpr fun x hx => by simpa using (hcells x hx).2
  simp only [promiseOwn, hbelow, haligned, hreleased, Bool.false_eq_true, if_false]

section
variable (hpass : linkCheck s c (srcS s c 1).toNat (sread c.g c.f.d.toNat).toNat (srcS s c 2) = none)
include hpass

theorem linkOwn_starts (hbytes : linkCount c s ≠ 0) : linkOwn c s = .act (startLink c s) := by
  simp only [linkOwn, hpass, hbytes, if_false]

theorem linkOwn_empty (hbytes : linkCount c s = 0) : linkOwn c s = .act (doneEff c s) := by
  simp only [linkOwn, hpass, hbytes, if_true, doneEff]

end

end

/-- Settles O16: the instructions of each of the three families share their checks and their start. -/
theorem spiralPromiseLinkComplete : Obligations.SpiralPromiseLinkComplete := by
  refine ⟨?hdist, ?hpin, ?hunpin, ?hpre, ?hdemote, ?hocc, ?pmake, ?pfill, ?peq, ?pwait, ?ppoll, ?pfind, ?lput, ?lget, ?lallred,
    ?lallgat, ?lredsc, ?lbcast, ?lputEmpty, ?lgetEmpty, ?lallredEmpty, ?lallgatEmpty, ?lredscEmpty, ?lbcastEmpty⟩
  case hdist | hpin | hunpin | hpre | hdemote | hocc =>
    exact completesExt_of_own (fun _ => rfl) fun _ _ ⟨hcount, hend, hslot⟩ => spiralOwn_starts hcount hend hslot
  case pmake | pfill | peq | pwait | ppoll | pfind =>
    exact completesExt_of_own (fun _ => rfl) fun _ _ ⟨hcells, hreleased⟩ => promiseOwn_starts hcells hreleased
  case lput | lget | lallred | lallgat | lredsc | lbcast =>
    exact completesExt_of_own (fun _ => rfl) fun _ _ ⟨hpass, hbytes⟩ => linkOwn_starts hpass hbytes
  case lputEmpty | lgetEmpty | lallredEmpty | lallgatEmpty | lredscEmpty | lbcastEmpty =>
    exact completesExt_of_own (fun _ => rfl) fun _ _ ⟨hpass, hbytes⟩ => linkOwn_empty hpass hbytes

end Sys2Proof.Machine
end

section
/-!
Steps of promises (R306, R307, R310, R311).
-/
namespace Sys2Proof.Machine

section
variable {s : State}

theorem execPromiseVisit_goesOn {op : Nat} {f : Flight} {r : Req} (hf : flightAt? s op = some f)
    (hr : s.reqs.find? (fun r => r.op == op && promReady s r) = some r) : execPromiseVisit op s = .next (promStep s f r) := by
  simp only [execPromiseVisit, hf, hr]

/-- The front whose turn the halving write is serves it, and the other request of its clk. -/
theorem execPromiseCasParent_serves {id : Nat} {r x : Req} (hr : reqAt? s id = some r) (hturn : nextServed s r.arm = some x)
    (hx : x.id = id) : execPromiseCasParent id s =
      .next (updArm (serveNext (serveOne s r.arm id) r.arm) r.arm (fun a => { a with served := true })) := by
  simp only [execPromiseCasParent, hr, hturn, hx, if_true]

/-- The first request that waits for a cell's lock leaves the queue and is served. -/
theorem execPromiseLockGrant_serves {cell : Nat} {p : Nat × Nat} {r : Req} (hfree : lockFree s cell = true)
    (hp : s.lockq.find? (fun p => p.1 == cell) = some p)
    (hr : reqAt? { s with lockq := s.lockq.filter (fun q => q.2 != p.2) } p.2 = some r) : execPromiseLockGrant cell s =
      .next (serveOne { s with lockq := s.lockq.filter (fun q => q.2 != p.2) } r.arm r.id) := by
  simp only [execPromiseLockGrant, hfree, hp, hr, Bool.not_true, Bool.false_eq_true, if_false]

theorem execPromiseWakeSend_sends {cell : Nat} {w : Wake} (hw : s.wakes.find? (fun w => w.cell == cell && !w.sent) = some w) :
    execPromiseWakeSend cell s = .next (sendWake s w) := by
  simp only [execPromiseWakeSend, hw]

/-- The value reaches the wait of the slot whose context and generation match. -/
theorem execPromiseWakeArrive_completes {id : Nat} {w : Wake} {g : Group} {f : Flight}
    (hw : s.wakes.find? (fun w => w.id == id) = some w)
    (hg : s.groups.find? (fun g => g.core == w.w.core && g.slot == w.w.slot &&
      groupCtx { s with wakes := s.wakes.filter (fun x => x.id != id) } g == w.w.ctx) = some g)
    (hf : s.flights.find? (fun f => f.uid == g.uid && f.op == .pwait && f.step == .waiting && f.at2 == w.w.gen) = some f)
    (hgen : f.gen = g.gen) : execPromiseWakeArrive id s =
      .next (completeWith (updGroup { s with wakes := s.wakes.filter (fun x => x.id != id) } g.uid
        (fun g => { g with horizon := max g.horizon w.ct })) f w.value) := by
  simp only [execPromiseWakeArrive, hw, hg, hf, hgen, bne_self_eq_false, Bool.false_eq_true, if_false]

end

/-- Settles O35: each step finds the request, cell or wake that it goes on with, and then acts. -/
theorem promiseStepsComplete : Obligations.PromiseStepsComplete := by
  refine ⟨?visit, ?halve, ?lock, ?send, ?arrive⟩
  case visit => exact fun op s f r hf hr => execPromiseVisit_goesOn hf hr
  case halve => exact fun id s r x hr hturn hx => execPromiseCasParent_serves hr hturn hx
  case lock => exact fun cell s p r hfree hp hr => execPromiseLockGrant_serves hfree hp hr
  case send => exact fun cell s w hw => execPromiseWakeSend_sends hw
  case arrive => exact fun id s w g f hw hg hf hgen => execPromiseWakeArrive_completes hw hg hf hgen

end Sys2Proof.Machine
end

section
/-!
Steps of links, collectives, the signal of `lput`, and the accesses of the host die (R324, R326, R329, R332, R334).
-/
namespace Sys2Proof.Machine

section
variable {s : State}

/-! ### Frames (R324) -/

section
variable {l : Nat} {f : LinkFrame} (hup : (s.links.getD l LinkSt.none_).up = true)
include hup

/-- The frame that is awaited is taken. -/
theorem execLinkFrameReceive_takes (hcrc : f.crcOk = true) (hbody : ∀ n, f.body ≠ .again n)
    (hseq : f.seq = (s.links.getD l LinkSt.none_).rx) :
    execLinkFrameReceive l f s = .next (takeFrame { s with
      links := (s.links.modify l (acceptedUpTo f.acc)).modify l (fun x =>
        { x with rx := x.rx + 1, retries := 0, asked := false }) } f) := by
  cases hb : f.body with
  | again n => exact absurd hb (hbody n)
  | _ =>
    simp only [execLinkFrameReceive, hup, hcrc, hb, hseq, bne_self_eq_false, Bool.not_true, Bool.false_eq_true, if_false]

/-- A request to send again is met. -/
theorem execLinkFrameReceive_sendsAgain {n : Nat} (hcrc : f.crcOk = true) (hbody : f.body = .again n)
    (hfew : (s.links.getD l LinkSt.none_).resends < 16) :
    execLinkFrameReceive l f s = .next { s with
      links := (s.links.modify l (acceptedUpTo f.acc)).modify l (sendAgain s.module n) } := by
  simp only [execLinkFrameReceive, hup, hcrc, hbody, Nat.succ_le_of_lt hfew, Bool.not_true, Bool.false_eq_true, if_false, if_true]

/-- A frame whose CRC fails is asked for again. -/
theorem execLinkFrameReceive_asksAgain (hcrc : f.crcOk = false) (hfew : (s.links.getD l LinkSt.none_).retries < 16) :
    execLinkFrameReceive l f s = .next (askAgain s l) := by
  simp only [execLinkFrameReceive, hup, hcrc, Nat.succ_le_of_lt hfew, Bool.not_true, Bool.not_false, Bool.false_eq_true, if_false,
    if_true]

end

/-! ### Collectives (R329, R334) -/

section
variable {id : Nat} {x : Coll} (hx : s.colls.find? (fun x => x.id == id) = some x)
include hx

section
variable (hready : collReady s x = true)
include hready

section
variable {b : Brought} {bs : List Brought} (hagreed : collVerdict s x = none) (hbrought : x.brought = b :: bs)
include hagreed hbrought

/-- Members that agree begin to read their sources. -/
theorem execCollectiveMatch_begins (hnew : x.matched = false) : execCollectiveMatch id s = .next (beginReads s x) := by
  simp [execCollectiveMatch, hx, hready, hagreed, hbrought, hnew]

/-- A collective whose members have agreed goes on. -/
theorem execCollectiveMatch_goesOn (hmatched : x.matched = true) : execCollectiveMatch id s = .next (goOnColl s x b) := by
  simp [execCollectiveMatch, hx, hready, hagreed, hbrought, hmatched]

end

theorem execCollectiveMatch_faults {k : Nat × Nat} (hverdict : collVerdict s x = some k) :
    execCollectiveMatch id s = .next (collFault s x k.1 k.2) := by
  simp [execCollectiveMatch, hx, hready, hverdict]

end

/-- A collective for which some member has not issued in time, nor its word had time to arrive, faults. -/
theorem execCollectiveTimeout_faults (hnew : x.matched = false) (hmissing : x.brought.length ≠ commNm1 s x.part x.comm + 1)
    (hlate : collDeadline s x.part x.comm x.first + collGrace ≤ timeNs s) (hop : x.op.isSome = true) :
    execCollectiveTimeout id s = .next (faultColl s x 0x63 3) := by
  simp [execCollectiveTimeout, hx, hnew, hmissing, Nat.not_lt.mpr hlate, hop]

theorem execCollectiveComplete_completes {f : Flight} (hdone : collDone x = true)
    (hf : x.op.bind (flightAt? { s with colls := s.colls.filter (fun y => y.id != id) }) = some f) :
    execCollectiveComplete id s = .next (freeXfer (completeFlight { s with colls := s.colls.filter (fun y => y.id != id) } f)
      (flightCore { s with colls := s.colls.filter (fun y => y.id != id) } f)) := by
  simp [execCollectiveComplete, hx, hdone, hf]

end

/-! ### The signal of `lput` (R332) -/

/-- The request that adds a part of a signal, `.stay` but through a mapping forced to memory. -/
def signalReq (s : State) (c : CopyCmd) (ask : Ask) (va : Nat) : Req :=
  let r := engineReq (newId s).2 c (newId s).1 ask va
  { r with pol := if r.pol = 3 then 3 else 1 }

theorem sendSignal_eq (s : State) (c : CopyCmd) (ask : Ask) (va : Nat) : sendSignal s c ask va =
    updCmd (sendReq (newId s).2 (signalReq s c ask va) 0) c.id (fun c => { c with phase := .signalled, writes := [(newId s).1] }) :=
  rfl

theorem signalReq_line {c : CopyCmd} {va : Nat} {e : TlbEntry} (he : cmdTlb s c va = some e) (ask : Ask) :
    (signalReq s c ask va).line = entryPa e va / 128 := by
  have he' : cmdTlb (newId s).2 c va = some e := he
  simp [signalReq, engineReq, blankReq, he']

section
variable {op : Nat} {c : CopyCmd} (hc : cmdAt? s op = some c) (hready : signalReady s c = true)
include hc hready

/-- A signal whose pages are all translated and allowed is sent, its low part first where its word lies in two lines. -/
theorem execLputSignal_sends (hpages : ∀ va ∈ sigPages (c.desc.headD 0),
      cmdTlb s c va ≠ none ∧ pageForbids s c (va, true) = false ∧ pageForbids s c (va, false) = false) :
    execLputSignal op s = .next (sendSignal s c (sigPart c false) (c.desc.headD 0)) := by
  have hpage : ∀ p ∈ (sigPages (c.desc.headD 0)).map (fun va => (va, true)), (cmdTlb s c p.1).isNone = false ∧
      pageForbids s c p = false ∧ pageForbids s c (p.1, false) = false := by
    simpa [Option.ne_none_iff_isSome] using hpages
  have hknown : ((sigPages (c.desc.headD 0)).map (fun va => (va, true))).filter
      (fun p => (cmdTlb s c p.1).isNone && (pageFailed c p.1).isNone) = [] :=
    List.filter_eq_nil_iff.mpr fun p hp => by simp [(hpage p hp).1]
  have htranslated : ((sigPages (c.desc.headD 0)).map (fun va => (va, true))).find? (fun p => (cmdTlb s c p.1).isNone) = none :=
    List.find?_eq_none.mpr fun p hp => by simp [(hpage p hp).1]
  have hallowed : ((sigPages (c.desc.headD 0)).map (fun va => (va, true))).find?
      (fun p => pageForbids s c p || pageForbids s c (p.1, false)) = none :=
    List.find?_eq_none.mpr fun p hp => by simp [(hpage p hp).2]
  simp only [execLputSignal, hc, hready, hknown, htranslated, hallowed, Bool.not_true, Bool.false_eq_true, if_false]

/-- A signal whose word lies in one line adds one to the whole word. -/
theorem execLputSignal_oneLine {e : TlbEntry} (hline : c.desc.headD 0 % 128 ≠ 124) (he : cmdTlb s c (c.desc.headD 0) = some e)
    (hwrite : pageForbids s c (c.desc.headD 0, true) = false) (hread : pageForbids s c (c.desc.headD 0, false) = false) :
    execLputSignal op s = .next (sendSignal s c (.reduce .add tyN64 8 [(c.desc.headD 0 % 128, 1)]) (c.desc.headD 0)) := by
  have hpages : sigPages (c.desc.headD 0) = [c.desc.headD 0] := if_neg hline
  have hpart : sigPart c false = .reduce .add tyN64 8 [(c.desc.headD 0 % 128, 1)] := if_neg hline
  have hpage : ∀ va ∈ sigPages (c.desc.headD 0),
      cmdTlb s c va ≠ none ∧ pageForbids s c (va, true) = false ∧ pageForbids s c (va, false) = false := by
    rw [hpages, List.forall_mem_singleton]
    exact ⟨Option.ne_none_iff_exists'.mpr ⟨e, he⟩, hwrite, hread⟩
  rw [execLputSignal_sends hc hready hpage, hpart]

end

/-! ### The host die (R326) -/

/-- An access by `.stay` is served by no copy of the host die. -/
theorem execHostAccess_stay {a : HostAcc} (hfree : s.hostWaits.contains a.core = false) (hpol : a.pol = 1) : execHostAccess a s =
    .next ((actLines a.act).foldl (fun st p => hostReq st (.host a.core) a.part a.pol p.1 p.2) s) := by
  rw [execHostAccess, hfree]
  simp [hpol]

theorem execHostBarrier_quiet {core : Nat} (hquiet : hostQuiet s core = true) :
    execHostBarrier core s = .next { s with hostWaits := s.hostWaits.filter (· != core) } := by
  simp [execHostBarrier, hquiet]

end

/-- Settles O36: each step tests that it is ready and then acts; link failures, PCIe accesses and samples of time make no test of
their own. -/
theorem fabricStepsComplete : Obligations.FabricStepsComplete := by
  refine ⟨?take, ?resend, ?ask, ?down, ?begin, ?goOn, ?fault, ?late, ?complete, ?oneLine, ?signal, ?host, ?barrier, ?write, ?msi,
    ?read, ?sample, ?loss⟩
  case take => exact fun l f s hup hcrc hbody hseq => execLinkFrameReceive_takes hup hcrc hbody hseq
  case resend => exact fun l f s n hup hcrc hbody hfew => execLinkFrameReceive_sendsAgain hup hcrc hbody hfew
  case ask => exact fun l f s hup hcrc hfew => execLinkFrameReceive_asksAgain hup hcrc hfew
  case down => exact fun l s => rfl
  case begin =>
    exact fun id s x b bs hx hready hagreed hbrought hnew => execCollectiveMatch_begins hx hready hagreed hbrought hnew
  case goOn =>
    exact fun id s x b bs hx hready hagreed hbrought hmatched => execCollectiveMatch_goesOn hx hready hagreed hbrought hmatched
  case fault => exact fun id s x k hx hready hverdict => execCollectiveMatch_faults hx hready hverdict
  case late => exact fun id s x hx hnew hmissing hlate hop => execCollectiveTimeout_faults hx hnew hmissing hlate hop
  case complete => exact fun id s x f hx hdone hf => execCollectiveComplete_completes hx hdone hf
  case oneLine =>
    exact fun op s c e hc hready hline _ he hwrite hread =>
      ⟨signalReq s c _ _, rfl, signalReq_line he _, rfl, rfl, execLputSignal_oneLine hc hready hline he hwrite hread⟩
  case signal => exact fun op s c hc hready hpages => execLputSignal_sends hc hready hpages
  case host => exact fun a s hfree hpol => execHostAccess_stay hfree hpol
  case barrier => exact fun core s hquiet => execHostBarrier_quiet hquiet
  case write | msi => exact fun r a bs s => rfl
  case read => exact fun r a n s => rfl
  case sample => exact fun m t s => rfl
  case loss => exact fun s => rfl

end Sys2Proof.Machine
end

section
/-!
What module reset leaves (R370, R371, R375, R378).
-/
namespace Sys2Proof.Machine

/-- At reset a die is at operating point 0, with no limit below its ceiling (R370, R375). -/
theorem dieAt_reset (d : Nat) : dieAt State.reset d = DieSt.reset := by
  rw [dieAt, List.getD_eq_getElem?_getD]
  exact List.getElem?_getD_replicate_default_eq _ _ _

/-- At reset every link is up, with nothing sent or awaited. -/
theorem links_reset {l : LinkSt} (h : l ∈ State.reset.links) : l.up = true ∧ l.tx = 0 ∧ l.rx = 0 ∧ l.out = [] ∧ l.sent = [] ∧
    l.asked = false := by
  obtain rfl : l = ⟨true, 0, 0, 0, 0, 0, [], [], false⟩ := List.eq_of_mem_replicate h
  exact ⟨rfl, rfl, rfl, rfl, rfl, rfl⟩

/-- Settles O58: the tables that are to be empty are empty lists, and a lookup in an empty table gives the entry of a descriptor at
reset. -/
theorem resetState : Obligations.ResetState := by
  refine ⟨rfl, rfl, fun _ => rfl, rfl, rfl, rfl, rfl, rfl, rfl, rfl, rfl, rfl, rfl, rfl, rfl, rfl, rfl, rfl, rfl, rfl, rfl, rfl, rfl,
    rfl, rfl, rfl, rfl, rfl, rfl, rfl, rfl, rfl, rfl, rfl, rfl, ?dies, fun _ => ⟨rfl, rfl, rfl⟩, rfl, fun _ hl => links_reset hl, rfl,
    ?box, rfl, ?scrub⟩
  case dies =>
    intro d _
    rw [dieAt_reset]
    exact ⟨rfl, rfl, rfl⟩
  case box => decide
  case scrub =>
    intro d hd
    obtain rfl := List.mem_singleton.mp hd
    exact ⟨rfl, rfl⟩

/-- Settles O59: no byte of device memory is listed, and no code store. -/
theorem resetIsCanonical : Obligations.ResetIsCanonical := rfl

end Sys2Proof.Machine
end
